-- ==== Sys2Proof/Word.lean ====
section
/-! DEFINITION. The word types of the Izuevon (00_scope R7, 09_memory_spaces R186). -/

namespace Sys2Proof

/-- The smallest addressable unit. -/
abbrev Byte := BitVec 8
/-- One register of one thread (04_registers R84). -/
abbrev Word := BitVec 32
/-- A register pair, a literal word, a 64-bit control register. -/
abbrev Dword := BitVec 64
/-- A set of lanes, one bit each (02_execution_model R27). -/
abbrev Mask := BitVec 32
/-- A virtual address (R186). -/
abbrev Va := BitVec 72
/-- An intermediate address (R186). -/
abbrev Ia := BitVec 64

end Sys2Proof
end

