-- ==== Sys2Proof/Config.lean ====
section
/-! DEFINITION. What is fixed for one package: the part (00_scope R1, R2), and the free values, which the spec leaves
open and about which nothing can be proved. -/

namespace Sys2Proof

/-- The two ordering numbers (R1). -/
inductive Part where
  | iz4 | iz2
deriving DecidableEq, Repr

namespace Config

/-- Compute dies (R1). -/
def dieCount : Part → Nat
  | .iz4 => 4
  | .iz2 => 2
/-- Cores (R1). -/
def cores (p : Part) : Nat := 48 * dieCount p
/-- Residue arithmetic present (R1). -/
def residue : Part → Bool
  | .iz4 => true
  | .iz2 => false
/-- Dusel ports present (R1). -/
def dusel : Part → Bool
  | .iz4 => true
  | .iz2 => false
/-- Cross-package `MCAS` present (R1). -/
def xpkgMcas : Part → Bool
  | .iz4 => true
  | .iz2 => false
/-- CAPS (R2). -/
def caps : Part → Dword
  | .iz4 => 0x10C0400F
  | .iz2 => 0x08602004
/-- MWAKE (R88): cycles a gated bench takes to wake. -/
def mwake : Nat := 180
/-- Tenths of a tick in ten cycles, by clock step (R6, R358): 3.3, 2.8, 2.3, 1.8, 1.0 GHz. -/
def freq : Nat → Nat
  | 0 => 33
  | 1 => 28
  | 2 => 23
  | 3 => 18
  | _ => 10

/-- Cycles that the n-th message takes beyond its unloaded time (R24, R375). Free value, log entry 4. -/
opaque extraDelay : Nat → Nat
/-- The n-th choice that the spec leaves to the hardware (R200, R228). Free value, log entry 6. -/
opaque choice : Nat → Bool
/-- What the n-th answer from outside the package holds, byte by byte (17_platform). Free value, log entry 14. -/
opaque outsideByte : Nat → Nat → Byte
/-- How the n-th access outside the package ends: 0 completes, otherwise an error of that code. Free value, log
entry 14. -/
opaque outsideStatus : Nat → Nat
/-- IDREG of the PCIe ports (R350): vendor, device and revision, which the spec does not give. See log entry 4 (DESIGN CHOICE). -/
opaque pcieId : Nat
/-- The fused hash of the signing key (R344), 64 bytes. See log entry 4 (DESIGN CHOICE). -/
opaque fuseKeyHash : Nat → Byte
/-- The fused secret UDS (R346). See log entry 4 (DESIGN CHOICE). -/
opaque fuseUds : Nat → Byte
/-- ML-DSA-65 verification of a signature over a message by a public key (R344), named by the spec and not given.
Log entry 15. -/
opaque mldsaVerify : List Byte → List Byte → List Byte → Bool
/-- Byte `i` of the ML-DSA-65 public key made from a seed (R346). Log entry 15. -/
opaque mldsaPublic : List Byte → Nat → Byte
/-- Byte `i` of the ML-DSA-65 signature by the key made from a seed (R346). Log entry 15. -/
opaque mldsaSign : List Byte → List Byte → Nat → Byte
/-- A value the spec leaves unstated, for the n-th use. Log entry 4. -/
opaque freeWord : Nat → Dword

end Config
end Sys2Proof
end

