-- ==== Sys2Proof/Syntax.lean ====
section
/-! DEFINITION. The instructions of the opcode table, one constructor per row (03_encoding R57 to R83): the
extended forms, the short forms, and the events of the part that the table lists as steps of its own. -/

namespace Sys2Proof

/-- The type field of the modifier word (R67). -/
inductive Ty where
  | dflt | s8 | s16 | s32 | s64 | z8 | z16 | z32 | z64 | f32 | bf16 | f16
  | e4m3 | e5m2 | e2m3 | e3m2 | e2m1 | i4s | i8 | rn30
deriving DecidableEq, Repr

/-- Rounding modes (R67, R103). -/
inductive Rnd where
  | rne | rtz | rdn | rup | rsr
deriving DecidableEq, Repr

/-- Scopes (R67, R215). -/
inductive Scope where
  | thread | quad | warp | group | cluster | die | pkg | sys
deriving DecidableEq, Repr

/-- Orders (R67, R216). -/
inductive Order where
  | rlx | acq | rel | ar | sc
deriving DecidableEq, Repr

/-- A source operand (R65): a register, zero, or a half of the literal word. -/
inductive Src where
  | reg (n : BitVec 9)
  | zero
  | lo
  | hi
deriving DecidableEq, Repr

/-- The keep field (R78). -/
inductive Keep where
  | none | a | b | c
deriving DecidableEq, Repr

/-- The fields of an extended instruction (R63), its codes already read by R65 and R67. `cls` is bits 23:18 of
word 2 and `sub` bits 31:24; `lit` is the literal word, present when the length is 11. -/
structure Fields where
  d : BitVec 9 := 0
  a : Src := .reg 0
  b : Src := .reg 0
  c : Src := .reg 0
  one : Bool := false
  pneg : Bool := false
  pred : BitVec 3 := 7
  keep : Keep := .none
  stall : BitVec 3 := 0
  sub : BitVec 8 := 0
  cls : BitVec 6 := 0
  absA : Bool := false
  negB : Bool := false
  negA : Bool := false
  sat : Bool := false
  order : Order := .rlx
  scope : Scope := .thread
  rnd : Rnd := .rne
  ty : Ty := .dflt
  lit : Option Dword := Option.none
deriving DecidableEq, Repr

/-- The fields of a base word (R60). -/
structure Short where
  one : Bool := false
  keepA : Bool := false
  stall : BitVec 3 := 0
  a : BitVec 9 := 0
  d : BitVec 9 := 0
deriving DecidableEq, Repr

/-- The short `MOVK` (R62): `pair` is the a field, 0 or 1. -/
structure ShortLit where
  one : Bool := false
  stall : BitVec 3 := 0
  pair : Bool := false
  d : BitVec 9 := 0
  lit : Dword := 0
deriving DecidableEq, Repr

/-- `SBRA` (R62): an 18-bit word offset. -/
structure ShortBranch where
  one : Bool := false
  stall : BitVec 3 := 0
  off : BitVec 18 := 0
deriving DecidableEq, Repr

/-- Every row of the opcode table. The docstring of a constructor names the row and its rule. The arguments of an
event name what it happens to: a core, a slot, an operation in flight by its number. An event of the platform takes what
the outside brings, or the operation it stands for, from the state's event data. -/
inductive Instr where
  /-- IADD (R116). -/
  | iadd (f : Fields)
  /-- ISUB (R116). -/
  | isub (f : Fields)
  /-- IMUL (R116). -/
  | imul (f : Fields)
  /-- IMULH (R116). -/
  | imulh (f : Fields)
  /-- IMAD (R116). -/
  | imad (f : Fields)
  /-- IMADW (R118). -/
  | imadw (f : Fields)
  /-- IDIV (R119). -/
  | idiv (f : Fields)
  /-- IREM (R119). -/
  | irem (f : Fields)
  /-- IABS (R116). -/
  | iabs (f : Fields)
  /-- IMIN (R116). -/
  | imin (f : Fields)
  /-- IMAX (R116). -/
  | imax (f : Fields)
  /-- IADDC (R117). -/
  | iaddc (f : Fields)
  /-- ISUBB (R117). -/
  | isubb (f : Fields)
  /-- LEA (R121). -/
  | lea (f : Fields)
  /-- ISETP (R130). -/
  | isetp (f : Fields)
  /-- ISEL (R131). -/
  | isel (f : Fields)
  /-- AND (R122). -/
  | and (f : Fields)
  /-- OR (R122). -/
  | or (f : Fields)
  /-- XOR (R122). -/
  | xor (f : Fields)
  /-- ANDN (R122). -/
  | andn (f : Fields)
  /-- NOT (R122). -/
  | not (f : Fields)
  /-- SHL (R123). -/
  | shl (f : Fields)
  /-- SHR (R123). -/
  | shr (f : Fields)
  /-- SAR (R123). -/
  | sar (f : Fields)
  /-- ROTL (R123). -/
  | rotl (f : Fields)
  /-- FSHF (R124). -/
  | fshf (f : Fields)
  /-- BFX (R125). -/
  | bfx (f : Fields)
  /-- BFI (R125). -/
  | bfi (f : Fields)
  /-- POPC (R126). -/
  | popc (f : Fields)
  /-- CLZ (R126). -/
  | clz (f : Fields)
  /-- CTZ (R126). -/
  | ctz (f : Fields)
  /-- BREV (R126). -/
  | brev (f : Fields)
  /-- PRMB (R127). -/
  | prmb (f : Fields)
  /-- LUT3 (R128). -/
  | lut3 (f : Fields)
  /-- IDOT4 (R129). -/
  | idot4 (f : Fields)
  /-- IDOT2 (R129). -/
  | idot2 (f : Fields)
  /-- PSET (R132). -/
  | pset (f : Fields)
  /-- FADD (R138). -/
  | fadd (f : Fields)
  /-- FSUB (R138). -/
  | fsub (f : Fields)
  /-- FMUL (R138). -/
  | fmul (f : Fields)
  /-- FFMA (R138). -/
  | ffma (f : Fields)
  /-- FMIN (R139). -/
  | fmin (f : Fields)
  /-- FMAX (R139). -/
  | fmax (f : Fields)
  /-- FSETP (R140). -/
  | fsetp (f : Fields)
  /-- FCLASS (R141). -/
  | fclass (f : Fields)
  /-- FRCP (R143). -/
  | frcp (f : Fields)
  /-- FRSQ (R143). -/
  | frsq (f : Fields)
  /-- FSQRT (R143). -/
  | fsqrt (f : Fields)
  /-- FEXP2 (R143). -/
  | fexp2 (f : Fields)
  /-- FLOG2 (R143). -/
  | flog2 (f : Fields)
  /-- FSIN (R143). -/
  | fsin (f : Fields)
  /-- FCOS (R143). -/
  | fcos (f : Fields)
  /-- FTANH (R143). -/
  | ftanh (f : Fields)
  /-- FSCALE (R142). -/
  | fscale (f : Fields)
  /-- FRND (R142). -/
  | frnd (f : Fields)
  /-- FCVT (R146). -/
  | fcvt (f : Fields)
  /-- I2F (R147). -/
  | i2f (f : Fields)
  /-- F2I (R147). -/
  | f2i (f : Fields)
  /-- HADD2 (R145). -/
  | hadd2 (f : Fields)
  /-- HMUL2 (R145). -/
  | hmul2 (f : Fields)
  /-- HFMA2 (R145). -/
  | hfma2 (f : Fields)
  /-- FDOT2 (R145). -/
  | fdot2 (f : Fields)
  /-- MOV (R150). -/
  | mov (f : Fields)
  /-- MOVK (R150). -/
  | movk (f : Fields)
  /-- MOVI (R151). -/
  | movi (f : Fields)
  /-- MOVX (R151). -/
  | movx (f : Fields)
  /-- S2V (R152). -/
  | s2v (f : Fields)
  /-- V2S (R152). -/
  | v2s (f : Fields)
  /-- RDS (R87). -/
  | rds (f : Fields)
  /-- PERM (R155). -/
  | perm (f : Fields)
  /-- SHFL (R156). -/
  | shfl (f : Fields)
  /-- QSWAP (R157). -/
  | qswap (f : Fields)
  /-- QBCAST (R157). -/
  | qbcast (f : Fields)
  /-- LUT16 (R158). -/
  | lut16 (f : Fields)
  /-- VOTE (R159). -/
  | vote (f : Fields)
  /-- REDUX (R160). -/
  | redux (f : Fields)
  /-- SCANX (R160). -/
  | scanx (f : Fields)
  /-- P2V (R154). -/
  | p2v (f : Fields)
  /-- V2P (R154). -/
  | v2p (f : Fields)
  /-- BRA (R165). -/
  | bra (f : Fields)
  /-- BRX (R165). -/
  | brx (f : Fields)
  /-- CALL (R165). -/
  | call (f : Fields)
  /-- CALLX (R165). -/
  | callx (f : Fields)
  /-- RET (R165). -/
  | ret (f : Fields)
  /-- SPLIT (R167). -/
  | split (f : Fields)
  /-- JOIN (R168). -/
  | join (f : Fields)
  /-- EXIT (R171). -/
  | exit (f : Fields)
  /-- YIELD (R172). -/
  | yield (f : Fields)
  /-- NOP (R172). -/
  | nop (f : Fields)
  /-- SLEEP (R173). -/
  | sleep (f : Fields)
  /-- TCALL (R178). -/
  | tcall (f : Fields)
  /-- TRET (R180). -/
  | tret (f : Fields)
  /-- SAFEPT (R184). -/
  | safept (f : Fields)
  /-- IDEMB (R185). -/
  | idemb (f : Fields)
  /-- IDEME (R185). -/
  | ideme (f : Fields)
  /-- SOLO (R170). -/
  | solo (f : Fields)
  /-- SOLOE (R170). -/
  | soloe (f : Fields)
  /-- LD (R207). -/
  | ld (f : Fields)
  /-- ST (R207). -/
  | st (f : Fields)
  /-- LDX (R209). -/
  | ldx (f : Fields)
  /-- STX (R210). -/
  | stx (f : Fields)
  /-- PREF (R211). -/
  | pref (f : Fields)
  /-- CFLUSH (R212). -/
  | cflush (f : Fields)
  /-- CINV (R212). -/
  | cinv (f : Fields)
  /-- CWB (R212). -/
  | cwb (f : Fields)
  /-- FENCE (R213). -/
  | fence (f : Fields)
  /-- PROBE (R214). -/
  | probe (f : Fields)
  /-- ATOM (R239). -/
  | atom (f : Fields)
  /-- ACAS (R240). -/
  | acas (f : Fields)
  /-- RED (R239). -/
  | red (f : Fields)
  /-- MCAS (R244). -/
  | mcas (f : Fields)
  /-- WAITC (R248). -/
  | waitc (f : Fields)
  /-- ACAS2 (R240). -/
  | acas2 (f : Fields)
  /-- BAR (R183). -/
  | bar (f : Fields)
  /-- TBAR (R183). -/
  | tbar (f : Fields)
  /-- GBAR (R320). -/
  | gbar (f : Fields)
  /-- WBINIT (R317). -/
  | wbinit (f : Fields)
  /-- WBEXPECT (R317). -/
  | wbexpect (f : Fields)
  /-- WBARRIVE (R317). -/
  | wbarrive (f : Fields)
  /-- WBWAIT (R318). -/
  | wbwait (f : Fields)
  /-- WBTEST (R317). -/
  | wbtest (f : Fields)
  /-- MACQ (R265). -/
  | macq (f : Fields)
  /-- MREL (R265). -/
  | mrel (f : Fields)
  /-- MZERO (R265). -/
  | mzero (f : Fields)
  /-- MLOOP (R262). -/
  | mloop (f : Fields)
  /-- MSTEP (R257). -/
  | mstep (f : Fields)
  /-- MRD (R267). -/
  | mrd (f : Fields)
  /-- MST (R268). -/
  | mst (f : Fields)
  /-- MLDACC (R265). -/
  | mldacc (f : Fields)
  /-- TCOPY (R271). -/
  | tcopy (f : Fields)
  /-- TMCAST (R271). -/
  | tmcast (f : Fields)
  /-- TCANCEL (R275). -/
  | tcancel (f : Fields)
  /-- TSTAT (R275). -/
  | tstat (f : Fields)
  /-- SPAWN (R288). -/
  | spawn (f : Fields)
  /-- SPAWNJ (R288). -/
  | spawnj (f : Fields)
  /-- DEPSIG (R289). -/
  | depsig (f : Fields)
  /-- ALLOC (R296). -/
  | alloc (f : Fields)
  /-- FREE (R297). -/
  | free (f : Fields)
  /-- SYSCALL (R282). -/
  | syscall (f : Fields)
  /-- SVPOP (R283). -/
  | svpop (f : Fields)
  /-- SVDONE (R284). -/
  | svdone (f : Fields)
  /-- TRAP (R335). -/
  | trap (f : Fields)
  /-- ERET (R336). -/
  | eret (f : Fields)
  /-- ERET_HEADER (R336). -/
  | eretHeader (f : Fields)
  /-- ERET_STEP (R340). -/
  | eretStep (f : Fields)
  /-- CRD (R335). -/
  | crd (f : Fields)
  /-- CWR (R335). -/
  | cwr (f : Fields)
  /-- XINV (R304). -/
  | xinv (f : Fields)
  /-- RMODE (R307). -/
  | rmode (f : Fields)
  /-- CTXSV_ARM (R337). -/
  | ctxsvArm (f : Fields)
  /-- CTXSV_REQ (R337). -/
  | ctxsvReq (f : Fields)
  /-- CTXSV_END (R339). -/
  | ctxsvEnd (f : Fields)
  /-- CTXLD (R338). -/
  | ctxld (f : Fields)
  /-- WFI (R335). -/
  | wfi (f : Fields)
  /-- IPI_WAKE (R335). -/
  | ipiWake (f : Fields)
  /-- IPI_STOP (R335). -/
  | ipiStop (f : Fields)
  /-- IPI_SL (R335). -/
  | ipiSl (f : Fields)
  /-- BKPT (R335). -/
  | bkpt (f : Fields)
  /-- REGGROW (R90). -/
  | reggrow (f : Fields)
  /-- REGSHRINK (R90). -/
  | regshrink (f : Fields)
  /-- LEASE (R306). -/
  | lease (f : Fields)
  /-- NOP_SHORT (R61). -/
  | nopShort (k : Short)
  /-- MOV_SHORT (R61). -/
  | movShort (k : Short)
  /-- IADD_SHORT (R61). -/
  | iaddShort (k : Short)
  /-- ISUB_SHORT (R61). -/
  | isubShort (k : Short)
  /-- AND_SHORT (R61). -/
  | andShort (k : Short)
  /-- OR_SHORT (R61). -/
  | orShort (k : Short)
  /-- XOR_SHORT (R61). -/
  | xorShort (k : Short)
  /-- SHL_SHORT (R61). -/
  | shlShort (k : Short)
  /-- SHR_SHORT (R61). -/
  | shrShort (k : Short)
  /-- SAR_SHORT (R61). -/
  | sarShort (k : Short)
  /-- IMUL_SHORT (R61). -/
  | imulShort (k : Short)
  /-- IMIN_SHORT (R61). -/
  | iminShort (k : Short)
  /-- IMAX_SHORT (R61). -/
  | imaxShort (k : Short)
  /-- FADD_SHORT (R61). -/
  | faddShort (k : Short)
  /-- FMUL_SHORT (R61). -/
  | fmulShort (k : Short)
  /-- FMIN_SHORT (R61). -/
  | fminShort (k : Short)
  /-- FMAX_SHORT (R61). -/
  | fmaxShort (k : Short)
  /-- MOVK_SHORT (R62). -/
  | movkShort (k : ShortLit)
  /-- SBRA (R62). -/
  | sbra (k : ShortBranch)
  /-- RET_SHORT (R61). -/
  | retShort (k : Short)
  /-- EXIT_SHORT (R61). -/
  | exitShort (k : Short)
  /-- YIELD_SHORT (R61). -/
  | yieldShort (k : Short)
  /-- JOIN_SHORT (R61). -/
  | joinShort (k : Short)
  /-- BAR_SHORT (R61). -/
  | barShort (k : Short)
  /-- LD_SHORT (R61). -/
  | ldShort (k : Short)
  /-- ST_SHORT (R61). -/
  | stShort (k : Short)
  /-- SVQBASE_WRITE (R277). -/
  | svqbaseWrite (f : Fields)
  /-- TIMECMP_WRITE (R324). -/
  | timecmpWrite (f : Fields)
  /-- PMSEL_WRITE (R325). -/
  | pmselWrite (f : Fields)
  /-- MIRROR_COUNTER_WRITE (R325). -/
  | mirrorCounterWrite (f : Fields)
  /-- REGISTER_WRITE (R350). -/
  | registerWrite (id : Nat)
  /-- TIMER_EXPIRY (R324). -/
  | timerExpiry (core : Nat)
  /-- S_LANE_INTERRUPT_ENTRY (R334). -/
  | sLaneInterruptEntry (core : Nat)
  /-- WFI_WAKE (R335). -/
  | wfiWake (core : Nat)
  /-- INTERRUPT_MESSAGE (R348). -/
  | interruptMessage (source event : Nat)
  /-- IPI_DELIVERY (R376). -/
  | ipiDelivery (kind core slot sender : Nat)
  /-- HELD_RECORD_ENTRY (R281). -/
  | heldRecordEntry (core : Nat)
  /-- SAFEPOINT_OVERRUN (R337). -/
  | safepointOverrun (core slot : Nat)
  /-- EVICTION (R48). -/
  | eviction (core : Nat)
  /-- REGGROW_GRANT (R47). -/
  | reggrowGrant (core : Nat)
  /-- LOAD_RESPONSE (R196). -/
  | loadResponse (id part : Nat)
  /-- STORE_PERFORMED (R199). -/
  | storePerformed (id : Nat)
  /-- REQUESTER_COPY_INVALIDATION (R200). -/
  | requesterCopyInvalidation (slice line : Nat)
  /-- LEASED_SET_FILL (R199). -/
  | leasedSetFill (id part : Nat)
  /-- STORE_ACKNOWLEDGEMENT (R231). -/
  | storeAcknowledgement (id : Nat)
  /-- LATE_ACKNOWLEDGEMENT (R232). -/
  | lateAcknowledgement (id : Nat)
  /-- ATOMIC_AT_HOME (R237). -/
  | atomicAtHome (id part : Nat)
  /-- MCAS_LOCK_GRANT (R244). -/
  | mcasLockGrant (id : Nat)
  /-- WAITC_WAKE (R248). -/
  | waitcWake (slice index : Nat)
  /-- WAITC_POLL (R249). -/
  | waitcPoll (id : Nat)
  /-- RETRANSMISSION_TIMEOUT (R247). -/
  | retransmissionTimeout (id : Nat)
  /-- RESULT_STORE_ENTRY_FREE (R247). -/
  | resultStoreEntryFree (slice : Nat)
  /-- SLEEP_WAKE (R173). -/
  | sleepWake (core slot : Nat)
  /-- SAVED_SYSCALL_WAKE (R284). -/
  | savedSyscallWake (core slot lane : Nat)
  /-- MATRIX_LOOP_START (R262). -/
  | matrixLoopStart (core : Nat)
  /-- MATRIX_LOOP_COMPLETION (R262). -/
  | matrixLoopCompletion (core : Nat)
  /-- BENCH_GATE (R255). -/
  | benchGate (core bench : Nat)
  /-- COPY_ENTRY_GRANT (R271). -/
  | copyEntryGrant (core : Nat)
  /-- COPY_COMPLETION (R272). -/
  | copyCompletion (core entry : Nat)
  /-- COPY_FAULT (R273). -/
  | copyFault (core entry : Nat)
  /-- LEASE_PREPARATION (R292). -/
  | leasePreparation (cluster : Nat)
  /-- GROUP_LAUNCH (R292). -/
  | groupLaunch (cluster : Nat)
  /-- GANG_RESERVE (R293). -/
  | gangReserve (cluster : Nat)
  /-- GANG_COMMIT (R293). -/
  | gangCommit (cluster : Nat)
  /-- GANG_REQUEUE (R294). -/
  | gangRequeue (cluster : Nat)
  /-- GROUP_END (R292). -/
  | groupEnd (context : Nat)
  /-- SPILL (R291). -/
  | spill (cluster : Nat)
  /-- REFILL (R291). -/
  | refill (cluster : Nat)
  /-- STEAL_REQUEST (R295). -/
  | stealRequest (thief victim : Nat)
  /-- STEAL_RETRY_TIMEOUT (R295). -/
  | stealRetryTimeout (cluster : Nat)
  /-- EXCHANGE_TIMEOUT (R298). -/
  | exchangeTimeout (cluster cls : Nat)
  /-- EXCHANGE_BATCH_RECEIVE (R298). -/
  | exchangeBatchReceive (owner cls : Nat) (blocks : List Nat)
  /-- CAPTURE_PERIOD_SAMPLE (R327). -/
  | capturePeriodSample (core : Nat)
  /-- LOAD_AT_HOME_SLICE (R199). -/
  | loadAtHomeSlice (id part : Nat)
  /-- RESULTS_LAND (R74). -/
  | resultsLand (core slot : Nat)
  /-- INSTRUCTION_WORDS_ARRIVE (R365). -/
  | instructionWordsArrive (core slot : Nat)
  /-- PACKAGE_RESET (R344). -/
  | packageReset
  /-- TIME_ADJUSTMENT (R322). -/
  | timeAdjustment
  /-- CLOCK (R358). -/
  | clock
  /-- CLOCK_STEP_CHANGE (R358). -/
  | clockStepChange
  /-- THERMAL_STEP_DOWN (R358). -/
  | thermalStepDown
  /-- DIESLEEP_SLEEP (R359). -/
  | diesleepSleep
  /-- DIESLEEP_WAKE (R359). -/
  | diesleepWake
  /-- GATEIDLE_COMMAND (R358). -/
  | gateidleCommand
  /-- FENCE_PACKAGE (R357). -/
  | fencePackage
  /-- FENCE_PORT_LANE (R357). -/
  | fencePortLane
  /-- FLASH (R358). -/
  | flash
  /-- STATUS_COMMAND (R358). -/
  | statusCommand
  /-- RESET_COMMAND (R358). -/
  | resetCommand
  /-- PKGNUM (R355). -/
  | pkgnum
  /-- EXTEND (R345). -/
  | extend
  /-- EXTEND_COMPLETE (R345). -/
  | extendComplete
  /-- REPORT (R346). -/
  | report
  /-- REPORT_COMPLETE (R346). -/
  | reportComplete
  /-- PCIE_RETRAIN (R350). -/
  | pcieRetrain
  /-- REPLAYS_READ (R350). -/
  | replaysRead
  /-- CONFIG_READ (R350). -/
  | configRead
  /-- CONFIG_WRITE (R350). -/
  | configWrite
  /-- MSIX_SEND (R351). -/
  | msixSend
  /-- INBOUND_PCIE_WRITE (R351). -/
  | inboundPcieWrite
  /-- INBOUND_PCIE_READ (R351). -/
  | inboundPcieRead
  /-- HOST_DOORBELL_WRITE (R351). -/
  | hostDoorbellWrite
  /-- HOT_RESET (R351). -/
  | hotReset
  /-- NVME_SQ_TAIL_WRITE (R352). -/
  | nvmeSqTailWrite
  /-- NVME_CQ_HEAD_WRITE (R352). -/
  | nvmeCqHeadWrite
  /-- UE_TAIL_WRITE (R354). -/
  | ueTailWrite
  /-- UE_CQ_HEAD_WRITE (R354). -/
  | ueCqHeadWrite
  /-- UE_SEND (R354). -/
  | ueSend
  /-- UE_REMOTE_WRITE (R354). -/
  | ueRemoteWrite
  /-- UE_REMOTE_READ (R354). -/
  | ueRemoteRead
  /-- UE_MESSAGE_RECEIVE (R353). -/
  | ueMessageReceive
  /-- DUSEL_PORT_FENCE (R356). -/
  | duselPortFence
  /-- DUSEL_PORT_RETURN (R356). -/
  | duselPortReturn
  /-- DUSEL_FLIT_REPLAY (R355). -/
  | duselFlitReplay
  /-- DUSEL_LANE_FAILURE (R357). -/
  | duselLaneFailure
  /-- PACKAGE_FENCED (R357). -/
  | packageFenced
  /-- PARTITION_FILTER_PROBE (R310). -/
  | partitionFilterProbe
  /-- FILTER_ENTRY_CLEAR (R310). -/
  | filterEntryClear
  /-- ERROR_COUNTER_CLEAR (R360). -/
  | errorCounterClear
  /-- HBM_SCRUB (R360). -/
  | hbmScrub
  /-- DUSEL_DOMAIN_JOIN (R322). -/
  | duselDomainJoin
  /-- LINK_UP (R350). -/
  | linkUp
  /-- UE_COMPLETION_ENTRY (R354). -/
  | ueCompletionEntry
  /-- UE_INBOUND_REMOTE_ACCESS (R354). -/
  | ueInboundRemoteAccess
deriving DecidableEq, Repr

end Sys2Proof
end

