-- ==== Sys2Proof/Machine/Forms.lean ====
section
/-! DEFINITION. What each extended opcode accepts, as data (03_encoding R63 to R71, R79, R80 and the form tables of each
class): the operand positions, the modifier fields, the guard, `.one`, the latency class, the privilege, and what the
S-lane and the part allow. -/

namespace Sys2Proof

/-- How an operand position is read (R64, R65). -/
inductive SlotKind where
  /-- field 0, mode 00 -/
  | unused
  /-- register mode only -/
  | reg
  /-- any mode -/
  | any
  /-- mode 01 only -/
  | zero
  /-- register mode or mode 01 -/
  | regOrZero
  /-- register mode or mode 10 (07 R158) -/
  | regOrLo
  /-- a predicate, register mode only -/
  | pred
  /-- a predicate, or mode 01 for false (06 R113) -/
  | predOrZero
  /-- mode 10 only, mode 11 only, either of them -/
  | lo
  | hi
  | lit
  /-- a uniform register (R64, `S2V` and `V2S`) -/
  | sreg
deriving DecidableEq, Repr

/-- An operand position: its kind, whether it is a 64-bit pair, how many registers it spans, and what its number is a
multiple of. -/
structure Slot where
  kind : SlotKind := .unused
  wide : Bool := false
  span : Nat := 1
  align : Nat := 1
deriving DecidableEq, Repr

/-- Latency classes (R74). -/
inductive Lat where
  | none | four | six | locked
deriving DecidableEq, Repr

/-- Latency of a fixed class (R74). -/
def Lat.cycles : Lat → Nat
  | .four => 4
  | .six => 6
  | _ => 0

/-- The classes whose results land at a known cycle whatever the operands (R74). -/
def Lat.fixed : Lat → Bool
  | .four | .six => true
  | _ => false

/-- The four operand positions of an instruction, and the predicates that word 2 names: read, written. -/
structure Shape where
  d : Slot := {}
  a : Slot := {}
  b : Slot := {}
  c : Slot := {}
  predsIn : List Nat := []
  predsOut : List Nat := []
deriving DecidableEq, Repr

/-- What the fields of word 2 may hold (R67, R68). Masks give the bits that may be set. -/
structure Mods where
  tys : List Ty := [.dflt]
  rnds : List Rnd := [.rne]
  sat : Bool := false
  negA : Bool := false
  negB : Bool := false
  ords : List Order := [.rlx]
  scope : Bool := false
  cls : Nat := 0
  sub : Nat := 0
deriving DecidableEq, Repr

/-- The attributes of an opcode (R79). -/
structure Form where
  lat : Lat := .none
  guard : Bool := true
  one : Bool := false
  super : Bool := false
  /-- the S-lane has the unit (02 R51) -/
  sl : Bool := true
  mods : Mods := {}

namespace Forms

def ints : List Ty := [.dflt, .s8, .s16, .s32, .s64, .z8, .z16, .z32, .z64]
def i4 : List Ty := [.dflt, .z32, .s32, .z64, .s64]
def z2 : List Ty := [.dflt, .z32, .z64]
def s2 : List Ty := [.dflt, .s32, .s64]
def d2 : List Ty := [.dflt, .s32, .z32]
def f3 : List Ty := [.dflt, .f32, .bf16, .f16]
def h2 : List Ty := [.dflt, .f16, .bf16]
def elems : List Ty := [.f32, .bf16, .f16, .e4m3, .e5m2, .e2m3, .e3m2, .e2m1, .i4s, .i8, .rn30]
def acctys : List Ty := [.dflt, .f32, .rn30]
def rnd4 : List Rnd := [.rne, .rtz, .rdn, .rup]
def rnd5 : List Rnd := [.rne, .rtz, .rdn, .rup, .rsr]
def allOrds : List Order := [.rlx, .acq, .rel, .ar, .sc]

/-- The type a code 0x00 selects (each class's form table). -/
def dfltTy : Nat → Ty
  | 0x008 | 0x009 | 0x00A | 0x00E | 0x017 | 0x022 | 0x023 | 0x08D | 0x08E => .s32
  | 0x040 | 0x041 | 0x042 | 0x043 | 0x044 | 0x045 | 0x046 | 0x047 | 0x048 | 0x049 | 0x04A | 0x04B | 0x04C | 0x04D
  | 0x04E | 0x04F | 0x050 | 0x051 | 0x053 | 0x102 | 0x103 | 0x182 | 0x187 => .f32
  | 0x054 => .s32
  | 0x055 | 0x056 | 0x057 | 0x058 => .f16
  | _ => .z32

end Forms

/-- Bits of a type's values in a register operand. -/
def Ty.width : Ty → Nat
  | .s8 | .z8 | .e4m3 | .e5m2 | .e2m3 | .e3m2 | .i8 => 8
  | .s16 | .z16 | .bf16 | .f16 => 16
  | .s64 | .z64 => 64
  | .e2m1 | .i4s => 4
  | _ => 32

/-- Bits an element takes in storage (R92). FP6 containers in registers are wider (07 R146). -/
def Ty.elemBits : Ty → Nat
  | .e2m3 | .e3m2 => 6
  | t => t.width

/-- Signed integer types. -/
def Ty.signed : Ty → Bool
  | .s8 | .s16 | .s32 | .s64 => true
  | _ => false

/-- The code of a type (R67). -/
def Ty.code : Ty → Nat
  | .dflt => 0 | .s8 => 1 | .s16 => 2 | .s32 => 3 | .s64 => 4 | .z8 => 5 | .z16 => 6 | .z32 => 7 | .z64 => 8
  | .f32 => 9 | .bf16 => 10 | .f16 => 11 | .e4m3 => 12 | .e5m2 => 13 | .e2m3 => 14 | .e3m2 => 15 | .e2m1 => 16
  | .i4s => 17 | .i8 => 18 | .rn30 => 19

/-- The type of a code, none when reserved (R67). -/
def Ty.ofCode : Nat → Option Ty
  | 0 => some .dflt | 1 => some .s8 | 2 => some .s16 | 3 => some .s32 | 4 => some .s64 | 5 => some .z8
  | 6 => some .z16 | 7 => some .z32 | 8 => some .z64 | 9 => some .f32 | 10 => some .bf16 | 11 => some .f16
  | 12 => some .e4m3 | 13 => some .e5m2 | 14 => some .e2m3 | 15 => some .e3m2 | 16 => some .e2m1 | 17 => some .i4s
  | 18 => some .i8 | 19 => some .rn30 | _ => none

/-- The type an instruction works in: its own, or the opcode's default. -/
def Fields.tyOf (op : Nat) (f : Fields) : Ty := if f.ty = .dflt then Forms.dfltTy op else f.ty

/-- A field of word 2's class-specific bits 23:18: `lo` counts from bit 18. -/
def Fields.clsBits (f : Fields) (lo n : Nat) : Nat := f.cls.toNat / 2 ^ lo % 2 ^ n

/-- A field of the sub-operation bits 31:24: `lo` counts from bit 24. -/
def Fields.subBits (f : Fields) (lo n : Nat) : Nat := f.sub.toNat / 2 ^ lo % 2 ^ n

/-- Elements that a counted access moves (09 R204). -/
def Fields.count (f : Fields) : Nat := 2 ^ f.subBits 0 3

/-- Control-register index of `CRD` and `CWR`: word 2 bits 29:18 (16 R335). -/
def Fields.idx (f : Fields) : Nat := f.cls.toNat + 64 * (f.sub.toNat % 64)

/-- Bits 31:0 of the literal word, and bits 63:32 (R65). -/
def Fields.loWord (f : Fields) : Nat := (f.lit.getD 0).toNat % 2 ^ 32
def Fields.hiWord (f : Fields) : Nat := (f.lit.getD 0).toNat / 2 ^ 32

/-- A 64-bit control-register index (04 R88). -/
def wideIdx (i : Nat) : Bool :=
  i = 0x010 || i = 0x020 || i = 0x023 || i = 0x025 || i = 0x027 || i = 0x030 || i = 0x040 ||
  (decide (0x080 ≤ i) && decide (i ≤ 0x097)) || i = 0x100 || (decide (0x110 ≤ i) && decide (i ≤ 0x13F))

/-- A listed control-register index (04 R88). -/
def listedIdx (i : Nat) : Bool :=
  wideIdx i || i = 0x000 || i = 0x001 || i = 0x011 || i = 0x021 || i = 0x022 || i = 0x024 || i = 0x026 || i = 0x031 ||
  i = 0x041 || i = 0x042 || i = 0x050

/-- The attributes of each extended opcode (R79 and the class tables); none when it is not listed. -/
def form : Nat → Option Form
  -- integer and address (06 R115)
  | 0x000 | 0x001 => some { lat := .four, one := true, mods := { tys := Forms.ints, sat := true } }
  | 0x002 => some { lat := .six, one := true, mods := { tys := Forms.ints, sat := true } }
  | 0x003 => some { lat := .six, one := true, mods := { tys := Forms.ints } }
  | 0x004 => some { lat := .six, one := true, mods := { tys := Forms.ints, sat := true } }
  | 0x005 => some { lat := .six, one := true, mods := { tys := Forms.d2 } }
  | 0x006 | 0x007 => some { lat := .locked, one := true, mods := { tys := Forms.i4 } }
  | 0x008 => some { lat := .four, one := true, mods := { tys := [.dflt, .s8, .s16, .s32, .s64], sat := true } }
  | 0x009 | 0x00A => some { lat := .four, one := true, mods := { tys := Forms.ints } }
  | 0x00B | 0x00C => some { lat := .four, one := true, mods := { tys := Forms.z2, cls := 0x07 } }
  | 0x00D => some { lat := .four, one := true, mods := { tys := Forms.i4, cls := 0x1F } }
  | 0x00E => some { lat := .four, one := true, mods := { tys := Forms.ints, cls := 0x1F } }
  | 0x00F => some { lat := .four, one := true, mods := { tys := Forms.i4, cls := 0x01 } }
  | 0x010 | 0x011 | 0x012 | 0x013 | 0x014 | 0x015 | 0x01A =>
    some { lat := .four, one := true, mods := { tys := Forms.i4 } }
  | 0x016 | 0x018 | 0x01B | 0x01C | 0x01D | 0x01E | 0x01F =>
    some { lat := .four, one := true, mods := { tys := Forms.z2 } }
  | 0x017 => some { lat := .four, one := true, mods := { tys := Forms.s2 } }
  | 0x019 => some { lat := .four, one := true, mods := { tys := Forms.z2, cls := 0x01 } }
  | 0x020 => some { lat := .four, one := true, mods := { tys := [.dflt, .z32] } }
  | 0x021 => some { lat := .four, one := true, mods := { tys := Forms.z2, sub := 0xFF } }
  | 0x022 | 0x023 => some { lat := .six, one := true, mods := { tys := Forms.d2, sat := true, cls := 0x03 } }
  | 0x024 => some { lat := .four, one := true, mods := { sub := 0xFF } }
  -- floating point and conversion (07 R137)
  | 0x040 | 0x041 | 0x042 | 0x043 => some { lat := .four, one := true, mods :=
      { tys := [.dflt, .f32], rnds := Forms.rnd4, sat := true, negA := true, negB := true } }
  | 0x044 | 0x045 => some { lat := .four, one := true, mods := { tys := [.dflt, .f32], negA := true, negB := true } }
  | 0x046 => some { lat := .four, one := true, mods := { tys := Forms.f3, negA := true, negB := true, cls := 0x1F } }
  | 0x047 => some { lat := .four, one := true, mods := { tys := Forms.f3 } }
  | 0x048 | 0x049 | 0x04A | 0x04B | 0x04C | 0x04D | 0x04E | 0x04F => some { lat := .locked, one := true, mods :=
      { tys := [.dflt, .f32], rnds := Forms.rnd4, sat := true, negA := true } }
  | 0x050 => some { lat := .four, one := true, mods :=
      { tys := [.dflt, .f32], rnds := Forms.rnd4, sat := true, negA := true } }
  | 0x051 => some { lat := .four, one := true, mods := { tys := [.dflt, .f32], rnds := Forms.rnd4, negA := true } }
  | 0x052 => some { lat := .six, one := true, mods :=
      { tys := Forms.elems, rnds := Forms.rnd5, sat := true, negA := true, cls := 0x1F, sub := 0x7F } }
  | 0x053 => some { lat := .six, one := true, mods :=
      { tys := Forms.f3, rnds := Forms.rnd5, sat := true, cls := 0x1F } }
  | 0x054 => some { lat := .six, one := true, mods :=
      { tys := Forms.ints, rnds := Forms.rnd5, negA := true, cls := 0x1F } }
  | 0x055 | 0x056 | 0x057 => some { lat := .four, one := true, mods :=
      { tys := Forms.h2, rnds := Forms.rnd4, sat := true, negA := true, negB := true } }
  | 0x058 => some { lat := .six, one := true, mods :=
      { tys := Forms.h2, rnds := Forms.rnd4, sat := true, negA := true, negB := true } }
  -- registers and lanes (07 R149, 04 R88-form)
  | 0x080 | 0x081 => some { lat := .four, one := true, mods := { tys := Forms.z2 } }
  | 0x082 | 0x083 => some { lat := .six, mods := { tys := Forms.z2 } }
  | 0x084 => some { lat := .four, mods := { tys := Forms.z2 } }
  | 0x085 => some { lat := .four, mods := { tys := Forms.z2, sub := 0x3F } }
  | 0x086 => some { lat := .locked, mods := { sub := 0xFF } }
  | 0x087 => some { lat := .six, mods := { tys := Forms.z2 } }
  | 0x088 => some { lat := .six, sl := false, mods := { tys := Forms.z2, cls := 0x07, sub := 0x1F } }
  | 0x089 | 0x08A => some { lat := .four, sl := false, mods := { tys := Forms.z2, sub := 0x03 } }
  | 0x08B => some { lat := .six, mods := { tys := [.dflt, .z32] } }
  | 0x08C => some { lat := .six, sl := false, mods := { sub := 0x03 } }
  | 0x08D => some { lat := .locked, sl := false, mods := { tys := Forms.ints ++ [.f32], sub := 0x0F } }
  | 0x08E => some { lat := .locked, sl := false, mods := { tys := Forms.ints ++ [.f32], sub := 0x1F } }
  | 0x08F => some { lat := .four, mods := { tys := [.dflt, .z32] } }
  | 0x090 => some { lat := .four, mods := { tys := [.dflt, .z32], sub := 0x7F } }
  -- control (08 R163)
  | 0x0C0 | 0x0C1 | 0x0C4 | 0x0C7 | 0x0C8 | 0x0C9 | 0x0CA => some {}
  | 0x0C2 | 0x0C3 => some { lat := .locked }
  | 0x0C5 => some { sl := false }
  | 0x0C6 => some { guard := false, sl := false }
  | 0x0CB => some { lat := .locked, guard := false, sl := false, mods := { cls := 0x01, sub := 0xFF } }
  | 0x0CC => some { guard := false, sl := false }
  | 0x0CD | 0x0CE | 0x0CF => some { guard := false }
  | 0x0D0 | 0x0D1 => some { guard := false, sl := false }
  -- memory (09 R204)
  | 0x100 => some { lat := .locked, one := true, mods :=
      { tys := Forms.ints, ords := [.rlx, .acq, .sc], scope := true, cls := 0x03, sub := 0x07 } }
  | 0x101 => some { lat := .locked, one := true, mods :=
      { tys := Forms.ints, ords := [.rlx, .rel, .sc], scope := true, cls := 0x03, sub := 0x07 } }
  | 0x102 => some { lat := .locked, mods :=
      { tys := [.dflt, .f32, .bf16, .f16, .s32], ords := [.rlx, .acq], scope := true, cls := 0x03, sub := 0x07 } }
  | 0x103 => some { lat := .locked, mods :=
      { tys := [.dflt, .f32, .bf16, .f16, .s32], ords := [.rlx, .rel], scope := true, cls := 0x03, sub := 0x07 } }
  | 0x104 => some { lat := .locked, one := true, mods := { cls := 0x01 } }
  | 0x105 | 0x106 | 0x107 => some { lat := .locked, mods := { cls := 0x01 } }
  | 0x108 => some { lat := .locked, mods := { ords := [.acq, .rel, .ar, .sc], scope := true } }
  | 0x109 => some { lat := .locked, mods := { sub := 0x01 } }
  -- atomics (11 R235)
  | 0x140 => some { lat := .locked, one := true, mods :=
      { tys := Forms.i4 ++ [.f32], ords := Forms.allOrds, scope := true, sub := 0x0F } }
  | 0x141 => some { lat := .locked, one := true, mods :=
      { tys := Forms.z2, ords := Forms.allOrds, scope := true, cls := 0x07 } }
  | 0x142 => some { lat := .locked, one := true, mods :=
      { tys := Forms.i4 ++ [.f32], ords := [.rlx, .rel, .sc], scope := true, sub := 0x0F } }
  | 0x143 => some { lat := .locked, mods := { ords := Forms.allOrds, scope := true } }
  | 0x144 => some { lat := .locked, mods := { tys := Forms.i4, ords := [.rlx, .acq], scope := true, sub := 0x07 } }
  | 0x145 => some { lat := .locked, mods := { ords := Forms.allOrds, scope := true, cls := 0x07 } }
  -- synchronisation (08 R163, 15 R316, R320)
  | 0x160 | 0x161 | 0x162 => some { lat := .locked, guard := false, sl := false }
  | 0x163 | 0x164 | 0x165 => some { lat := .locked, mods := { ords := [.rlx, .rel], scope := true } }
  | 0x166 => some { lat := .locked, guard := false, mods := { ords := [.rlx, .acq], scope := true } }
  | 0x167 => some { lat := .locked, mods := { ords := [.rlx, .acq], scope := true } }
  -- matrix and copy (12 R256, R271, R275)
  | 0x180 | 0x181 => some { lat := .locked, guard := false, sl := false, mods := { cls := 0x0F } }
  | 0x182 | 0x187 => some { lat := .locked, guard := false, sl := false, mods := { tys := Forms.acctys, cls := 0x0F } }
  | 0x183 | 0x184 => some { lat := .locked, guard := false, sl := false, mods := { cls := 0x3F } }
  | 0x185 => some { lat := .locked, guard := false, sl := false, mods :=
      { tys := Forms.elems ++ [.s32], rnds := Forms.rnd5, sat := true, cls := 0x0F } }
  | 0x186 => some { lat := .locked, guard := false, sl := false, mods :=
      { tys := .dflt :: Forms.elems, rnds := Forms.rnd5, sat := true, cls := 0x0F } }
  | 0x188 => some { lat := .locked, guard := false, sl := false, mods := { tys := .dflt :: Forms.elems } }
  | 0x189 | 0x18A | 0x18B => some { lat := .locked, guard := false, sl := false }
  -- tasks and allocation (13 R287)
  | 0x1C0 | 0x1C1 | 0x1C2 => some { lat := .locked, mods := { ords := [.rlx, .rel], scope := true } }
  | 0x1C3 => some { lat := .locked, mods := { ords := [.rlx, .acq], scope := true, cls := 0x07, sub := 0x0F } }
  | 0x1C4 => some { lat := .locked, mods := { ords := [.rlx, .rel], scope := true, sub := 0x0F } }
  -- system (13 R282, 14 R304 to R307, 16 R335, 04 R90)
  | 0x1E0 => some { lat := .locked, sl := false }
  | 0x1E1 => some { lat := .locked, guard := false, super := true, sl := false }
  | 0x1E2 => some { lat := .locked, super := true, sl := false }
  | 0x1E3 => some { lat := .locked }
  | 0x1E4 => some { lat := .locked, guard := false, super := true, mods := { cls := 0x01 } }
  | 0x1E5 => some { lat := .locked, mods := { cls := 0x3F, sub := 0x3F } }
  | 0x1E6 => some { lat := .locked, super := true, mods := { cls := 0x3F, sub := 0x3F } }
  | 0x1E7 => some { lat := .locked, super := true }
  | 0x1E8 => some { lat := .locked, super := true, mods := { sub := 0x03 } }
  | 0x1E9 => some { lat := .locked, guard := false, super := true, mods := { cls := 0x03, sub := 0xFF } }
  | 0x1EA => some { lat := .locked, guard := false, super := true }
  | 0x1EB => some { lat := .locked, guard := false, super := true }
  | 0x1EC => some { lat := .locked, super := true, mods := { cls := 0x03 } }
  | 0x1ED => some { lat := .locked }
  | 0x1EE | 0x1EF => some { lat := .locked, sl := false, mods := { sub := 0x7F } }
  | 0x1F0 => some { lat := .locked, super := true, mods := { sub := 0xFF } }
  | _ => none

namespace Forms

def r : Slot := { kind := .reg }
def rw (w : Bool) : Slot := { kind := .reg, wide := w }
def s : Slot := { kind := .any }
def sw (w : Bool) : Slot := { kind := .any, wide := w }
def pr : Slot := { kind := .pred }
def pz : Slot := { kind := .predOrZero }
def z : Slot := { kind := .zero }
/-- A register operand of `n` registers whose number is a multiple of `k`. -/
def rn (n k : Nat) : Slot := { kind := .reg, span := n, align := k }
/-- The pair and the offset of a memory operand (09 R187). -/
def mem (sh : Shape) : Shape := { sh with a := rw true, b := s }
/-- Bits that an element of `MRD` takes in a register (12 R267). -/
def mrdBits (t : Ty) : Nat := if t.elemBits = 6 then 8 else t.elemBits
/-- Registers that `n` elements of `size` bytes take (R205). -/
def dataRegs (n size : Nat) : Nat := max 1 (n * size / 4)

end Forms

open Forms in
/-- The operand positions of an opcode with these fields. -/
def shape (op : Nat) (f : Fields) : Shape :=
  let t := f.tyOf op
  let w := t.width = 64
  match op with
  | 0x000 | 0x001 | 0x002 | 0x003 | 0x006 | 0x007 | 0x009 | 0x00A | 0x010 | 0x011 | 0x012 | 0x013 =>
    { d := rw w, a := sw w, b := sw w }
  | 0x004 | 0x021 => { d := rw w, a := sw w, b := sw w, c := sw w }
  | 0x005 => { d := rw true, a := s, b := s, c := sw true }
  | 0x008 | 0x014 | 0x01F => { d := rw w, a := sw w }
  | 0x00B | 0x00C => { d := rw w, a := sw w, b := sw w, c := pz, predsOut := [f.clsBits 0 3] }
  | 0x00D => { d := rw true, a := sw true, b := sw w }
  | 0x00E => { d := pr, a := sw w, b := sw w, c := if f.clsBits 3 2 = 0 then {} else pz }
  | 0x00F => { d := rw w, a := sw w, b := sw w, c := pz }
  | 0x015 | 0x016 | 0x017 | 0x018 | 0x01A => { d := rw w, a := sw w, b := s }
  | 0x019 | 0x01B => { d := rw w, a := sw w, b := sw w, c := s }
  | 0x01C | 0x01D | 0x01E => { d := r, a := sw w }
  | 0x020 | 0x022 | 0x023 => { d := r, a := s, b := s, c := s }
  | 0x024 => { d := pr, a := pz, b := pz, c := pz }
  | 0x040 | 0x041 | 0x042 | 0x044 | 0x045 | 0x050 | 0x055 | 0x056 => { d := r, a := s, b := s }
  | 0x043 | 0x057 | 0x058 => { d := r, a := s, b := s, c := s }
  | 0x046 => { d := pr, a := s, b := s, c := if f.clsBits 3 2 = 0 then {} else pz }
  | 0x047 | 0x048 | 0x049 | 0x04A | 0x04B | 0x04C | 0x04D | 0x04E | 0x04F | 0x051 => { d := r, a := s }
  | 0x052 => { d := r, a := s, c := if f.rnd = .rsr then s else {} }
  | 0x053 => { d := r, a := sw (f.clsBits 0 5 = 4 || f.clsBits 0 5 = 8), c := if f.rnd = .rsr then s else {} }
  | 0x054 => { d := rw w, a := s, c := if f.rnd = .rsr then s else {} }
  | 0x080 => { d := rw w, a := sw w }
  | 0x081 => { d := rw w, a := { kind := .lit, wide := w } }
  | 0x082 => { d := rw w, a := r, b := s }
  | 0x083 => { a := r, b := s, c := rw w }
  | 0x084 => { d := rw w, a := { kind := .sreg, wide := w } }
  | 0x085 => { d := { kind := .sreg, wide := w }, a := rw w }
  | 0x086 => { d := rw (f.sub.toNat = 9 || f.sub.toNat = 10) }
  | 0x087 | 0x08B => { d := rw w, a := if op = 0x08B then { kind := .regOrLo, wide := true } else sw w, b := s }
  | 0x088 => { d := rw w, a := sw w, b := s, predsOut := [f.clsBits 0 3] }
  | 0x089 | 0x08A => { d := rw w, a := sw w }
  | 0x08C => { d := if f.sub.toNat = 3 then r else pr, a := pz }
  | 0x08D | 0x08E => { d := rw w, a := sw w }
  | 0x08F => { d := r }
  | 0x090 => { a := s }
  | 0x0C0 | 0x0C2 => { b := { kind := .lo } }
  | 0x0C1 | 0x0C3 => { a := rw true, b := s }
  | 0x0C5 => { a := pr, b := { kind := .lo }, c := { kind := .hi } }
  | 0x0CA => { a := s }
  | 0x0CB => { d := rw true, a := rw true, b := s }
  | 0x0CC => { a := sw true }
  | 0x100 =>
    let n := 2 ^ f.subBits 0 3
    mem { d := { kind := .reg, wide := w, span := dataRegs n (t.width / 8), align := dataRegs n (t.width / 8) } }
  | 0x101 =>
    let n := 2 ^ f.subBits 0 3
    mem { c := { kind := .reg, wide := w, span := dataRegs n (t.width / 8), align := dataRegs n (t.width / 8) } }
  | 0x102 => let n := 2 ^ f.subBits 0 3; mem { d := rn (dataRegs n (t.width / 8)) (dataRegs n (t.width / 8)) }
  | 0x103 => let n := 2 ^ f.subBits 0 3; mem { c := rn (dataRegs n (t.width / 8)) (dataRegs n (t.width / 8)) }
  | 0x104 => mem {}
  | 0x105 | 0x106 | 0x107 => if f.cls.toNat = 1 then {} else mem {}
  | 0x109 => mem { d := rn 4 4 }
  | 0x140 => mem { d := rw w, c := sw w }
  | 0x141 => mem { d := rw w, c := if w then rn 4 4 else rn 2 1, predsOut := [f.clsBits 0 3] }
  | 0x142 => mem { c := sw w }
  | 0x143 => mem { d := r }
  | 0x144 => mem { d := rw w, c := if f.subBits 0 3 = 4 then (if w then rn 4 4 else rn 2 1) else sw w }
  | 0x145 => mem { d := rn 4 4, c := rn 8 8, predsOut := [f.clsBits 0 3] }
  | 0x163 | 0x164 | 0x166 => mem { c := s }
  | 0x165 => mem { d := r, c := s }
  | 0x167 => mem { d := rn 4 4, c := s }
  | 0x183 => { a := rn 1 8, b := s, c := s }
  | 0x184 => { a := rn 1 8, b := s, c := z }
  | 0x185 => { d := rn (2 * mrdBits t) 8, b := s }
  | 0x186 => mem { c := s }
  | 0x187 => { a := rn 64 8 }
  | 0x188 => { d := r, a := rn 16 8, c := { kind := .regOrZero, wide := true } }
  | 0x189 => { d := r, a := rn 16 8, b := s, c := { kind := .regOrZero, wide := true } }
  | 0x18A | 0x18B => { d := r, a := r }
  | 0x1C0 | 0x1C1 | 0x1C2 => mem { d := r }
  | 0x1C3 => { d := rw true, predsOut := [f.clsBits 0 3] }
  | 0x1C4 => mem {}
  | 0x1E0 => { d := rw true, a := { kind := .reg, wide := true, span := 12, align := 2 }, b := s }
  | 0x1E1 => { d := rn 16 16 }
  | 0x1E2 => { a := rn 4 4, b := { kind := .regOrZero, wide := true }, c := rw true }
  | 0x1E3 => { a := s }
  | 0x1E4 =>
    if f.a = .zero then { a := z, b := z }
    else { d := r, a := rn 4 4, b := { kind := .regOrZero, wide := true } }
  | 0x1E5 => { d := rw (wideIdx f.idx) }
  | 0x1E6 => { a := sw (wideIdx f.idx) }
  | 0x1E7 => mem {}
  | 0x1E8 => mem { d := r, c := s }
  | 0x1E9 => mem { d := if f.clsBits 0 2 = 0 then {} else r, c := s }
  | 0x1EA => mem { d := r }
  | 0x1EC => { a := s }
  | 0x1F0 => mem { d := r }
  | _ => {}

/-- Integer source type codes of `I2F`, float source type codes of `F2I`. -/
def intCode (n : Nat) : Bool := decide (1 ≤ n) && decide (n ≤ 8)

/-- Positions an element may take in a register (07 R146). -/
def elemPositions (t : Ty) : Nat :=
  match t.width with
  | 4 => 8
  | 8 => 4
  | 16 => 2
  | _ => 1

/-- Checks of an instruction's own description beyond `Mods` and `Shape` (cause 0x02); code 0x00 as the other type of `I2F` and `F2I` is refused.
See log entry 45 (DEDUCED), entry 33 (DEDUCED), entry 56 (DESIGN CHOICE). -/
def extraOk (op : Nat) (f : Fields) : Bool :=
  match op with
  | 0x0C0 | 0x0C2 => f.loWord % 4 = 0
  | 0x0C5 => f.loWord % 4 = 0 && f.hiWord % 4 = 0
  | 0x00E => decide (f.clsBits 0 3 ≤ 5)
  | 0x052 =>
    decide (9 ≤ f.clsBits 0 5) && decide (f.clsBits 0 5 ≤ 0x13) && decide (f.subBits 0 3 < elemPositions f.ty) &&
      (match Ty.ofCode (f.clsBits 0 5) with
       | some t => decide (f.subBits 3 3 < elemPositions t)
       | none => false)
  | 0x053 => intCode (f.clsBits 0 5)
  | 0x054 => decide (9 ≤ f.clsBits 0 5) && decide (f.clsBits 0 5 ≤ 11)
  | 0x085 => f.subBits 5 1 = 0 || f.subBits 0 5 = 0
  | 0x086 => decide (f.sub.toNat ≤ 0x0C)
  | 0x088 => decide (f.subBits 2 3 ≤ 5)
  | 0x089 => decide (1 ≤ f.subBits 0 2)
  | 0x08D | 0x08E =>
    decide (f.subBits 0 4 ≤ 8) &&
      (if decide (6 ≤ f.subBits 0 4) then f.ty == .f32 || f.ty == .dflt else f.ty != .f32)
  | 0x0CB => decide (2 ≤ f.sub.toNat) && decide (f.sub.toNat ≤ 8)
  | 0x100 | 0x101 =>
    let n := 2 ^ f.subBits 0 3
    let t := f.tyOf op
    decide (f.subBits 0 3 ≤ 3) && decide (f.clsBits 0 2 ≤ 2) && decide (n * (t.width / 8) ≤ 32) &&
      (n = 1 || decide (32 ≤ t.width)) && (f.order != .sc || (f.scope != .thread && f.scope != .quad))
  | 0x102 => decide (f.subBits 0 3 ≤ 5) && decide (f.clsBits 0 2 ≤ 2)
  | 0x103 => decide (f.subBits 0 3 ≤ 5) && decide (f.clsBits 0 2 ≤ 1)
  | 0x108 => f.order != .sc || (f.scope != .thread && f.scope != .quad)
  | 0x140 | 0x142 =>
    decide (f.subBits 0 4 ≤ 9) && (op = 0x140 || f.subBits 0 4 != 6) &&
      (if f.subBits 0 4 = 9 then f.ty == .f32 else f.ty != .f32) &&
      ((f.subBits 0 4 != 7 && f.subBits 0 4 != 8) || f.ty == .dflt || f.ty == .z32 || f.ty == .z64) &&
      (f.order != .sc || (f.scope != .thread && f.scope != .quad))
  | 0x141 | 0x143 | 0x145 => f.order != .sc || (f.scope != .thread && f.scope != .quad)
  | 0x144 => decide (f.subBits 0 3 ≤ 4)
  | 0x1C3 | 0x1C4 => decide (f.sub.toNat ≤ 12)
  | 0x1E4 => f.a != .zero || f.cls = 0
  | 0x1E5 => listedIdx f.idx
  | 0x1E6 => listedIdx f.idx && f.idx != 0x010 && f.idx != 0x011
  | 0x1E9 => decide (f.clsBits 0 2 ≤ 2) && (if f.clsBits 0 2 = 2 then f.sub != 0 else f.sub = 0)
  | 0x1EC => decide (f.clsBits 0 2 ≤ 2)
  | 0x1EE | 0x1EF => decide (1 ≤ f.sub.toNat) && decide (f.sub.toNat ≤ 64)
  | _ => true

/-- Uses of a unit the part lacks, decided by the encoding alone (00_scope R3, cause 0x06). -/
def absentUnit (p : Part) (op : Nat) (f : Fields) : Bool :=
  !Config.residue p &&
    (match op with
     | 0x052 => f.ty == .rn30 || f.clsBits 0 5 = 0x13
     | 0x182 | 0x185 | 0x186 | 0x187 | 0x188 => f.ty == .rn30
     | _ => false)

end Sys2Proof
end

