-- ==== Sys2Proof/WellFormed.lean ====
section
/-! DEFINITION. Well-formed instructions: those no rule of 03_encoding R81 refuses with cause 0x01 or 0x02, decided by
the encoding alone. A `.one` that the instruction does not take is left to the issue checks, because R71 gives it no
effect on the S-lane. -/

namespace Sys2Proof

/-- A source fits its position (R64, R65). -/
def Slot.okSrc (p : Slot) (x : Src) : Bool :=
  match p.kind, x with
  | .unused, .reg n => n = 0
  | .unused, _ => false
  | .reg, .reg n | .any, .reg n | .regOrZero, .reg n | .regOrLo, .reg n =>
    n.toNat % p.align = 0 && (!p.wide || n.toNat % 2 = 0)
  | .any, _ => true
  | .zero, .zero | .regOrZero, .zero | .predOrZero, .zero => true
  | .pred, .reg n | .predOrZero, .reg n => decide (n.toNat ≤ 7)
  | .lo, .lo | .lit, .lo | .regOrLo, .lo | .hi, .hi | .lit, .hi => true
  | .sreg, .reg n => decide (n.toNat ≤ 63) && (!p.wide || n.toNat % 2 = 0)
  | _, _ => false

/-- A source reads the literal word (R66). -/
def Src.isLit : Src → Bool
  | .lo | .hi => true
  | _ => false

/-- The modifier fields hold only what the opcode accepts (R68). -/
def Mods.ok (m : Mods) (f : Fields) : Bool :=
  m.tys.contains f.ty && m.rnds.contains f.rnd && (m.sat || !f.sat) && (m.negA || (!f.negA && !f.absA)) &&
  (m.negB || !f.negB) && m.ords.contains f.order && (m.scope || f.scope == .thread) &&
  (f.cls.toNat &&& m.cls == f.cls.toNat) && (f.sub.toNat &&& m.sub == f.sub.toNat)

/-- The position that keep names holds a register that the instruction reads (R78): a register of the 32 threads, and neither a predicate
nor the uniform register of `S2V`, of which no operand buffer holds values. See log entry 47 (DEDUCED). -/
def keepOk (p : Slot) (x : Src) : Bool :=
  match p.kind, x with
  | .reg, .reg _ | .any, .reg _ | .regOrZero, .reg _ | .regOrLo, .reg _ => true
  | _, _ => false

/-- The checks of cause 0x02 on an extended instruction of opcode `op` whose attributes are `F`. -/
def Form.ok (F : Form) (op : Nat) (f : Fields) : Bool :=
  let p := shape op f
  F.mods.ok f && p.d.okSrc (.reg f.d) && p.a.okSrc f.a && p.b.okSrc f.b && p.c.okSrc f.c &&
  (f.lit.isSome == (f.a.isLit || f.b.isLit || f.c.isLit || op == 0x0CD)) &&
  (f.pred != 7 || !f.pneg) && (F.guard || f.pred == 7) &&
  (match f.keep with
   | .none => true
   | .a => keepOk p.a f.a
   | .b => keepOk p.b f.b
   | .c => keepOk p.c f.c) &&
  extraOk op f

/-- An extended opcode and its fields are an instruction. -/
def wfExt (op : Nat) (f : Fields) : Bool :=
  match form op with
  | some F => F.ok op f
  | none => false

/-- The extended form that a short form stands for (R61): opcode and fields, for short opcodes other than those of
`MOVK` and `SBRA`. -/
def Short.ext (sop : Nat) (k : Short) : Nat × Fields :=
  let two (op : Nat) (ty : Ty) : Nat × Fields :=
    (op, { d := k.d, a := .reg k.d, b := .reg k.a, one := k.one, stall := k.stall, ty,
           keep := if k.keepA then .b else .none })
  let bare (op : Nat) : Nat × Fields := (op, { one := k.one, stall := k.stall })
  let keep : Keep := if k.keepA then .a else .none
  match sop with
  | 0x00 => bare 0x0C9
  | 0x01 => (0x080, { d := k.d, a := .reg k.a, one := k.one, stall := k.stall, ty := .z32, keep })
  | 0x02 => two 0x000 .z32
  | 0x03 => two 0x001 .z32
  | 0x04 => two 0x010 .z32
  | 0x05 => two 0x011 .z32
  | 0x06 => two 0x012 .z32
  | 0x07 => two 0x015 .z32
  | 0x08 => two 0x016 .z32
  | 0x09 => two 0x017 .s32
  | 0x0A => two 0x002 .z32
  | 0x0B => two 0x009 .s32
  | 0x0C => two 0x00A .s32
  | 0x0D => two 0x040 .f32
  | 0x0E => two 0x042 .f32
  | 0x0F => two 0x044 .f32
  | 0x10 => two 0x045 .f32
  | 0x13 => bare 0x0C4
  | 0x14 => bare 0x0C7
  | 0x15 => bare 0x0C8
  | 0x16 => bare 0x0C6
  | 0x17 => bare 0x160
  | 0x18 => (0x100, { d := k.d, a := .reg k.a, b := .zero, one := k.one, stall := k.stall, ty := .z32, keep })
  | _ => (0x101, { a := .reg k.a, b := .zero, c := .reg k.d, one := k.one, stall := k.stall, ty := .z32, keep })

/-- The extended form that the short `MOVK` stands for (R62). -/
def ShortLit.ext (k : ShortLit) : Nat × Fields :=
  (0x081, { d := k.d, a := .lo, one := k.one, stall := k.stall, ty := if k.pair then .z64 else .z32, lit := some k.lit })

/-- The extended form that `SBRA` stands for (R62): an unguarded `BRA` by four times the offset. -/
def ShortBranch.ext (k : ShortBranch) : Nat × Fields :=
  (0x0C0, { b := .lo, one := k.one, stall := k.stall,
            lit := some (((k.off.signExtend 30) ++ (0 : BitVec 2)).setWidth 64) })

/-- A short form with no operands. -/
def bareShort (sop : Nat) : Bool :=
  sop = 0x00 || (decide (0x13 ≤ sop) && decide (sop ≤ 0x17))

/-- A short form is an instruction (R61). -/
def wfShort (sop : Nat) (k : Short) : Bool :=
  wfExt (k.ext sop).1 (k.ext sop).2 && (!bareShort sop || (k.d = 0 && k.a = 0 && !k.keepA))

/-- The short `MOVK` is an instruction (R62). -/
def wfShortLit (k : ShortLit) : Bool :=
  wfExt k.ext.1 k.ext.2 && (k.pair || k.lit.toNat / 2 ^ 32 = 0)

end Sys2Proof
end

