-- ==== Sys2Proof/Decode.lean ====
section
/-! DEFINITION. From words to instructions and back (03_encoding R57 to R83). Decoding is total: a word sequence that is
not an instruction is refused with the cause of R81 that comes first in the order of R82. -/

namespace Sys2Proof

/-- Bits `lo` upward, `n` of them. -/
def bitsAt (w lo n : Nat) : Nat := w / 2 ^ lo % 2 ^ n

/-- Words that an instruction takes, by bits 1:0 of its first word (R57). -/
def wordCount (w0 : Nat) : Nat :=
  match w0 % 4 with
  | 0 => 1
  | 1 => 3
  | 2 => 3
  | _ => 5

/-- The constructor of an extended opcode; rows that share an opcode are told apart by their fields (16 R335). -/
def build (op : Nat) (f : Fields) : Option Instr :=
  match op with
  | 0x000 => some (.iadd f)
  | 0x001 => some (.isub f)
  | 0x002 => some (.imul f)
  | 0x003 => some (.imulh f)
  | 0x004 => some (.imad f)
  | 0x005 => some (.imadw f)
  | 0x006 => some (.idiv f)
  | 0x007 => some (.irem f)
  | 0x008 => some (.iabs f)
  | 0x009 => some (.imin f)
  | 0x00A => some (.imax f)
  | 0x00B => some (.iaddc f)
  | 0x00C => some (.isubb f)
  | 0x00D => some (.lea f)
  | 0x00E => some (.isetp f)
  | 0x00F => some (.isel f)
  | 0x010 => some (.and f)
  | 0x011 => some (.or f)
  | 0x012 => some (.xor f)
  | 0x013 => some (.andn f)
  | 0x014 => some (.not f)
  | 0x015 => some (.shl f)
  | 0x016 => some (.shr f)
  | 0x017 => some (.sar f)
  | 0x018 => some (.rotl f)
  | 0x019 => some (.fshf f)
  | 0x01A => some (.bfx f)
  | 0x01B => some (.bfi f)
  | 0x01C => some (.popc f)
  | 0x01D => some (.clz f)
  | 0x01E => some (.ctz f)
  | 0x01F => some (.brev f)
  | 0x020 => some (.prmb f)
  | 0x021 => some (.lut3 f)
  | 0x022 => some (.idot4 f)
  | 0x023 => some (.idot2 f)
  | 0x024 => some (.pset f)
  | 0x040 => some (.fadd f)
  | 0x041 => some (.fsub f)
  | 0x042 => some (.fmul f)
  | 0x043 => some (.ffma f)
  | 0x044 => some (.fmin f)
  | 0x045 => some (.fmax f)
  | 0x046 => some (.fsetp f)
  | 0x047 => some (.fclass f)
  | 0x048 => some (.frcp f)
  | 0x049 => some (.frsq f)
  | 0x04A => some (.fsqrt f)
  | 0x04B => some (.fexp2 f)
  | 0x04C => some (.flog2 f)
  | 0x04D => some (.fsin f)
  | 0x04E => some (.fcos f)
  | 0x04F => some (.ftanh f)
  | 0x050 => some (.fscale f)
  | 0x051 => some (.frnd f)
  | 0x052 => some (.fcvt f)
  | 0x053 => some (.i2f f)
  | 0x054 => some (.f2i f)
  | 0x055 => some (.hadd2 f)
  | 0x056 => some (.hmul2 f)
  | 0x057 => some (.hfma2 f)
  | 0x058 => some (.fdot2 f)
  | 0x080 => some (.mov f)
  | 0x081 => some (.movk f)
  | 0x082 => some (.movi f)
  | 0x083 => some (.movx f)
  | 0x084 => some (.s2v f)
  | 0x085 => some (.v2s f)
  | 0x086 => some (.rds f)
  | 0x087 => some (.perm f)
  | 0x088 => some (.shfl f)
  | 0x089 => some (.qswap f)
  | 0x08A => some (.qbcast f)
  | 0x08B => some (.lut16 f)
  | 0x08C => some (.vote f)
  | 0x08D => some (.redux f)
  | 0x08E => some (.scanx f)
  | 0x08F => some (.p2v f)
  | 0x090 => some (.v2p f)
  | 0x0C0 => some (.bra f)
  | 0x0C1 => some (.brx f)
  | 0x0C2 => some (.call f)
  | 0x0C3 => some (.callx f)
  | 0x0C4 => some (.ret f)
  | 0x0C5 => some (.split f)
  | 0x0C6 => some (.join f)
  | 0x0C7 => some (.exit f)
  | 0x0C8 => some (.yield f)
  | 0x0C9 => some (.nop f)
  | 0x0CA => some (.sleep f)
  | 0x0CB => some (.tcall f)
  | 0x0CC => some (.tret f)
  | 0x0CD => some (.safept f)
  | 0x0CE => some (.idemb f)
  | 0x0CF => some (.ideme f)
  | 0x0D0 => some (.solo f)
  | 0x0D1 => some (.soloe f)
  | 0x100 => some (.ld f)
  | 0x101 => some (.st f)
  | 0x102 => some (.ldx f)
  | 0x103 => some (.stx f)
  | 0x104 => some (.pref f)
  | 0x105 => some (.cflush f)
  | 0x106 => some (.cinv f)
  | 0x107 => some (.cwb f)
  | 0x108 => some (.fence f)
  | 0x109 => some (.probe f)
  | 0x140 => some (.atom f)
  | 0x141 => some (.acas f)
  | 0x142 => some (.red f)
  | 0x143 => some (.mcas f)
  | 0x144 => some (.waitc f)
  | 0x145 => some (.acas2 f)
  | 0x160 => some (.bar f)
  | 0x161 => some (.tbar f)
  | 0x162 => some (.gbar f)
  | 0x163 => some (.wbinit f)
  | 0x164 => some (.wbexpect f)
  | 0x165 => some (.wbarrive f)
  | 0x166 => some (.wbwait f)
  | 0x167 => some (.wbtest f)
  | 0x180 => some (.macq f)
  | 0x181 => some (.mrel f)
  | 0x182 => some (.mzero f)
  | 0x183 => some (.mloop f)
  | 0x184 => some (.mstep f)
  | 0x185 => some (.mrd f)
  | 0x186 => some (.mst f)
  | 0x187 => some (.mldacc f)
  | 0x188 => some (.tcopy f)
  | 0x189 => some (.tmcast f)
  | 0x18A => some (.tcancel f)
  | 0x18B => some (.tstat f)
  | 0x1C0 => some (.spawn f)
  | 0x1C1 => some (.spawnj f)
  | 0x1C2 => some (.depsig f)
  | 0x1C3 => some (.alloc f)
  | 0x1C4 => some (.free f)
  | 0x1E0 => some (.syscall f)
  | 0x1E1 => some (.svpop f)
  | 0x1E2 => some (.svdone f)
  | 0x1E3 => some (.trap f)
  | 0x1E5 => some (.crd f)
  | 0x1E7 => some (.xinv f)
  | 0x1E8 => some (.rmode f)
  | 0x1EA => some (.ctxld f)
  | 0x1EB => some (.wfi f)
  | 0x1ED => some (.bkpt f)
  | 0x1EE => some (.reggrow f)
  | 0x1EF => some (.regshrink f)
  | 0x1F0 => some (.lease f)
  | 0x1E4 => some (if f.a = .zero then .eret f else if f.cls = 0 then .eretHeader f else .eretStep f)
  | 0x1E6 => some (if f.idx = 0x030 then .svqbaseWrite f else if f.idx = 0x040 then .timecmpWrite f
      else if f.idx = 0x100 then .pmselWrite f else .cwr f)
  | 0x1E9 => some (if f.cls = 0 then .ctxsvArm f else if f.cls = 1 then .ctxsvReq f else .ctxsvEnd f)
  | 0x1EC => some (if f.cls = 0 then .ipiWake f else if f.cls = 1 then .ipiStop f else .ipiSl f)
  | _ => none

/-- The opcode and fields of an extended instruction; none for a short form or an event. -/
def Instr.ext? : Instr → Option (Nat × Fields)
  | .iadd f => some (0x000, f)
  | .isub f => some (0x001, f)
  | .imul f => some (0x002, f)
  | .imulh f => some (0x003, f)
  | .imad f => some (0x004, f)
  | .imadw f => some (0x005, f)
  | .idiv f => some (0x006, f)
  | .irem f => some (0x007, f)
  | .iabs f => some (0x008, f)
  | .imin f => some (0x009, f)
  | .imax f => some (0x00A, f)
  | .iaddc f => some (0x00B, f)
  | .isubb f => some (0x00C, f)
  | .lea f => some (0x00D, f)
  | .isetp f => some (0x00E, f)
  | .isel f => some (0x00F, f)
  | .and f => some (0x010, f)
  | .or f => some (0x011, f)
  | .xor f => some (0x012, f)
  | .andn f => some (0x013, f)
  | .not f => some (0x014, f)
  | .shl f => some (0x015, f)
  | .shr f => some (0x016, f)
  | .sar f => some (0x017, f)
  | .rotl f => some (0x018, f)
  | .fshf f => some (0x019, f)
  | .bfx f => some (0x01A, f)
  | .bfi f => some (0x01B, f)
  | .popc f => some (0x01C, f)
  | .clz f => some (0x01D, f)
  | .ctz f => some (0x01E, f)
  | .brev f => some (0x01F, f)
  | .prmb f => some (0x020, f)
  | .lut3 f => some (0x021, f)
  | .idot4 f => some (0x022, f)
  | .idot2 f => some (0x023, f)
  | .pset f => some (0x024, f)
  | .fadd f => some (0x040, f)
  | .fsub f => some (0x041, f)
  | .fmul f => some (0x042, f)
  | .ffma f => some (0x043, f)
  | .fmin f => some (0x044, f)
  | .fmax f => some (0x045, f)
  | .fsetp f => some (0x046, f)
  | .fclass f => some (0x047, f)
  | .frcp f => some (0x048, f)
  | .frsq f => some (0x049, f)
  | .fsqrt f => some (0x04A, f)
  | .fexp2 f => some (0x04B, f)
  | .flog2 f => some (0x04C, f)
  | .fsin f => some (0x04D, f)
  | .fcos f => some (0x04E, f)
  | .ftanh f => some (0x04F, f)
  | .fscale f => some (0x050, f)
  | .frnd f => some (0x051, f)
  | .fcvt f => some (0x052, f)
  | .i2f f => some (0x053, f)
  | .f2i f => some (0x054, f)
  | .hadd2 f => some (0x055, f)
  | .hmul2 f => some (0x056, f)
  | .hfma2 f => some (0x057, f)
  | .fdot2 f => some (0x058, f)
  | .mov f => some (0x080, f)
  | .movk f => some (0x081, f)
  | .movi f => some (0x082, f)
  | .movx f => some (0x083, f)
  | .s2v f => some (0x084, f)
  | .v2s f => some (0x085, f)
  | .rds f => some (0x086, f)
  | .perm f => some (0x087, f)
  | .shfl f => some (0x088, f)
  | .qswap f => some (0x089, f)
  | .qbcast f => some (0x08A, f)
  | .lut16 f => some (0x08B, f)
  | .vote f => some (0x08C, f)
  | .redux f => some (0x08D, f)
  | .scanx f => some (0x08E, f)
  | .p2v f => some (0x08F, f)
  | .v2p f => some (0x090, f)
  | .bra f => some (0x0C0, f)
  | .brx f => some (0x0C1, f)
  | .call f => some (0x0C2, f)
  | .callx f => some (0x0C3, f)
  | .ret f => some (0x0C4, f)
  | .split f => some (0x0C5, f)
  | .join f => some (0x0C6, f)
  | .exit f => some (0x0C7, f)
  | .yield f => some (0x0C8, f)
  | .nop f => some (0x0C9, f)
  | .sleep f => some (0x0CA, f)
  | .tcall f => some (0x0CB, f)
  | .tret f => some (0x0CC, f)
  | .safept f => some (0x0CD, f)
  | .idemb f => some (0x0CE, f)
  | .ideme f => some (0x0CF, f)
  | .solo f => some (0x0D0, f)
  | .soloe f => some (0x0D1, f)
  | .ld f => some (0x100, f)
  | .st f => some (0x101, f)
  | .ldx f => some (0x102, f)
  | .stx f => some (0x103, f)
  | .pref f => some (0x104, f)
  | .cflush f => some (0x105, f)
  | .cinv f => some (0x106, f)
  | .cwb f => some (0x107, f)
  | .fence f => some (0x108, f)
  | .probe f => some (0x109, f)
  | .atom f => some (0x140, f)
  | .acas f => some (0x141, f)
  | .red f => some (0x142, f)
  | .mcas f => some (0x143, f)
  | .waitc f => some (0x144, f)
  | .acas2 f => some (0x145, f)
  | .bar f => some (0x160, f)
  | .tbar f => some (0x161, f)
  | .gbar f => some (0x162, f)
  | .wbinit f => some (0x163, f)
  | .wbexpect f => some (0x164, f)
  | .wbarrive f => some (0x165, f)
  | .wbwait f => some (0x166, f)
  | .wbtest f => some (0x167, f)
  | .macq f => some (0x180, f)
  | .mrel f => some (0x181, f)
  | .mzero f => some (0x182, f)
  | .mloop f => some (0x183, f)
  | .mstep f => some (0x184, f)
  | .mrd f => some (0x185, f)
  | .mst f => some (0x186, f)
  | .mldacc f => some (0x187, f)
  | .tcopy f => some (0x188, f)
  | .tmcast f => some (0x189, f)
  | .tcancel f => some (0x18A, f)
  | .tstat f => some (0x18B, f)
  | .spawn f => some (0x1C0, f)
  | .spawnj f => some (0x1C1, f)
  | .depsig f => some (0x1C2, f)
  | .alloc f => some (0x1C3, f)
  | .free f => some (0x1C4, f)
  | .syscall f => some (0x1E0, f)
  | .svpop f => some (0x1E1, f)
  | .svdone f => some (0x1E2, f)
  | .trap f => some (0x1E3, f)
  | .eret f => some (0x1E4, f)
  | .eretHeader f => some (0x1E4, f)
  | .eretStep f => some (0x1E4, f)
  | .crd f => some (0x1E5, f)
  | .cwr f => some (0x1E6, f)
  | .xinv f => some (0x1E7, f)
  | .rmode f => some (0x1E8, f)
  | .ctxsvArm f => some (0x1E9, f)
  | .ctxsvReq f => some (0x1E9, f)
  | .ctxsvEnd f => some (0x1E9, f)
  | .ctxld f => some (0x1EA, f)
  | .wfi f => some (0x1EB, f)
  | .ipiWake f => some (0x1EC, f)
  | .ipiStop f => some (0x1EC, f)
  | .ipiSl f => some (0x1EC, f)
  | .bkpt f => some (0x1ED, f)
  | .reggrow f => some (0x1EE, f)
  | .regshrink f => some (0x1EF, f)
  | .lease f => some (0x1F0, f)
  | .svqbaseWrite f => some (0x1E6, f)
  | .timecmpWrite f => some (0x1E6, f)
  | .pmselWrite f => some (0x1E6, f)
  | _ => none

/-- The constructor of a short opcode other than those of `MOVK` and `SBRA`. -/
def buildShort (sop : Nat) (k : Short) : Option Instr :=
  match sop with
  | 0x00 => some (.nopShort k)
  | 0x01 => some (.movShort k)
  | 0x02 => some (.iaddShort k)
  | 0x03 => some (.isubShort k)
  | 0x04 => some (.andShort k)
  | 0x05 => some (.orShort k)
  | 0x06 => some (.xorShort k)
  | 0x07 => some (.shlShort k)
  | 0x08 => some (.shrShort k)
  | 0x09 => some (.sarShort k)
  | 0x0A => some (.imulShort k)
  | 0x0B => some (.iminShort k)
  | 0x0C => some (.imaxShort k)
  | 0x0D => some (.faddShort k)
  | 0x0E => some (.fmulShort k)
  | 0x0F => some (.fminShort k)
  | 0x10 => some (.fmaxShort k)
  | 0x13 => some (.retShort k)
  | 0x14 => some (.exitShort k)
  | 0x15 => some (.yieldShort k)
  | 0x16 => some (.joinShort k)
  | 0x17 => some (.barShort k)
  | 0x18 => some (.ldShort k)
  | 0x19 => some (.stShort k)
  | _ => none

/-- The short opcode and fields of a short form other than `MOVK` and `SBRA`. -/
def Instr.short? : Instr → Option (Nat × Short)
  | .nopShort k => some (0x00, k)
  | .movShort k => some (0x01, k)
  | .iaddShort k => some (0x02, k)
  | .isubShort k => some (0x03, k)
  | .andShort k => some (0x04, k)
  | .orShort k => some (0x05, k)
  | .xorShort k => some (0x06, k)
  | .shlShort k => some (0x07, k)
  | .shrShort k => some (0x08, k)
  | .sarShort k => some (0x09, k)
  | .imulShort k => some (0x0A, k)
  | .iminShort k => some (0x0B, k)
  | .imaxShort k => some (0x0C, k)
  | .faddShort k => some (0x0D, k)
  | .fmulShort k => some (0x0E, k)
  | .fminShort k => some (0x0F, k)
  | .fmaxShort k => some (0x10, k)
  | .retShort k => some (0x13, k)
  | .exitShort k => some (0x14, k)
  | .yieldShort k => some (0x15, k)
  | .joinShort k => some (0x16, k)
  | .barShort k => some (0x17, k)
  | .ldShort k => some (0x18, k)
  | .stShort k => some (0x19, k)
  | _ => none
/-- A source from its mode and field (R65). -/
def Src.parse (mode field : Nat) : Option Src :=
  match mode with
  | 0 => some (.reg (BitVec.ofNat 9 field))
  | 1 => if field = 0 then some .zero else none
  | 2 => if field = 0 then some .lo else none
  | _ => if field = 0 then some .hi else none

def Rnd.ofCode : Nat → Option Rnd
  | 0 => some .rne | 1 => some .rtz | 2 => some .rdn | 3 => some .rup | 4 => some .rsr | _ => none

def Order.ofCode : Nat → Option Order
  | 0 => some .rlx | 1 => some .acq | 2 => some .rel | 3 => some .ar | 4 => some .sc | _ => none

def Scope.ofCode : Nat → Scope
  | 0 => .thread | 1 => .quad | 2 => .warp | 3 => .group | 4 => .cluster | 5 => .die | 6 => .pkg | _ => .sys

def Keep.ofCode : Nat → Keep
  | 0 => .none | 1 => .a | 2 => .b | _ => .c

def Src.mode : Src → Nat
  | .reg _ => 0 | .zero => 1 | .lo => 2 | .hi => 3

def Src.field : Src → Nat
  | .reg n => n.toNat | _ => 0

def Rnd.code : Rnd → Nat
  | .rne => 0 | .rtz => 1 | .rdn => 2 | .rup => 3 | .rsr => 4

def Order.code : Order → Nat
  | .rlx => 0 | .acq => 1 | .rel => 2 | .ar => 3 | .sc => 4

def Scope.code : Scope → Nat
  | .thread => 0 | .quad => 1 | .warp => 2 | .group => 3 | .cluster => 4 | .die => 5 | .pkg => 6 | .sys => 7

def Keep.code : Keep → Nat
  | .none => 0 | .a => 1 | .b => 2 | .c => 3

/-- The fields of an extended instruction (R63); none when a code is reserved or a field that must be 0 is not. -/
def Fields.parse (w0 w1 w2 : Nat) (lit : Option Dword) : Option Fields := do
  let a ← Src.parse (bitsAt w0 30 2) (bitsAt w0 21 9)
  let b ← Src.parse (bitsAt w1 18 2) (bitsAt w1 0 9)
  let c ← Src.parse (bitsAt w1 20 2) (bitsAt w1 9 9)
  let order ← Order.ofCode (bitsAt w2 11 3)
  let rnd ← Rnd.ofCode (bitsAt w2 5 3)
  let ty ← Ty.ofCode (bitsAt w2 0 5)
  some { d := BitVec.ofNat 9 (bitsAt w0 12 9), a, b, c, one := bitsAt w1 31 1 = 1, pneg := bitsAt w1 30 1 = 1,
         pred := BitVec.ofNat 3 (bitsAt w1 27 3), keep := Keep.ofCode (bitsAt w1 25 2),
         stall := BitVec.ofNat 3 (bitsAt w1 22 3), sub := BitVec.ofNat 8 (bitsAt w2 24 8),
         cls := BitVec.ofNat 6 (bitsAt w2 18 6), absA := bitsAt w2 17 1 = 1, negB := bitsAt w2 16 1 = 1,
         negA := bitsAt w2 15 1 = 1, sat := bitsAt w2 14 1 = 1, order, scope := Scope.ofCode (bitsAt w2 8 3), rnd, ty,
         lit }

/-- Word 0 of an extended instruction (R63). -/
def Fields.word0 (op : Nat) (f : Fields) : Nat :=
  (if f.lit.isSome then 3 else 1) + 2 ^ 2 * op + 2 ^ 12 * f.d.toNat + 2 ^ 21 * f.a.field + 2 ^ 30 * f.a.mode

/-- Word 1 (R63). -/
def Fields.word1 (f : Fields) : Nat :=
  f.b.field + 2 ^ 9 * f.c.field + 2 ^ 18 * f.b.mode + 2 ^ 20 * f.c.mode + 2 ^ 22 * f.stall.toNat +
  2 ^ 25 * f.keep.code + 2 ^ 27 * f.pred.toNat + 2 ^ 30 * f.pneg.toNat + 2 ^ 31 * f.one.toNat

/-- Word 2, the modifier word (R63). -/
def Fields.word2 (f : Fields) : Nat :=
  f.ty.code + 2 ^ 5 * f.rnd.code + 2 ^ 8 * f.scope.code + 2 ^ 11 * f.order.code + 2 ^ 14 * f.sat.toNat +
  2 ^ 15 * f.negA.toNat + 2 ^ 16 * f.negB.toNat + 2 ^ 17 * f.absA.toNat + 2 ^ 18 * f.cls.toNat + 2 ^ 24 * f.sub.toNat

/-- The two words of a literal, low half first (R58). -/
def litWords : Option Dword → List Nat
  | none => []
  | some x => [x.toNat % 2 ^ 32, x.toNat / 2 ^ 32]

/-- The words of an extended instruction. -/
def encodeExt (op : Nat) (f : Fields) : List Nat := [f.word0 op, f.word1, f.word2] ++ litWords f.lit

/-- The base word of a short form (R60). -/
def Short.word (sop : Nat) (k : Short) : Nat :=
  2 ^ 2 * sop + 2 ^ 8 * k.d.toNat + 2 ^ 17 * k.a.toNat + 2 ^ 26 * k.stall.toNat + 2 ^ 29 * k.keepA.toNat +
  2 ^ 30 * k.one.toNat

/-- The base word of the short `MOVK` (R62). -/
def ShortLit.word (k : ShortLit) : Nat :=
  2 + 2 ^ 2 * 0x11 + 2 ^ 8 * k.d.toNat + 2 ^ 17 * k.pair.toNat + 2 ^ 26 * k.stall.toNat + 2 ^ 30 * k.one.toNat

/-- The base word of `SBRA` (R62). -/
def ShortBranch.word (k : ShortBranch) : Nat :=
  2 ^ 2 * 0x12 + 2 ^ 8 * k.off.toNat + 2 ^ 26 * k.stall.toNat + 2 ^ 30 * k.one.toNat

/-- The words of an instruction. An event of the part has none. See log entry 44 (DEDUCED). -/
def encode (i : Instr) : List Nat :=
  match i.ext? with
  | some (op, f) => encodeExt op f
  | none =>
    match i.short? with
    | some (sop, k) => [k.word sop]
    | none =>
      match i with
      | .movkShort k => k.word :: litWords (some k.lit)
      | .sbra k => [k.word]
      | _ => []

/-- What a word sequence is: an instruction, or a cause of R81. -/
inductive Decoded where
  | instr (i : Instr)
  | bad (cause : Nat)
deriving DecidableEq, Repr

/-- A base word (R60 to R62) with its literal word, if it has one. -/
def decodeBase (w : Nat) (lit : Option Dword) : Decoded :=
  let sop := bitsAt w 2 6
  let one : Bool := bitsAt w 30 1 = 1
  let keepA : Bool := bitsAt w 29 1 = 1
  let stall := BitVec.ofNat 3 (bitsAt w 26 3)
  if 0x1A ≤ sop then .bad 1
  else if bitsAt w 31 1 = 1 then .bad 2
  else if sop = 0x11 then
    match lit with
    | none => .bad 2
    | some x =>
      let k : ShortLit := { one, stall, pair := bitsAt w 17 9 = 1, d := BitVec.ofNat 9 (bitsAt w 8 9), lit := x }
      if 2 ≤ bitsAt w 17 9 || keepA || !wfShortLit k then .bad 2 else .instr (.movkShort k)
  else if lit.isSome then .bad 2
  else if sop = 0x12 then
    if keepA then .bad 2
    else .instr (.sbra { one, stall, off := BitVec.ofNat 18 (bitsAt w 8 18) })
  else
    let k : Short := { one, keepA, stall, a := BitVec.ofNat 9 (bitsAt w 17 9), d := BitVec.ofNat 9 (bitsAt w 8 9) }
    match buildShort sop k with
    | some i => if wfShort sop k then .instr i else .bad 2
    | none => .bad 1

/-- Three extended words (R63) with their literal word, if they have one. -/
def decodeExt (w0 w1 w2 : Nat) (lit : Option Dword) : Decoded :=
  let op := bitsAt w0 2 10
  match form op with
  | none => .bad 1
  | some F =>
    match Fields.parse w0 w1 w2 lit with
    | none => .bad 2
    | some f =>
      match build op f with
      | none => .bad 1
      | some i => if F.ok op f then .instr i else .bad 2

/-- The literal word from its two halves (R58). -/
def litOf (lo hi : Nat) : Dword := BitVec.ofNat 64 (lo + 2 ^ 32 * hi)

/-- The instruction that the first words of a list hold, by the length in bits 1:0 of the first. A list that is too
short is refused with cause 0x08; the fetch never gives one (R58). See log entry 45 (DEDUCED). -/
def decodeWords : List Nat → Decoded
  | [] => .bad 8
  | w0 :: r =>
    match w0 % 4, r with
    | 0, _ => decodeBase w0 none
    | 1, w1 :: w2 :: _ => decodeExt w0 w1 w2 none
    | 2, lo :: hi :: _ => decodeBase w0 (some (litOf lo hi))
    | 3, w1 :: w2 :: lo :: hi :: _ => decodeExt w0 w1 w2 (some (litOf lo hi))
    | _, _ => .bad 8

/-- An instruction that no rule of R81 refuses, and whose fields are those of its row of the opcode table. An event of the part is
none. -/
def Instr.wellFormed (i : Instr) : Bool :=
  match i.ext? with
  | some (op, f) => wfExt op f && build op f == some i
  | none =>
    match i.short? with
    | some (sop, k) => wfShort sop k
    | none =>
      match i with
      | .movkShort k => wfShortLit k
      | .sbra _ => true
      | _ => false

/-- Bytes of an instruction (R57). -/
def Instr.len (i : Instr) : Nat := 4 * (encode i).length

/-- First word in bits 31:0 and extended word 1 in bits 63:32, or 0 for a base word (R81). See log entry 10 (DEDUCED). -/
def trapWords : List Nat → Dword
  | [] => 0
  | w0 :: r => BitVec.ofNat 64 (w0 + if w0 % 2 = 1 then 2 ^ 32 * r.headD 0 else 0)

/-- `n` words of 32 bits of a number, the lowest first. -/
def wordsOf : Nat → Nat → List Nat
  | 0, _ => []
  | n + 1, w => w % 2 ^ 32 :: wordsOf n (w / 2 ^ 32)

/-- The words of an instruction whose bits are `w`, `nbits` of them, bit 0 lowest in the first word; bits above are 0. -/
def tableWords (nbits w : Nat) : List Nat := wordsOf (max 5 ((nbits + 31) / 32)) (w % 2 ^ nbits)

/-- The instruction the decoder reads from a word of the opcode table. See log entry 44 (DEDUCED). -/
def decodeTableWord (nbits w : Nat) : Option Instr :=
  match decodeWords (tableWords nbits w) with
  | .instr i => some i
  | .bad _ => none

end Sys2Proof
end

