-- ==== Sys2Proof/Machine/Sparse.lean ====
section
/-! DEFINITION. Tables by number in one canonical form: keys strictly rising, no repeats. A key that is not listed reads
as a value the reader names; `Sparse.set` keeps no entry that equals it, so that equal tables are equal lists. -/

namespace Sys2Proof

/-- A table from numbers to values, keys strictly rising. -/
abbrev Sparse (α : Type) := List (Nat × α)

/-- The value listed at `k`, if any. -/
def Sparse.get? {α : Type} : Sparse α → Nat → Option α
  | [], _ => none
  | (j, v) :: r, k => if j = k then some v else if k < j then none else Sparse.get? r k

/-- The value at `k`, or `d` when `k` is not listed. -/
def Sparse.get {α : Type} (d : α) (m : Sparse α) (k : Nat) : α := (Sparse.get? m k).getD d

/-- List `v` at `k`. -/
def Sparse.put {α : Type} : Sparse α → Nat → α → Sparse α
  | [], k, v => [(k, v)]
  | (j, w) :: r, k, v =>
    if k < j then (k, v) :: (j, w) :: r
    else if k = j then (k, v) :: r
    else (j, w) :: Sparse.put r k v

/-- Take `k` out of the table. -/
def Sparse.erase {α : Type} : Sparse α → Nat → Sparse α
  | [], _ => []
  | (j, w) :: r, k => if j = k then r else if k < j then (j, w) :: r else (j, w) :: Sparse.erase r k

/-- Write `v` at `k` in a table whose unlisted keys read as `d`. -/
def Sparse.set {α : Type} [DecidableEq α] (d : α) (m : Sparse α) (k : Nat) (v : α) : Sparse α :=
  if v = d then Sparse.erase m k else Sparse.put m k v

/-- A table with the changes that were made to an older one; unlisted keys read as `d`. -/
def Sparse.patch {α : Type} [DecidableEq α] (d : α) (base before after : Sparse α) : Sparse α :=
  (before.map (·.1) ++ after.map (·.1)).foldl (fun m k =>
    if Sparse.get d before k = Sparse.get d after k then m else Sparse.set d m k (Sparse.get d after k)) base

/-- Every key of the table is above `b`, and they rise. -/
def Sparse.above {α : Type} : Option Nat → Sparse α → Bool
  | _, [] => true
  | b, (j, _) :: r => (match b with | none => true | some b => decide (b < j)) && Sparse.above (some j) r

/-- The canonical form. -/
def Sparse.sorted {α : Type} (m : Sparse α) : Bool := Sparse.above none m

/-- No listed value is the one that unlisted keys read as. -/
def Sparse.packed {α : Type} [DecidableEq α] (d : α) : Sparse α → Bool
  | [] => true
  | (_, v) :: r => (v != d) && Sparse.packed d r

/-- Bytes by address; the host's cells. -/
abbrev Memory := List Host.Cell

/-- What a byte that nothing has written reads as (log entry 2, DESIGN CHOICE). -/
def Memory.blank : Byte := 0

/-- One byte. -/
def Memory.read (m : Memory) (a : Nat) : Byte := Sparse.get Memory.blank m a

/-- Write one byte. -/
def Memory.write (m : Memory) (a : Nat) (b : Byte) : Memory := Sparse.set Memory.blank m a b

/-- Write bytes from `a` upward. -/
def Memory.writeAll (m : Memory) (a : Nat) : List Byte → Memory
  | [] => m
  | b :: r => Memory.writeAll (Memory.write m a b) (a + 1) r

/-- Read `n` bytes from `a` upward. -/
def Memory.readAll (m : Memory) (a : Nat) : Nat → List Byte
  | 0 => []
  | n + 1 => Memory.read m a :: Memory.readAll m (a + 1) n

/-- The canonical form of memory. See log entry 2 (DESIGN CHOICE). -/
def Memory.wf (m : Memory) : Bool := Sparse.sorted m && Sparse.packed Memory.blank m

/-- The number that bytes hold, the first lowest (R7). -/
def leBytes : List Byte → Nat
  | [] => 0
  | b :: r => b.toNat + 256 * leBytes r

/-- `n` bytes of a number, the lowest first (R7). -/
def toBytes : Nat → Nat → List Byte
  | 0, _ => []
  | n + 1, x => BitVec.ofNat 8 x :: toBytes n (x / 256)

end Sys2Proof
end

