-- ==== Sys2Proof/Machine/State.lean ====
section
/-! DEFINITION. The state of the package as plain data (INVENTORY.md lists it with rule and reset value), the reasons a
step can stop, and the state right after reset. -/

namespace Sys2Proof.Machine

/-- The trap registers (04_registers R88, 16_events R330). -/
structure Trap where
  cause : Byte := 0
  pc : Va := 0
  addr : Va := 0
  info : Dword := 0
deriving DecidableEq, Repr

/-- One range, as RANGEBASEn, RANGELIMn and RANGEMAPn hold it (14_tables R300). -/
structure RangeReg where
  base : Dword := 0
  lim : Dword := 0
  map : Dword := 0
deriving DecidableEq, Repr

/-- Whether a thread is absent, live or exited (02_execution_model R29). -/
inductive Life where
  | absent | live | exited
deriving DecidableEq, Repr

/-- Why a front waits (R34). -/
inductive Park where
  | syscall | svpop | ctxsv | tret | join | soloe | soloTurn | waitc | sleep | bar | tbar | gbar | wbwait
  | saved | fault
deriving DecidableEq, Repr

/-- One thread (R27, R33; 14_tables R313). -/
structure Thread where
  life : Life := .absent
  pc : Va := 0
  /-- address of the instruction at which it parked (R175) -/
  waitPc : Va := 0
  preds : BitVec 7 := 0
  /-- current reconvergence entry (R166, R309) -/
  entry : Option Nat := none
  /-- innermost team (R309) -/
  team : Byte := 0
  rank : BitVec 10 := 0
  /-- return latch (R180) -/
  retval : Dword := 0
  /-- `SLEEP` deadline (R173) -/
  deadline : Dword := 0
  /-- register number of the system-call result pair (R282) -/
  rpair : BitVec 9 := 0
  /-- in a system call (R313 FLAGS) -/
  inCall : Bool := false
  /-- cycle the system-call record was written, for capture unit quantity 4 (R327) -/
  callAt : Nat := 0
  /-- phase observed by a parked `WBWAIT`, and the cycle it parked (R318, R327) -/
  phase : Bool := false
  waitAt : Nat := 0
  /-- the `SOLO` section it is inside (R170) -/
  solo : Option Nat := none
deriving DecidableEq, Repr

/-- A front (R33): its lanes, and why it waits. `stepping` holds its threads that were resumed with `.STEP` (R340). -/
structure Front where
  lanes : Mask
  wait : Option Park := none
  stepping : Mask := 0
deriving DecidableEq, Repr

/-- A reconvergence entry (R166, R309). -/
structure REntry where
  join : Va
  mask : Mask
  team : Byte
  link : Option Nat
deriving DecidableEq, Repr

/-- A `SOLO` section (R170): its members, those that reached `SOLOE`, and the entry it recorded. -/
structure Solo where
  members : Mask
  arrived : Mask := 0
  entry : Option Nat
deriving DecidableEq, Repr

/-- An operand-buffer entry (03_encoding R78). -/
structure OpBuf where
  reg : Nat
  vals : List Word
  stamp : Nat
deriving DecidableEq, Repr

/-- One write of a result (R74). -/
inductive Write where
  | reg (n lane : Nat) (x : Word)
  | sreg (n : Nat) (x : Word)
  | pred (p lane : Nat) (x : Bool)
deriving DecidableEq, Repr

/-- Results that land at a known cycle (R74, R373). `fixed` tells the fixed-latency classes from the interlocked. -/
structure Landing where
  due : Nat
  fixed : Bool
  writes : List Write
deriving DecidableEq, Repr

/-- What an operation in flight keeps marked (R75): registers and predicates it will write, registers it still reads
(`busy`), and accumulator slots. -/
structure Marks where
  regs : List Nat := []
  sregs : List Nat := []
  preds : List Nat := []
  busy : List Nat := []
  slots : List Nat := []
deriving DecidableEq, Repr

/-- A deferred fault (10_ordering R233). -/
structure Deferred where
  cause : Nat
  addr : Nat
  pc : Nat
deriving DecidableEq, Repr

/-- The four unacknowledged-store counters (R231, R321). -/
structure Unack where
  here : Nat := 0
  other : Nat := 0
  pkg : Nat := 0
  io : Nat := 0
deriving DecidableEq, Repr

/-- The words of an instruction that is held at its release, and the registers and predicates of its issue cycle, which it reads (03_encoding
R76). -/
structure Seen where
  words : List Nat
  regs : Sparse Word
  sregs : Sparse Word
  preds : List (Nat × BitVec 7)
deriving DecidableEq, Repr

/-- A warp in its slot (02_execution_model; 04_registers R84). The S-lane of a core is the one-thread warp of slot 64
(R51). -/
structure Warp where
  /-- number of this residency: an operation in flight belongs to the warp that has its number (R232) -/
  gen : Nat := 0
  ctx : Nat := 0
  wix : Nat := 0
  /-- the S-lane's one-thread warp, which has no helper threads (R51) -/
  single : Bool := false
  prio : Nat := 0
  stamp : Nat := 0
  regs : Sparse Word := []
  sregs : Sparse Word := []
  /-- registers whose data are in error (16_events R341): 32·register + lane, and uniform registers -/
  regErrs : List Nat := []
  sregErrs : List Nat := []
  blocks : Nat := 0
  tags : Sparse Nat := []
  threads : Sparse Thread := []
  fronts : List Front := []
  cur : Option Nat := none
  entries : Sparse REntry := []
  solos : Sparse Solo := []
  opbuf : List OpBuf := []
  priv : Bool := false
  chk : Bool := false
  ie : Bool := false
  trap : Trap := {}
  tenant : BitVec 16 := 0
  ranges : Sparse RangeReg := []
  nextIssue : Nat := 0
  pend : List Landing := []
  marks : Sparse Marks := []
  /-- loads issued and not yet past their memory-side check (09_memory_spaces R196), oldest first -/
  loads : List Nat := []
  /-- operation whose check or completion the front waits for (R238), if any -/
  holds : Option Nat := none
  /-- acquiring operations not yet written: no later memory instruction issues (R213, R238) -/
  acqs : List Nat := []
  /-- stores that have not left the core (R207, R321) -/
  storeBuf : List Nat := []
  unack : Unack := {}
  /-- IA of the warp area whose saved counters a release also waits for (R232) -/
  savedAt : Option Nat := none
  /-- the deferred fault that the area holds has been loaded or raised -/
  savedDef : Bool := false
  deferred : Option Deferred := none
  inHandler : Bool := false
  debugStop : Bool := false
  /-- a debug stop asked for and waiting as R246 states; true for `IPI.STOP` -/
  stopReq : Option Bool := none
  /-- threads that have issued their one instruction under `.STEP`, and stop when it is complete (R340) -/
  step : Mask := 0
  overrun : Nat := 0
  region : Option Va := none
  /-- blocked `REGGROW`: blocks asked for, cycle of the request (R47) -/
  grow : Option (Nat × Nat) := none
  /-- live mask of the save the warp waits for (R337) -/
  saving : Option Dword := none
  /-- the read of the front's instruction words that is on its way, and the words that have arrived (22 R365) -/
  fetching : Option Nat := none
  fetched : Option (Va × List Nat) := none
  /-- the current front's instruction has issued, and makes the wait of its release (R213, R374); what it read at its issue -/
  held : Bool := false
  seen : Option Seen := none
  /-- ticks of the last acquire and of the last store acknowledgement (R228) -/
  lastAcq : Nat := 0
  lastAck : Nat := 0
deriving DecidableEq, Repr

/-- What a core's S-lane holds beside its one-thread warp (R51, R334). See log entry 20 (DESIGN CHOICE). -/
structure SLane where
  started : Bool := false
  halted : Bool := false
  wfi : Bool := false
  trapvec : Va := 0
  ipiLatch : Bool := false
  queueLatch : Bool := false
  sender : Nat := 0
  msgs : List (BitVec 40) := []
deriving DecidableEq, Repr

/-- An event counter (15_counters R325). -/
structure Pmc where
  en : Bool := false
  uonly : Bool := false
  unit : Nat := 0
  evt : Nat := 0
  count : Dword := 0
deriving DecidableEq, Repr

/-- An accumulator slot (04_registers R89): cells by 64·row + column, mode, the group and the warp slot that own it, and
the cycle until which it is held busy (R262, R265, R268). See log entry 20 (DESIGN CHOICE). -/
structure Acc where
  cells : Sparse Word := []
  residue : Bool := false
  group : Option Nat := none
  owner : Option Nat := none
  busy : Nat := 0
  /-- cells in error, and the error that stopped a loop of a residency, with the TRAPINFO it raises (16_events R341) -/
  errs : List Nat := []
  stopped : Option (Nat × Nat) := none
deriving DecidableEq, Repr

/-- A bench (12_matrix_and_copy R255). `since` is the cycle at which its idle counter was last 0. -/
structure Bench where
  since : Nat := 0
  gated : Bool := false
deriving DecidableEq, Repr

/-- A loop in the queue (R262): the warp, its group, the physical slot, the operands, and the formats checked at issue. `step` is the
step to come and `start` the cycle at which it starts, or at which the last step ends; `woken` tells that its benches are waking. -/
structure Loop where
  slot : Nat
  gen : Nat
  ctx : Nat
  user : Bool
  acc : Nat
  va : Nat
  off : Nat
  bankCore : Nat
  steps : Nat
  incA : Nat
  incB : Nat
  nb : Nat
  fmts : List (Nat × Nat)
  id : Nat
  issued : Nat
  lead : Nat
  step : Nat := 0
  start : Option Nat := none
  woken : Bool := false
  /-- the cycles in which the reads of another core's bank were issued, and what those that have reached it bring, by step (R258) -/
  reads : Sparse Nat := []
  ahead : Sparse Memory := []
deriving DecidableEq, Repr

/-- A copy in the copy table (R269–R273). The operation `id` names the warp that issued it. `ranges` is the translation kept from issue,
`target` the unacknowledged-store counter that counts it, `done` the source bytes it has moved, `wrote` the bytes it has written, and `fail`
the cause and address it stopped at. -/
structure Copy where
  id : Nat
  ticket : Nat := 0
  dest : Nat
  vals : List Nat
  lane : Nat
  ranges : List RangeReg
  lmask : Nat
  desc : List Byte
  mask : Nat
  wb : Option (Nat × Nat)
  conv : Ty
  target : Option Nat
  startAt : Nat
  done : Nat := 0
  wrote : Nat := 0
  tag : Option Nat := none
  moving : Bool := false
  fail : Option (Nat × Nat) := none
deriving DecidableEq, Repr

/-- What one quarter remembers (R43, R44, R120, R144). -/
structure Quarter where
  holder : Option Nat := none
  count : Nat := 0
  ptr : Option Nat := none
  divNext : Nat := 0
  fnNext : Nat := 0
deriving DecidableEq, Repr

/-- The context that wrote a sector of the L1 last, and its store (09_memory_spaces R202): `sl` names an S-lane. -/
structure Writer where
  sl : Bool := false
  ctx : Nat := 0
  wix : Nat := 0
  lane : Nat := 0
  user : Bool := false
  tenant : Nat := 0
  va : Nat := 0
  pc : Nat := 0
deriving DecidableEq, Repr

/-- A line of the L1 (09_memory_spaces R197–R202). Data bytes are held only for software-managed lines; a live copy of
a hardware-coherent line holds the value at the home (R199). See log entry 7 (DEDUCED). -/
structure L1Line where
  fmt : Nat := 0
  cls : Nat := 0
  user : Bool := false
  writable : Bool := false
  tenant : Nat := 0
  valid : Nat := 0
  lease : Sparse Nat := []
  used : Nat := 0
  data : Memory := []
  dirty : Sparse Bool := []
  /-- last writer by sector -/
  writer : Sparse Writer := []
  /-- sectors in error, as a mask (16_events R341) -/
  errs : Nat := 0
deriving DecidableEq, Repr

/-- A 64-byte supervisor record (13_queues R279). -/
abbrev Record := List Byte

/-- A latency-capture unit (15_counters R327). -/
structure Capture where
  cfg : Dword := 0
  min : Dword := 0
  max : Dword := 0
  samples : Dword := 0
  bins : Sparse Nat := []
deriving DecidableEq, Repr

/-- One core (01_package R17; 04_registers R88). -/
structure Core where
  warps : Sparse Warp := []
  sl : SLane := {}
  pick : Bool := false
  chkdef : Bool := false
  trapvec : Va := 0
  svqbase : Dword := 0
  pollint : BitVec 16 := 1024
  leaselen : BitVec 16 := 400
  gateidle : BitVec 32 := 0
  timecmp : Dword := BitVec.allOnes 64
  pmsel : BitVec 4 := 0
  pmcs : Sparse Pmc := []
  capts : Sparse Capture := []
  reserved : Dword := 0
  accs : Sparse Acc := []
  bank : Memory := []
  /-- bytes of the B bank in error (16_events R341) -/
  bankErrs : List Nat := []
  tileTags : Sparse Nat := []
  benches : Sparse Bench := []
  loopq : List Loop := []
  copies : Sparse Copy := []
  ticketGen : BitVec 22 := 0
  quarters : Sparse Quarter := []
  /-- record ring (13_queues R276): the 256 records lie in memory at AREA -/
  head : Byte := 0
  tail : Byte := 0
  count : Nat := 0
  calls : Nat := 0
  held : Sparse Record := []
  /-- slots and records of fronts that wait, stopped, behind their slot's held record, in order (R281) -/
  stalled : List (Nat × Record) := []
  /-- records whose write failed its check, oldest first; the ring takes no more (R277) -/
  failed : List Record := []
  /-- records of stopped fronts whose release waits for their warp's stores (R222, R330): cycle of the fault, slot, record -/
  awaiting : List (Nat × Nat × Record) := []
  /-- records of faults that entered the ring in cycle `freshAt`, each by its slot and lane (16_events R330) -/
  fresh : List (Nat × Record) := []
  freshAt : Nat := 0
  ipiPend : BitVec 64 := 0
  l1 : Sparse L1Line := []
deriving DecidableEq, Repr

/-- A team-mask frame (14_tables R309), with the destination pair of its `TCALL` and the ranks of the parent team's members
by thread of the group (08 R174, R180). -/
structure Frame where
  pframe : Option Nat
  pteam : Byte
  ret : Va
  n : Nat
  entered : Byte
  outst : Byte
  wentry : Sparse (Option Nat)
  d : Nat
  ranks : Sparse Nat := []
deriving DecidableEq, Repr

/-- A sett or job card (13_queues R285). -/
structure Sett where
  rlist : Nat := 0
  doneVa : Nat := 0
  depcnt : Nat := 0
  tenant : Nat := 0
  recs : Nat := 0
  arg : Nat := 0
  lmask : Nat := 0
  gang : Nat := 1
  accs : Nat := 0
  regs : Nat := 1
  warps : Nat := 1
  threads : Nat := 1
  ctl : Nat := 0
  entry : Nat := 0
deriving DecidableEq, Repr

/-- A thread parked in `CTXSV.REQ` (R337): where it stands, its result register, and the length of the instruction. -/
structure Asker where
  core : Nat
  slot : Nat
  lane : Nat
  reg : Nat
  len : Nat
deriving DecidableEq, Repr

/-- A resident or saved group (R27, R279; 12 R251; 14 R312; 16 R328). -/
structure Group where
  core : Nat
  gang : Nat
  index : Nat
  sett : Sett
  doneIa : Nat
  saveArea : Nat := 0
  saveReq : Bool := false
  /-- threads parked in `CTXSV.REQ` for it -/
  askers : List Asker := []
  /-- group slot map: name to physical slot (R253) -/
  slots : Sparse Nat := []
  /-- names whose slot an eviction saved (R89) -/
  slotsSaved : List Nat := []
  /-- warps waiting in `MACQ`, by name, in order of issue (R265) -/
  slotWaits : Sparse (List Nat) := []
  frames : Sparse Frame := []
  /-- warps of the group: exited, saved, evicted -/
  exited : Mask := 0
  saved : Mask := 0
  evicted : Mask := 0
  /-- threads of evicted warps by warp index, as the group's teams and barriers count them (R48, R174) -/
  away : Sparse (Sparse Thread) := []
  lost : Bool := false
  idem : Bool := false
  ending : Option Nat := none
  /-- operation number of the `CTXSV.END` that waits for the end -/
  ender : Option Nat := none
deriving DecidableEq, Repr

/-- What a saved context keeps that its save area has no field for: the destination pairs and ranks of its frames, and per
warp its `SOLO` sections, in-handler bit and debug stop. See log entry 28 (DEDUCED). -/
structure Ghost where
  area : Nat := 0
  frames : Sparse Frame := []
  warps : Sparse Warp := []
deriving DecidableEq, Repr

/-- A gang in being (15_counters R320): its size, latency class, groups ended, and the arrivals counted per die and across
dies. -/
structure Gang where
  size : Nat
  cls : Nat
  members : List (Nat × Nat)
  ended : List Nat := []
  arrived : List Nat := []
  dieCount : Sparse Nat := []
  across : Nat := 0
deriving DecidableEq, Repr

/-- An entry of a queue bank or tip ring (13_queues R291). -/
structure Entry where
  sett : Sett
  card : Bool
  chunk : Bool := false
  ranges : List RangeReg
  doneIa : Nat
  src : Nat
  stamp : Nat
  cluster : Nat
  next : Nat := 0
  upTo : Nat := 0
  /-- number of the lease prepared for it (R292) -/
  lease : Option Nat := none
deriving DecidableEq, Repr

/-- The cluster descriptor (R278). -/
structure Desc where
  tipLog : Nat
  ashift : Nat
  tipIa : Nat
  winIa : Nat
  winVa : Nat
deriving DecidableEq, Repr

/-- An exchange buffer (R298). -/
structure Exch where
  owner : Nat
  blocks : List Nat
  last : Nat
deriving DecidableEq, Repr

/-- One cluster (13_queues R276). See log entry 13 (DESIGN CHOICE). -/
structure Cluster where
  bank : List Entry := []
  tips : List Entry := []
  /-- place of the tip ring that the next spilled entry takes (R278, R291) -/
  tipAt : Nat := 0
  launches : BitVec 58 := 0
  free : Sparse Nat := []
  carve : Nat := 0
  exch : Sparse Exch := []
  donation : Option Nat := none
  desc : Option Desc := none
  running : Bool := false
  aside : List Entry := []
  /-- shipped entries that wait for a place in the bank (R295) -/
  arriving : List Entry := []
  placing : Option Entry := none
  reserved : List Nat := []
  /-- gangs that were refused, and wait for a group end in their search area (R293) -/
  refused : List Entry := []
  reports : List Record := []
  stealAt : Nat := 0
  asked : List Nat := []
  /-- cycle from which the dispatcher may launch again: one group in 16 cycles (R279) -/
  readyAt : Nat := 0
deriving DecidableEq, Repr

/-- A page-table entry (14_tables R302) as a walker holds it. -/
structure Pte where
  tenant : Nat := 0
  sdelta : Int := 0
  frame : Nat := 0
  fmt : Nat := 0
  cls : Nat := 0
  dirty : Bool := false
  acc : Bool := false
  pin : Bool := false
  user : Bool := false
  writable : Bool := false
  present : Bool := false
deriving DecidableEq, Repr

/-- A lease-table entry (R305). -/
structure LeaseEnt where
  ctx : Nat
  first : Nat
  last : Nat
deriving DecidableEq, Repr

/-- One die's tables (R299; 15 R314). -/
structure Die where
  dir : Sparse Byte := []
  leases : List LeaseEnt := []
  /-- walker entry caches: walker to entries by page, with a use stamp -/
  walkers : Sparse (Sparse (Pte × Nat)) := []
  conflict : Dword := 0
  asleep : Bool := false
deriving DecidableEq, Repr

/-- A line in an L2 slice (09_memory_spaces R197–R201; 11 R237, R244). -/
structure SLine where
  pte : Pte
  valid : Nat := 0
  dirty : Nat := 0
  lease : Sparse Nat := []
  /-- holders of requester-side copies, and those whose invalidation is outstanding, as masks by grain unit (R200, R201): bits 0 to 3 the
  dies of this package, bits 4 to 35 the groups of six packages -/
  holders : Sparse Nat := []
  invs : Sparse Nat := []
  lock : Option Nat := none
  lockQ : List Nat := []
  pins : List Nat := []
  used : Nat := 0
  strm : Bool := false
  /-- sectors in error, as a mask (16_events R341) -/
  errs : Nat := 0
deriving DecidableEq, Repr

/-- A requester-side copy (R200). The bytes of one whose home is in this package are the home's until it is invalidated. See log entry 7
(DEDUCED). -/
structure SCopy where
  pte : Pte
  valid : Nat
  /-- the bytes of a line of another package, and its units whose invalidation waits for a lease (R200) -/
  data : Memory := []
  going : List Nat := []
  lease : Sparse Nat := []
  used : Nat := 0
deriving DecidableEq, Repr

/-- A wait-table entry (14_tables R308). -/
structure WaitEnt where
  ia : Nat
  width : Nat
  signed : Bool
  cmp : Nat
  value : Nat
  mask : Nat
  lanes : Mask
  core : Nat
  slot : Nat
  ctx : Nat
  acq : Bool
  scope : Nat
  op : Nat
deriving DecidableEq, Repr

/-- One slice. `pend` holds the writes that wait, in arrival order (R199). -/
structure Slice where
  lines : Sparse SLine := []
  copies : Sparse SCopy := []
  waits : Sparse WaitEnt := []
  results : List (Nat × Nat) := []
  overflow : Dword := 0
  pend : List (Nat × Nat) := []
deriving DecidableEq, Repr

/-- One lane's access of an operation in flight. -/
structure Lane where
  lane : Nat
  va : Nat
  ia : Nat
  size : Nat
  args : List Nat := []
  got : Nat := 0
  ok : Bool := true
  cause : Nat := 0
  info : Nat := 0
  /-- own stores forwarded at issue (R207): byte offset, value -/
  fwd : Sparse Byte := []
deriving DecidableEq, Repr

/-- What an operation in flight does. -/
inductive OpKind where
  | fetch | load | ldx | store | writeBack | stx | red | atom | acas | acas2 | mcas | waitc | wb | wbwait | pref | probe
  | svpop | tcall | push | depsig | mst | io | copy | xinv | rmode | lease
  | inbound
  | done | saved | svdone
deriving DecidableEq, Repr

/-- A leg of an operation to one line: its address, the lanes it serves, whether the core's L1 serves it, what the
slice answered (lease, attributes, the bytes of the line that are not blank), and the older read it merged with (R228). -/
structure Leg where
  ia : Nat
  lanes : List Nat
  l1 : Bool := false
  /-- sent to a requester-side copy (R200) -/
  via : Bool := false
  seen : Bool := false
  done : Bool := false
  expiry : Option Nat := none
  pte : Pte := {}
  snap : Memory := []
  /-- the sectors that the answering slice held, and that are not in error, as a mask -/
  had : Nat := 0
  merged : Option (Nat × Nat) := none
  /-- its page has been invalidated since the home answered: no L1 line is made (R304, R307) -/
  stale : Bool := false
  /-- cycle and tick of its request, and how often it has been sent again (11_atomics R247) -/
  sent : Nat := 0
  sentTick : Nat := 0
  tries : Nat := 0
deriving DecidableEq, Repr

/-- What a load has overwritten that may still be cancelled (R196): the registers, the tags of their blocks, and which were in error. -/
structure Undo where
  writes : List Write
  tags : List (Nat × Nat)
  errs : List Nat
deriving DecidableEq, Repr

/-- An operation in flight (09 R196, R207; 11 R236–R249). `gen` is the residency that issued it, `left` the legs still
out, `stage` how far it has come, `since` and `tick` the cycle and tick of issue, `at_` what a stage needs to keep. -/
structure MemOp where
  kind : OpKind
  core : Nat
  slot : Nat
  gen : Nat
  ctx : Nat
  wix : Nat
  user : Bool
  tenant : Nat
  pc : Nat
  f : Fields
  op : Nat := 0
  one : Bool := false
  lanes : List Lane
  parts : List Leg := []
  visit : Nat := 0
  left : Nat := 0
  at_ : Nat := 0
  stage : Nat := 0
  since : Nat := 0
  tick : Nat := 0
  /-- LEASELEN at issue (15 R323) -/
  lease : Nat := 0
  /-- counted in the unacknowledged-store counters -/
  counted : Bool := true
  failed : Bool := false
  tries : Nat := 0
  /-- the release of an `MCAS` has been made (R244) -/
  freed : Bool := false
  /-- an `MCAS`: its thread and block, the threads still to come, and the masks of those that are done (R242, R243) -/
  block : Nat × Nat := (0, 0)
  todo : List (Nat × Nat) := []
  results : List (Nat × Nat) := []
  /-- an L1 hit that has been written while an earlier load has not passed its check (22 R364) -/
  undo : Option Undo := none
deriving DecidableEq, Repr

/-- The I/O die (17_platform R345–R360). `regs` holds the registers of I/O space that are plain storage, by local
address in units of 8 bytes: MEAS, EXTBUF, NONCE, RPTADDR, IDKEY, filters, routes, PCIe, NVMe, Ultra Ethernet and Dusel
registers, error counters. See log entry 20 (DESIGN CHOICE). -/
structure IoDie where
  regs : Sparse Dword := []
  extgo : Nat := 0
  extDigest : List Byte := []
  rptgo : Bool := false
  errstat : BitVec 1 := 0
  /-- events counted while a route's EN is 0 (R348), by source code -/
  missed : Sparse Nat := []
  /-- messages waiting for room in an S-lane's queue (R334): core, message -/
  msgs : List (Nat × BitVec 40) := []
  /-- posted writes that left the package: port, address, data -/
  sent : List (Nat × Nat × List Byte) := []
  /-- packages of the current Dusel domain (R190, R355) -/
  domain : List Nat := []
  pcieMode : BitVec 2 := 0
  fenced : BitVec 192 := 0
  /-- inbound writes in progress, in order of arrival (R230): ordering domain, operation -/
  domains : List (Nat × Nat) := []
  /-- Ultra Ethernet: receive buffers posted by queue, operations in flight by queue, and completion entries written by queue (R354) -/
  posted : List (Nat × List Byte) := []
  flying : List (Nat × List Byte) := []
  cqDone : Sparse Nat := []
deriving DecidableEq, Repr

/-- How far boot has come (17_platform R344). -/
inductive Boot where
  | before
  | failed (bootStep : Nat)
  | done
deriving DecidableEq, Repr

/-- What an event of the platform brings with it: numbers, a flag and bytes, as the event's meaning reads them. -/
structure EvData where
  a : Nat := 0
  b : Nat := 0
  c : Nat := 0
  flag : Bool := false
  bytes : List Byte := []
deriving DecidableEq, Repr

/-- An event that is due: the cycle, the row of the opcode table, and what it brings. -/
structure Due where
  at_ : Nat
  ev : Instr
  data : EvData := {}
deriving DecidableEq, Repr

/-- The package. -/
structure State where
  part : Part := .iz4
  boot : Boot := .before
  cycle : Nat := 0
  now : Nat := 0
  phase : Nat := 0
  clockStep : Nat := 0
  /-- clock steps that are still to take effect, in order (17_platform R358) -/
  clockCmd : List Nat := []
  lastAdjust : Option Nat := none
  /-- ticks by which the global time is held back (15_counters R322) -/
  hold : Nat := 0
  pkg : Nat := 0
  hbm : Memory := []
  l2 : Memory := []
  flash : Memory := []
  /-- 32-byte pieces of HBM4 in error, by address (16_events R341) -/
  hbmErrs : List Nat := []
  cores : Sparse Core := []
  groups : Sparse Group := []
  gangs : Sparse Gang := []
  ghosts : Sparse Ghost := []
  clusters : Sparse Cluster := []
  dies : Sparse Die := []
  slices : Sparse Slice := []
  ops : Sparse MemOp := []
  io : IoDie := {}
  /-- last arrival on each route (01_package R15): route key, cycle -/
  routes : Sparse Nat := []
  /-- dies that have stepped the clock down for heat (R358) -/
  hot : List Nat := []
  agenda : List Due := []
  /-- what the event that happens now brings -/
  input : EvData := {}
  /-- writes of per-core control registers, which take effect in the next cycle (R335): core, index, value -/
  late : List (Nat × Nat × Dword) := []
  /-- issue units that have not had their turn in this cycle: core, quarter (4 is the S-lane) -/
  units : List (Nat × Nat) := []
  selfCore : Nat := 0
  selfSlot : Nat := 0
  issued : Bool := false
  free : Nat := 0
  nextId : Nat := 0
deriving DecidableEq, Repr

/-- Why the machine stops. -/
inductive Fault where
  /-- Raised by an event that names a core, die, slice, cluster or port that the part does not have (R1). No hardware
  does this; safe. -/
  | absentUnit
deriving DecidableEq, Repr

/-- Why an instruction has no meaning. -/
inductive Refusal where
  /-- Raised by an arm of `exec` whose instruction is not modelled yet; safe. -/
  | notModelled (mnemonic : String)
deriving DecidableEq, Repr

/-- Right after reset (17_platform R344; 04_registers R84, R88; 22 R366): nothing resident, time at 0, and the boot ROM
about to run. Values that the spec does not give are named in log entries 2, 3 and 20. -/
def State.reset : State := { agenda := [{ at_ := 0, ev := .packageReset }] }

end Sys2Proof.Machine
end

