-- ==== Sys2Proof/Machine/Home.lean ====
section
/-! DEFINITION. Addresses, the page table, the slices and the memory behind them (01_package R19; 09_memory_spaces R190 to
R203, R372; 14_tables R301 to R303). -/

namespace Sys2Proof.Machine

/-- What an intermediate address names (R190). -/
inductive Place where
  | here | io | other (pkg : Nat)
deriving DecidableEq, Repr

namespace State

def core (s : State) (c : Nat) : Core := Sparse.get {} s.cores c
def setCore (s : State) (c : Nat) (k : Core) : State := { s with cores := Sparse.put s.cores c k }
def slice (s : State) (n : Nat) : Slice := Sparse.get {} s.slices n
def setSlice (s : State) (n : Nat) (x : Slice) : State := { s with slices := Sparse.put s.slices n x }
def die (s : State) (d : Nat) : Die := Sparse.get {} s.dies d
def setDie (s : State) (d : Nat) (x : Die) : State := { s with dies := Sparse.put s.dies d x }
def op? (s : State) (id : Nat) : Option MemOp := Sparse.get? s.ops id
def setOp (s : State) (id : Nat) (o : MemOp) : State := { s with ops := Sparse.put s.ops id o }
def dropOp (s : State) (id : Nat) : State := { s with ops := Sparse.erase s.ops id }

/-- Put an event on the agenda, after every event due no later. -/
def postWith (s : State) (x : Due) : State := { s with agenda := go s.agenda }
where
  go : List Due → List Due
    | [] => [x]
    | d :: r => if d.at_ ≤ x.at_ then d :: go r else x :: d :: r

/-- See log entry 5 (DESIGN CHOICE). -/
def post (s : State) (at_ : Nat) (ev : Instr) : State := s.postWith { at_, ev }

/-- Put an event first: it is the next thing that happens. -/
def postNow (s : State) (ev : Instr) : State := { s with agenda := { at_ := s.cycle, ev } :: s.agenda }

/-- Put the look at a wait-table entry first, after those of earlier writes (R308). -/
def postWake (s : State) (x : Due) : State := { s with agenda := go s.agenda }
where
  go : List Due → List Due
    | [] => [x]
    | d :: r => match d.ev with
      | .waitcWake _ _ => if d.at_ ≤ x.at_ then d :: go r else x :: d :: r
      | _ => x :: d :: r

end State

/-- IA[63:56]. -/
def iaPkg (ia : Nat) : Nat := ia / 2 ^ 56 % 256
/-- IA[39:0]. -/
def iaLocal (ia : Nat) : Nat := ia % 2 ^ 40
/-- IA[39:38]. -/
def iaDie (ia : Nat) : Nat := ia / 2 ^ 38 % 4
/-- The home slice's number within its die (R19). -/
def iaSliceNo (ia : Nat) : Nat := ia / 512 % 2 ^ 29 % 48
/-- The home slice's global number (R16, R19). -/
def iaSlice (ia : Nat) : Nat := iaDie ia * 48 + iaSliceNo ia
/-- The local page number IA[37:16] (R192). -/
def iaPage (ia : Nat) : Nat := ia / 65536 % 2 ^ 22

/-- The meaning of the package byte (R190). A byte that is reserved names no package. See log entry 14 (DESIGN CHOICE). -/
def place (s : State) (ia : Nat) : Place :=
  let p := iaPkg ia
  if p = 0xFF ∨ p = s.pkg then .here else if p = 0xFE then .io else .other p

/-- An I/O-die register that is plain storage, by its address. -/
def ioReg (s : State) (a : Nat) : Nat := (Sparse.get 0 s.io.regs (a / 8) : Dword).toNat

/-- Where the partition filter lies in I/O space (14_tables R310). -/
def filterBase : Nat := 0x00100000

/-- A tenant that the partition filter lets through: none, or one in a valid entry (14_tables R310). -/
def filterPasses (s : State) (tenant : Nat) : Bool :=
  tenant == 0 || (List.range 64).any fun i =>
    let e := ioReg s (filterBase + 8 * i)
    e / 2 ^ 63 == 1 && e % 65536 == tenant

/-- A Dusel port that carries traffic (17_platform R356, R357): a lane is up and the port is not fenced. -/
def portWorks (s : State) (k : Nat) : Bool :=
  let x := ioReg s (0x08000100 + 64 * k)
  decide (x % 4 ≠ 0) && decide (x / 4 % 2 = 0)

/-- A request to another package finds a way there (R190, R356, R357). See log entry 40 (DEDUCED). -/
def reachable (s : State) (g : Nat) : Bool :=
  let r := ioReg s (0x08001000 + 8 * g)
  s.io.domain.contains g && !s.io.fenced.getLsbD g && decide (r / 2 ^ 63 = 1) &&
  (List.range 24).any fun k => decide (r / 2 ^ k % 2 = 1) && portWorks s k

/-- The port of a request to a package (R356): of those in the mask that work, the first at or after IA[13:9] mod 24, wrapping. -/
def portOf (s : State) (g ia : Nat) : Nat :=
  let r := ioReg s (0x08001000 + 8 * g)
  let first := ia / 512 % 32 % 24
  (((List.range 24).map fun i => (first + i) % 24).find? fun k => decide (r / 2 ^ k % 2 = 1) && portWorks s k).getD first

/-- How an access to another package ends (R190, R193, R356): not present where nothing reaches it, otherwise as that package
answers, which is outside this machine (log entry 14). -/
def farStatus (s : State) (g : Nat) : Nat :=
  if !reachable s g then 0x0A
  else match Config.outsideStatus s.free % 4 with
    | 0 => 0
    | 1 => 0x0A
    | 2 => 0x0B
    | _ => 0x19

/-- The number of a 512-byte line of this package. -/
def lineOf (ia : Nat) : Nat := iaLocal ia / 512

/-- Bytes of a grain unit, by coherence class (R201); 32 on a software-managed page (R202). -/
def grain : Nat → Nat
  | 0 => 32
  | 1 => 128
  | 2 => 512
  | _ => 32

/-- The grain unit of an address within its line. -/
def unitOf (cls ia : Nat) : Nat := iaLocal ia % 512 / grain cls

/-- The sectors of a line that a grain unit covers, as a mask (R201). -/
def unitSectors (cls ia : Nat) : Nat :=
  (2 ^ (grain cls / 32) - 1) * 2 ^ (unitOf cls ia * (grain cls / 32))

/-- A sector's bit. -/
def sectorBit (ia : Nat) : Nat := 2 ^ (iaLocal ia % 512 / 32)

/-- A table-table page's attributes (R301). -/
def tablePte (p : Nat) : Pte := { frame := p, cls := 2, pin := true, writable := true, present := true, dirty := true, acc := true }

/-- Two's complement reading of 16 bits. -/
def signed16 (x : Nat) : Int := if x % 65536 < 32768 then (x % 65536 : Int) else (x % 65536 : Int) - 65536

/-- Format codes that are not reserved (05_number_formats R92). -/
def fmtListed (c : Nat) : Bool :=
  decide (c ≤ 0x0B) || (decide (0x14 ≤ c) && decide (c ≤ 0x18)) || c = 0x1A || c = 0x20

/-- Reserved bits of a page-table entry (R302). -/
def pteReserved (e : Nat) : Bool :=
  e / 2 ^ 80 != 0 || e / 2 ^ 42 % 64 != 0 || e / 2 ^ 6 % 64 != 0

/-- A page-table entry's fields (R302). An entry with a reserved bit set or a table frame is not present. -/
def Pte.ofBits (e : Nat) : Pte :=
  let frame := e / 2 ^ 20 % 2 ^ 22
  { tenant := e / 2 ^ 64 % 65536, sdelta := signed16 (e / 2 ^ 48), frame, fmt := e / 2 ^ 14 % 64,
    cls := e / 2 ^ 12 % 4, dirty := e / 32 % 2 = 1, acc := e / 16 % 2 = 1, pin := e / 8 % 2 = 1, user := e / 4 % 2 = 1,
    writable := e / 2 % 2 = 1, present := e % 2 = 1 && !pteReserved e && decide (1024 ≤ frame) }

/-- Entries of a byte table with keys from `lo`, `n` of them. -/
def Memory.range (m : Memory) (lo n : Nat) : Memory := m.filter fun c => decide (lo ≤ c.1) && decide (c.1 < lo + n)

/-- A byte table without the keys from `lo`, `n` of them. -/
def Memory.without (m : Memory) (lo n : Nat) : Memory := m.filter fun c => !(decide (lo ≤ c.1) && decide (c.1 < lo + n))

/-- A byte table with the keys from `lo`, `n` of them, taken from `src` at the same distance from `from_`. -/
def Memory.copyIn (m : Memory) (lo n : Nat) (src : Memory) (from_ : Nat) : Memory :=
  (Memory.range src from_ n).foldl (fun m c => Memory.write m (c.1 - from_ + lo) c.2) (Memory.without m lo n)

/-- The line of this package, if its home slice holds it. -/
def sline? (s : State) (ia : Nat) : Option SLine := Sparse.get? (s.slice (iaSlice ia)).lines (lineOf ia)

def setLine (s : State) (ia : Nat) (l : SLine) : State :=
  let x := s.slice (iaSlice ia)
  s.setSlice (iaSlice ia) { x with lines := Sparse.put x.lines (lineOf ia) l }

/-- A byte of the page table as its home holds it: in its slice, or in the frame equal to its page number (R301). -/
def tableByte (s : State) (d a : Nat) : Byte :=
  let ia := d * 2 ^ 38 + a
  match sline? s ia with
  | some l => if l.valid &&& sectorBit ia = 0 then Memory.read s.hbm ia else Memory.read s.l2 ia
  | none => Memory.read s.hbm ia

/-- The 128 bits of an entry of die `d`. -/
def tableBits (s : State) (d p : Nat) : Nat := leBytes ((List.range 16).map fun i => tableByte s d (16 * p + i))

/-- The entry of a page, read from the table itself (R301, R302). -/
def pteAt (s : State) (d p : Nat) : Pte := if p < 1024 then tablePte p else Pte.ofBits (tableBits s d p)

/-- Where a page's byte lies in HBM4: die and PA (R192). -/
def hbmAddr (d : Nat) (e : Pte) (ia : Nat) : Nat := d * 2 ^ 38 + e.frame * 65536 + ia % 65536

/-- The value that a location of this package holds at its home (R218, R372). -/
def homeByte (s : State) (ia : Nat) : Byte :=
  let a := iaLocal ia
  match sline? s ia with
  | some l => if l.valid &&& sectorBit ia = 0 then Memory.read s.hbm (hbmAddr (iaDie ia) l.pte ia) else Memory.read s.l2 a
  | none =>
    let e := pteAt s (iaDie ia) (iaPage ia)
    if e.present then Memory.read s.hbm (hbmAddr (iaDie ia) e ia) else Memory.blank

/-- `n` bytes at the home. -/
def homeBytes (s : State) (ia : Nat) (n : Nat) : List Byte := (List.range n).map fun i => homeByte s (ia + i)

/-- A number of `n` bytes at the home (R7). -/
def homeNat (s : State) (ia n : Nat) : Nat := leBytes (homeBytes s ia n)

/-- The requesting context as the memory-side checks see it (R193). -/
structure Who where
  user : Bool
  tenant : Nat
deriving DecidableEq, Repr

/-- The checks of R193, in order: the cause, and RFMT for a reserved format. -/
def pteCheck (e : Pte) (w : Who) (write : Bool) : Option Nat :=
  if !e.present || !fmtListed e.fmt then some 0x0A
  else if w.user && e.tenant != 0 && e.tenant != w.tenant then some 0x19
  else if w.user && !e.user then some 0x0B
  else if write && !e.writable then some 0x0B
  else none

/-- A walker's cached entry of a page, if it holds one. -/
def walkerHas (s : State) (d p : Nat) : Option Pte :=
  (Sparse.get? (Sparse.get [] (s.die d).walkers (p % 4)) p).map (·.1)

/-- The oldest key of a walker cache. -/
def oldestKey : Sparse (Pte × Nat) → Option (Nat × Nat)
  | [] => none
  | (k, (_, t)) :: r =>
    match oldestKey r with
    | some (k', t') => if t' < t then some (k', t') else some (k, t)
    | none => some (k, t)

/-- Cache an entry in its walker, dropping the least recently used of 512 (R303), and set its directory bit.
See log entry 9 (DESIGN CHOICE). -/
def cacheEntry (s : State) (d p : Nat) (e : Pte) : State :=
  let x := s.die d
  let w := Sparse.get [] x.walkers (p % 4)
  let w := if w.length < 512 ∨ (Sparse.get? w p).isSome then w
           else match oldestKey w with
             | some (k, _) => Sparse.erase w k
             | none => w
  let w := Sparse.put w p (e, s.cycle)
  s.setDie d { x with
    walkers := Sparse.put x.walkers (p % 4) w,
    dir := Sparse.put x.dir (p / 32) (Sparse.get 0 x.dir (p / 32) ||| BitVec.ofNat 8 (2 ^ (p % 4))) }

/-- Walk a page (R192, R303): its entry, whether the walker missed, and the state with the entry cached. Table pages are
not walked (R301). -/
def walk (s : State) (d p : Nat) : Pte × Bool × State :=
  if p < 1024 then (tablePte p, false, s)
  else match walkerHas s d p with
    | some e => (e, false, cacheEntry s d p e)
    | none => let e := pteAt s d p; (e, true, cacheEntry s d p e)

/-- The attributes an access to `ia` is checked against (R193): those of the line when it is present, otherwise the
walker's. The flag tells a walker miss. -/
def attrs (s : State) (ia : Nat) : Pte × Bool × State :=
  match sline? s ia with
  | some l => (l.pte, false, s)
  | none => walk s (iaDie ia) (iaPage ia)

/-- A page that failed is one of a reserved format (05 R92; 09 R195, RFMT). -/
def rfmtAt (s : State) (ia cause : Nat) : Bool :=
  let e := (attrs s ia).1
  cause == 0x0A && place s ia == .here && decide (iaDie ia < Config.dieCount s.part) && e.present && !fmtListed e.fmt

/-- The latest lease on a line that is still live. -/
def anyLease (l : Sparse Nat) (now : Nat) : Bool := l.any fun p => decide (now < p.2)

/-- The dies that hold a requester-side copy of some unit of a line, as a mask. -/
def SLine.held (l : SLine) : Nat := l.holders.foldl (fun m p => Nat.lor m p.2) 0

/-- A line that a slice may evict: no live lease, no lock, no pin, no sector in error (R199, R244; 16_events R341). -/
def SLine.evictable (l : SLine) (now : Nat) : Bool :=
  !anyLease l.lease now && l.lock.isNone && l.lockQ.isEmpty && l.pins.isEmpty && l.errs = 0

/-- The set of a line in its slice (R197). -/
def setOf (line : Nat) : Nat := line % 2 ^ 29 / 48 % 1536

/-- Sectors of a mask. -/
def sectorsOf (m : Nat) : List Nat := (List.range 16).filter fun i => m / 2 ^ i % 2 = 1

/-- Take a die out of the masks of some units. -/
def clearDie (m : Sparse Nat) (d : Nat) (units : List Nat) : Sparse Nat :=
  (m.map fun p => if units.contains p.1 && p.2 / 2 ^ d % 2 = 1 then (p.1, p.2 - 2 ^ d) else p).filter fun p => p.2 != 0

/-- The line of this package of a requester-side copy's key, if its home slice holds it; a key of 2^31 and more is of another package. -/
def copyHome? (s : State) (key : Nat) : Option SLine := if key < 2 ^ 31 then sline? s (key * 512) else none

/-- Take the requester-side copy of a line out of a slice, and its die out of the home's record (R200). -/
def eraseCopy (s : State) (n line : Nat) : State :=
  let x := s.slice n
  let s := s.setSlice n { x with copies := Sparse.erase x.copies line }
  match copyHome? s line with
  | some l => setLine s (line * 512) { l with holders := clearDie l.holders (n / 48) (List.range 16), invs := clearDie l.invs (n / 48) (List.range 16) }
  | none => s

/-- Something leaves the package: by port, with an address and bytes. See log entry 14 (DESIGN CHOICE). -/
def sendOutside (s : State) (port addr : Nat) (bs : List Byte) : State := { s with io := { s.io with sent := s.io.sent ++ [(port, addr, bs)] } }

/-- Probe the packages of group `i` for a line, with the tenant of its tag (R200; 14_tables R310). See log entry 14 (DESIGN CHOICE). -/
def probeGroup (s : State) (i ia tenant : Nat) : State := sendOutside s (2048 + i) (ia / 512 * 512) (toBytes 2 tenant)

/-- Write a line's dirty sectors to HBM4 at the frame its tag names, and drop it, and its requester-side copies with it (R304, R372); a
sector in error leaves its bytes in error. See log entry 7 (DEDUCED). -/
def dropLine (s : State) (line : Nat) : State :=
  let ia := line * 512
  match sline? s ia with
  | none => s
  | some l =>
    let s := ((List.range 4).filter fun d => l.held / 2 ^ d % 2 = 1).foldl (fun s d => eraseCopy s (48 * d + iaSliceNo ia) line) s
    let s := ((List.range 32).filter fun i => l.held / 2 ^ (4 + i) % 2 = 1).foldl (fun s i => probeGroup s i ia l.pte.tenant) s
    let hbm := (sectorsOf l.dirty).foldl
      (fun h i => Memory.copyIn h (hbmAddr (iaDie ia) l.pte (ia + 32 * i)) 32 s.l2 (ia + 32 * i)) s.hbm
    let piece (i : Nat) : Nat := hbmAddr (iaDie ia) l.pte (ia + 32 * i) / 32
    let clean := (sectorsOf l.dirty).map piece
    let bad := ((sectorsOf l.errs).filter fun i => l.dirty / 2 ^ i % 2 = 1).map piece
    let x := s.slice (iaSlice ia)
    { (s.setSlice (iaSlice ia) { x with lines := Sparse.erase x.lines line }) with
      hbm, l2 := Memory.without s.l2 ia 512, hbmErrs := (s.hbmErrs.filter fun a => !clean.contains a) ++ bad }

/-- The line of a set that replacement takes (R197, R199): marked first to evict, else least recently used. -/
def victim (now : Nat) : Sparse SLine → Nat → Option (Nat × Nat)
  | [], _ => none
  | (k, l) :: r, set =>
    let rest := victim now r set
    if setOf k = set ∧ l.evictable now then
      let age := if l.strm then 0 else l.used + 1
      match rest with
      | some (k', a') => if a' < age then some (k', a') else some (k, age)
      | none => some (k, age)
    else rest

/-- The requester-side copy of a set that replacement takes: of those without a live lease the least recently used (R197, R199). -/
def victimCopy (now : Nat) : Sparse SCopy → Nat → Option (Nat × Nat)
  | [], _ => none
  | (k, c) :: r, set =>
    let rest := victimCopy now r set
    if setOf k = set ∧ !anyLease c.lease now then
      match rest with
      | some (k', a') => if a' < c.used + 1 then some (k', a') else some (k, c.used + 1)
      | none => some (k, c.used + 1)
    else rest

/-- Have a free way in a set of a slice (R197): the 16 ways hold home lines and requester-side copies; none when every way is
leased (R199 step 5). -/
def makeRoom (s : State) (n set : Nat) : Option State :=
  let x := s.slice n
  if (x.lines.filter fun p => setOf p.1 = set).length + (x.copies.filter fun p => setOf p.1 = set).length < 16 then some s
  else match victim s.now x.lines set, victimCopy s.now x.copies set with
    | some (k, a), some (k', a') => some (if a' < a then eraseCopy s n k' else dropLine s k)
    | some (k, _), none => some (dropLine s k)
    | none, some (k', _) => some (eraseCopy s n k')
    | none, none => none

/-- Have the line of `ia` in its slice with the attributes `e`, evicting one if its set is full; none when every way is
leased (R199 step 5). Sets the directory bit of its quadrant (R303). -/
def ensureLine (s : State) (ia : Nat) (e : Pte) : Option State :=
  match sline? s ia with
  | some l => some (setLine s ia { l with used := s.cycle })
  | none =>
    (makeRoom s (iaSlice ia) (setOf (lineOf ia))).map fun s =>
      let s := setLine s ia { pte := e, used := s.cycle }
      let d := iaDie ia
      let y := s.die d
      let t := iaPage ia / 32
      s.setDie d { y with
        dir := Sparse.put y.dir t (Sparse.get 0 y.dir t ||| BitVec.ofNat 8 (2 ^ (4 + iaSliceNo ia / 12))) }

/-- Bring the grain unit of `ia` into its line, which is present (R201). -/
def fillUnit (s : State) (ia : Nat) : State :=
  match sline? s ia with
  | none => s
  | some l =>
    let need := (sectorsOf (unitSectors l.pte.cls ia)).filter fun i => l.valid / 2 ^ i % 2 = 0
    let base := lineOf ia * 512
    let l2 := need.foldl
      (fun m i => Memory.copyIn m (base + 32 * i) 32 s.hbm (hbmAddr (iaDie ia) l.pte (base + 32 * i))) s.l2
    let errs := (need.filter fun i => s.hbmErrs.contains (hbmAddr (iaDie ia) l.pte (base + 32 * i) / 32)).foldl (fun m i => m ||| 2 ^ i) l.errs
    setLine { s with l2 } ia { l with valid := l.valid ||| unitSectors l.pte.cls ia, errs }

/-- Whether the slice already holds the sectors of the unit of `ia`. -/
def unitPresent (s : State) (ia : Nat) : Bool :=
  match sline? s ia with
  | none => false
  | some l => l.valid &&& unitSectors l.pte.cls ia = unitSectors l.pte.cls ia

/-- Entries of a slice's wait table whose word a write of `n` bytes at `ia` touches, in ascending index (R248, R308). -/
def touched (x : Slice) (ia n : Nat) : List Nat :=
  (x.waits.filter fun p =>
    decide (iaLocal p.2.ia < iaLocal ia + n) && decide (iaLocal ia < iaLocal p.2.ia + p.2.width / 8)).map (·.1)

/-- The wait-table entries that a write of `n` bytes at `ia` touches are re-evaluated next, on the word as this write left it
(R248, R308). -/
def wakeTouched (s : State) (ia n : Nat) : State :=
  let x := s.slice (iaSlice ia)
  (touched x ia n).foldl (fun s i =>
    match Sparse.get? x.waits i with
    | some e => s.postWake { at_ := s.cycle, ev := .waitcWake (iaSlice ia) i, data := { a := homeNat s e.ia (e.width / 8) } }
    | none => s) s

/-- The bytes of a write that lie in one line of this package, at its home (R199, R218). The line is filled first. A sector that is written
whole is no longer in error (16_events R341). -/
def homePut (s : State) (ia : Nat) (bs : List Byte) : State :=
  match sline? s ia with
  | none => s
  | some _ =>
    let s := (sectorsOf (2 ^ 16 - 1)).foldl (fun s i =>
      let a := lineOf ia * 512 + 32 * i
      if decide (a < iaLocal ia + bs.length) && decide (iaLocal ia < a + 32) then fillUnit s a else s) s
    match sline? s ia with
    | none => s
    | some l =>
      let dirty := (List.range bs.length).foldl (fun m i => m ||| sectorBit (ia + i)) l.dirty
      let whole (i : Nat) : Bool :=
        decide (iaLocal ia ≤ lineOf ia * 512 + 32 * i) && decide (lineOf ia * 512 + 32 * i + 32 ≤ iaLocal ia + bs.length)
      let errs := if l.errs = 0 then 0 else ((sectorsOf l.errs).filter fun i => !whole i).foldl (fun m i => m ||| 2 ^ i) 0
      setLine { s with l2 := Memory.writeAll s.l2 (iaLocal ia) bs } ia { l with dirty, errs }

/-- Perform a write of bytes that lie in one line of this package, at its home (R199, R218). -/
def homeWrite (s : State) (ia : Nat) (bs : List Byte) : State :=
  if (sline? s ia).isNone then s else wakeTouched (homePut s ia bs) ia bs.length

/-- Perform one write of bytes that need not stand side by side, as a merge by byte mask is (R203): who waits for a word sees all of them
(11 R248). -/
def homeMerge (s : State) (bs : List (Nat × Byte)) : State :=
  let t := bs.foldl (fun s b => homePut s b.1 [b.2]) s
  match bs.head? with
  | none => s
  | some b =>
    let n := iaSlice b.1
    let spans (e : WaitEnt) : Bool := bs.any fun b => decide (iaLocal e.ia ≤ iaLocal b.1) && decide (iaLocal b.1 < iaLocal e.ia + e.width / 8)
    ((t.slice n).waits.filter fun p => spans p.2).foldl (fun s p =>
      s.postWake { at_ := s.cycle, ev := .waitcWake n p.1, data := { a := homeNat s p.2.ia (p.2.width / 8) } }) t

/-- The address of the page-table entry of the page of `ia` (R301). -/
def entryIa (ia : Nat) : Nat := iaDie ia * 2 ^ 38 + 16 * iaPage ia

/-- The entry of a page must have A set, or A and D (R193, R302). -/
def markNeeded (s : State) (ia : Nat) (dirty : Bool) : Bool :=
  let e := pteAt s (iaDie ia) (iaPage ia)
  decide (1024 ≤ iaPage ia) && e.present && !(e.acc && (e.dirty || !dirty))

/-- Set bits of the first byte of a page-table entry (A is bit 4, D bit 5; R193, R302), and keep the copies of the walker
and of the line in step. See log entry 9 (DESIGN CHOICE). -/
def markPage (s : State) (ia : Nat) (dirty : Bool) : State :=
  let d := iaDie ia
  let p := iaPage ia
  if !markNeeded s ia dirty then s
  else
      let t := entryIa ia
      match ensureLine s t (tablePte (16 * p / 65536)) with
      | none => s
      | some s =>
        let b := tableByte s d (16 * p) ||| (if dirty then 0x30 else 0x10)
        let s := homeWrite s t [b]
        match walkerHas s d p with
        | some e' => cacheEntry s d p { e' with acc := true, dirty := e'.dirty || dirty }
        | none => s

/-- Coordinates of a core or slice within its die (R16). -/
def coreX (c : Nat) : Nat := 2 * (c % 48 / 4 % 4) + c % 48 % 4 % 2
def coreY (c : Nat) : Nat := 2 * (c % 48 / 16) + c % 48 % 4 / 2

def absDiff (a b : Nat) : Nat := if a ≤ b then b - a else a - b
def clamp (lo hi x : Nat) : Nat := max lo (min hi x)

/-- Bridges and horizontal hops from one die's position to another's, by the fixed routes (R15): rules 1 to 5. -/
def hops (p : Part) (fromDie fx fy toDie tx ty : Nat) : Nat × Nat :=
  let y := clamp 1 4 fy
  let east := absDiff fx 7 + absDiff fy y
  let west := fx + absDiff fy y
  if fromDie = toDie then (0, absDiff fx tx + absDiff fy ty)
  else match p with
    | .iz2 => (1, (if fromDie = 0 then east + tx else west + absDiff tx 7) + absDiff y ty)
    | .iz4 =>
      if toDie = (fromDie + 1) % 4 then (1, east + tx + absDiff y ty)
      else if fromDie = (toDie + 1) % 4 then (1, west + absDiff tx 7 + absDiff y ty)
      else (2, east + 7 + tx + absDiff y ty)

/-- Half of the figure for a home slice in another package (R24, R375): 700 to 1 100 ticks; the model takes the lower
bound in cycles, and the free delay covers the rest. -/
def pkgHalf (s : State) : Nat := 350 * Config.freq s.clockStep / 10

/-- The number by which the requests of another package are told from those of a core (17_platform R355). -/
def farCore (n : Nat) : Nat := 300 + n

/-- Outward part of an access from a core to a slice of this package (R375). See log entry 43 (DESIGN CHOICE). -/
def outward (s : State) (c n : Nat) : Nat :=
  if 300 ≤ c then pkgHalf s else
  let (b, h) := hops s.part (c / 48) (coreX c) (coreY c) (n / 48) (coreX n) (coreY n)
  26 + 35 * b + 2 * h

/-- Return part (R375). See log entry 43 (DESIGN CHOICE). -/
def inward (s : State) (c n : Nat) : Nat :=
  if 300 ≤ c then pkgHalf s else
  let (b, h) := hops s.part (n / 48) (coreX n) (coreY n) (c / 48) (coreX c) (coreY c)
  26 + 35 * b + 2 * h

/-- Hops between a core and the I/O bridge router of its routes (R15 rules 6 and 7, R375). -/
def ioHops (c : Nat) : Nat := absDiff (coreX c) (clamp 2 5 (coreX c)) + absDiff (coreY c) 5

/-- Send an event, with what it brings, along a route: it arrives no sooner than the unloaded time, later by a free delay, and never before
the event sent earlier on the same route (R15, R24, R375). See log entry 4 (DESIGN CHOICE). -/
def sendOn (s : State) (route unloaded : Nat) (ev : Instr) (data : EvData := {}) : State :=
  let due := s.cycle + unloaded + Config.extraDelay s.free
  let due := max due (Sparse.get 0 s.routes route)
  ({ s with free := s.free + 1, routes := Sparse.put s.routes route due }).postWith { at_ := due, ev, data }

/-- Route keys: core to slice, slice to core, core to I/O die and back, and to other packages. -/
def routeOut (c n : Nat) : Nat := c * 1024 + n
def routeBack (c n : Nat) : Nat := 1000000 + c * 1024 + n
def routeIo (c : Nat) : Nat := c * 1024 + 1000
def routeIoBack (c : Nat) : Nat := 1000000 + c * 1024 + 1000
def routeSlices (a b : Nat) : Nat := 6000000 + a * 1024 + b
/-- A request to another package, and its reply, take the route of their port (17_platform R356). -/
def routePkg (c p port : Nat) : Nat := 10000000 + (c * 256 + p) * 32 + port
def routePkgBack (c p port : Nat) : Nat := 20000000 + (c * 256 + p) * 32 + port

/-- The grain units that `n` bytes at an address touch, in its line. -/
def unitsOver (cls ia n : Nat) : List Nat :=
  let o := ia % 512
  (List.range 16).filter fun u => decide (grain cls * u < o + n) && decide (o < grain cls * u + grain cls)

/-- The page that an `RMODE` locks (14 R307): from the time it comes to the page until the page has switched. -/
def MemOp.lockedPage (o : MemOp) : Option Nat :=
  if o.kind = .rmode ∧ o.at_ ≠ 0 then (o.todo.head?).map fun p => iaLocal p.1 / 65536 else none

/-- The line of an address is locked by another operation (11 R244; 14 R307). -/
def lockedFor (s : State) (ia id : Nat) : Bool :=
  (s.ops.any fun p => p.1 != id && p.2.lockedPage == some (iaLocal ia / 65536)) ||
  (match sline? s ia with
   | some l => match l.lock with
     | some j => j != id
     | none => false
   | none => false)

/-- Travel time between two slices (R375's outward part between their routers). See log entry 43 (DESIGN CHOICE). -/
def sliceTrip (s : State) (a b : Nat) : Nat :=
  let (br, h) := hops s.part (a / 48) (coreX a) (coreY a) (b / 48) (coreX b) (coreY b)
  26 + 35 * br + 2 * h

/-- Send the invalidations of the requester-side copies of the units that `n` bytes touch, once for each unit and holder (R200, R201): the
packages of a group answer after a free delay. See log entry 14 (DESIGN CHOICE). -/
def invalidate (s : State) (ia n : Nat) : State :=
  match sline? s ia with
  | none => s
  | some l =>
    ((unitsOver l.pte.cls ia n).eraseDups).foldl (fun s u =>
      let new := (List.range 36).filter fun d => Sparse.get 0 l.holders u / 2 ^ d % 2 = 1 && Sparse.get 0 l.invs u / 2 ^ d % 2 = 0
      if new.isEmpty then s
      else
        let s := match sline? s ia with
          | some l => setLine s ia { l with invs := Sparse.put l.invs u (Sparse.get 0 l.holders u) }
          | none => s
        new.foldl (fun s d =>
          if 4 ≤ d then
            ({ (probeGroup s (d - 4) ia l.pte.tenant) with free := s.free + 1 } : State).postWith
              { at_ := s.cycle + 2 * pkgHalf s + Config.extraDelay s.free, ev := .requesterCopyInvalidation (d * 48) (lineOf ia), data := { a := u } }
          else sendOn s (routeSlices (iaSlice ia) (d * 48 + iaSliceNo ia)) (sliceTrip s (iaSlice ia) (d * 48 + iaSliceNo ia))
            (.requesterCopyInvalidation (d * 48 + iaSliceNo ia) (lineOf ia)) { a := u }) s) s

/-- The setting of A or D of a page waits: its entry's line has a live lease or a requester-side copy, is locked by
another operation, or finds every way of its set leased (R302; 09_memory_spaces R199, R236). See log entry 9 (DESIGN CHOICE). -/
def markWaits (s : State) (ia id : Nat) (dirty : Bool) : Bool :=
  markNeeded s ia dirty && (lockedFor s (entryIa ia) id || (match sline? s (entryIa ia) with
    | some l => l.held != 0 || anyLease l.lease s.now
    | none => (ensureLine s (entryIa ia) (tablePte (16 * iaPage ia / 65536))).isNone))

/-- While A or D of a page waits, the requester-side copies of its entry's line are invalidated (R200, R302). -/
def askMark (s : State) (ia id : Nat) (dirty : Bool) : State :=
  if markWaits s ia id dirty then invalidate s (entryIa ia / 512 * 512) 512 else s

/-- Bytes `n` from an address, line by line: address and length. -/
def lineSpans : Nat → Nat → Nat → List (Nat × Nat)
  | 0, _, _ => []
  | f + 1, ia, n => if n = 0 then [] else
    let k := min n (512 - ia % 512)
    (ia, k) :: lineSpans f (ia + k) (n - k)

/-- A write that the hardware itself makes of `n` bytes must wait at the home (R199 step 3, R244, R302): a live lease or a
requester-side copy of a unit, a lock, A or D of the page, or a set whose ways are all leased. See log entry 8 (DESIGN CHOICE). -/
def hwBlocked (s : State) (ia n : Nat) : Bool :=
  place s ia == .here && decide (iaDie ia < Config.dieCount s.part) && (lineSpans (n / 512 + 2) ia n).any fun sp =>
    lockedFor s sp.1 s.nextId || markWaits s sp.1 s.nextId true ||
    (match sline? s sp.1 with
     | some l => (unitsOver l.pte.cls sp.1 sp.2).any fun u => Sparse.get 0 l.holders u != 0 || decide (s.now < Sparse.get 0 l.lease u)
     | none => let e := pteAt s (iaDie sp.1) (iaPage sp.1); e.present && (ensureLine s sp.1 e).isNone)

/-- What such a write waits for is asked for: the requester-side copies of its lines are invalidated (R200). -/
def hwAsk (s : State) (ia n : Nat) : State :=
  if place s ia ≠ .here ∨ Config.dieCount s.part ≤ iaDie ia then s
  else (lineSpans (n / 512 + 2) ia n).foldl (fun s sp => askMark (invalidate s sp.1 sp.2) sp.1 s.nextId true) s

/-- A word written whole by the hardware itself at a home, with the checks of R193 for `w`: the cause, or the state with the bytes
written; to HBM4 where no way of the set is free. The bytes lie in one line. See log entry 8 (DESIGN CHOICE). -/
def hwWrite (s : State) (ia : Nat) (w : Who) (bs : List Byte) : Except Nat State :=
  if place s ia ≠ .here then .error 0x0A
  else if Config.dieCount s.part ≤ iaDie ia then .error 0x08
  else
    let (e, _, s) := attrs s ia
    match pteCheck e w true with
    | some c => .error c
    | none =>
      let s := markPage s ia true
      match ensureLine s ia e with
      | none => .ok (wakeTouched { s with hbm := Memory.writeAll s.hbm (hbmAddr (iaDie ia) e ia) bs } ia bs.length)
      | some s => .ok (homeWrite s ia bs)

/-- The walk of a read that the hardware itself makes: a page that is present is accessed (R193). See log entry 8 (DESIGN CHOICE). -/
def hwTouch (s : State) (ia : Nat) : State :=
  if place s ia ≠ .here ∨ Config.dieCount s.part ≤ iaDie ia ∨ (sline? s ia).isSome then s
  else
    let (e, _, t) := walk s (iaDie ia) (iaPage ia)
    if e.present then markPage t ia false else t

/-- Send a request from a core towards the home of `ia`, performed `extra` cycles after it arrives. See log entry 43 (DESIGN CHOICE). -/
def sendOut (s : State) (c ia : Nat) (ev : Instr) (data : EvData := {}) (extra : Nat := 0) : State :=
  match place s ia with
  | .here => sendOn s (routeOut c (iaSlice ia)) (extra + outward s c (iaSlice ia)) ev data
  | .io => sendOn s (routeIo c) (extra + 75 + 2 * ioHops c) ev data
  | .other p => sendOn s (routePkg c p (portOf s p ia)) (extra + pkgHalf s) ev data

/-- Send a reply from the home of `ia` to a core, after `extra` cycles. See log entry 43 (DESIGN CHOICE). -/
def sendBack (s : State) (c ia extra : Nat) (ev : Instr) (data : EvData := {}) : State :=
  match place s ia with
  | .here => sendOn s (routeBack c (iaSlice ia)) (extra + inward s c (iaSlice ia)) ev data
  | .io => sendOn s (routeIoBack c) (extra + 75 + 2 * ioHops c) ev data
  | .other p => sendOn s (routePkgBack c p (portOf s p ia)) (extra + pkgHalf s) ev data

end Sys2Proof.Machine
end

