-- ==== Sys2Proof/Machine/Ops.lean ====
section
/-! DEFINITION. The named operations over registers, threads, fronts and records; taking an exception and returning from
one; and the issue of an instruction with the checks every instruction shares (02_execution_model, 03_encoding R69 to R82,
04_registers, 13_queues R279 to R281, 16_events R329 to R336). -/

namespace Sys2Proof.Machine

/-! ### Sorting -/

/-- Insert by a key, after the elements of the same key. -/
def insertOn {α : Type} (key : α → Nat) (x : α) : List α → List α
  | [] => [x]
  | y :: r => if key x < key y then x :: y :: r else y :: insertOn key x r

/-- Sort by a key; equal keys keep their order. -/
def sortOn {α : Type} (key : α → Nat) (l : List α) : List α := l.foldl (fun acc x => insertOn key x acc) []

/-! ### Lanes and masks -/

def lanes32 : List Nat := List.range 32
def hasLane (m : Mask) (l : Nat) : Bool := m.getLsbD l
def laneBit (l : Nat) : Mask := BitVec.ofNat 32 (2 ^ l)
def maskOf (ls : List Nat) : Mask := ls.foldl (fun m l => m ||| laneBit l) 0
def lanesOf (m : Mask) : List Nat := lanes32.filter (hasLane m)

/-! ### The executing core and warp -/

namespace State

def warpAt (s : State) (c k : Nat) : Warp := Sparse.get {} (s.core c).warps k
def setWarpAt (s : State) (c k : Nat) (w : Warp) : State :=
  s.setCore c { s.core c with warps := Sparse.put (s.core c).warps k w }
def warp (s : State) : Warp := s.warpAt s.selfCore s.selfSlot
def setWarp (s : State) (w : Warp) : State := s.setWarpAt s.selfCore s.selfSlot w
/-- The executing warp is the S-lane (R51). -/
def onSl (s : State) : Bool := s.selfSlot == 64
/-- Name the warp that acts. -/
def select (s : State) (c k : Nat) : State := { s with selfCore := c, selfSlot := k, issued := false }
/-- The issue unit's turn is taken. -/
def taken (s : State) : State := { s with issued := true }
def group? (s : State) (ctx : Nat) : Option Group := Sparse.get? s.groups ctx
def setGroup (s : State) (ctx : Nat) (g : Group) : State := { s with groups := Sparse.put s.groups ctx g }
def cluster (s : State) (g : Nat) : Cluster := Sparse.get {} s.clusters g
def setCluster (s : State) (g : Nat) (x : Cluster) : State := { s with clusters := Sparse.put s.clusters g x }

end State

/-! ### Threads -/

namespace Warp

def thread (w : Warp) (l : Nat) : Thread := Sparse.get {} w.threads l
def setThread (w : Warp) (l : Nat) (t : Thread) : Warp := { w with threads := Sparse.put w.threads l t }
def live (w : Warp) (l : Nat) : Bool := (w.thread l).life == .live
def liveLanes (w : Warp) : List Nat := lanes32.filter w.live
/-- The lowest live thread of a lane's quad (R29). -/
def leader (w : Warp) (l : Nat) : Option Nat := ((List.range 4).map fun i => l / 4 * 4 + i).find? w.live
/-- A helper thread (R29). -/
def helper (w : Warp) (l : Nat) : Bool := !w.single && !w.live l && (w.leader l).isSome
/-- The lanes that are active when the live threads of `m` execute, helpers among them (R29), ascending. -/
def activeOf (w : Warp) (m : Mask) : List Nat :=
  lanes32.filter fun l =>
    (w.live l && hasLane m l) ||
    (w.helper l && (match w.leader l with | some j => hasLane m j | none => false))
def front? (w : Warp) : Option Front := w.cur.bind fun i => w.fronts[i]?
/-- The lanes of the current front. -/
def frontMask (w : Warp) : Mask := match w.front? with | some f => f.lanes | none => 0
def active (w : Warp) : List Nat := w.activeOf w.frontMask
/-- The lowest lane of a front. -/
def lowest (m : Mask) : Nat := (lanesOf m).headD 0
/-- The program counter of the current front (R33). -/
def pc (w : Warp) : Va := (w.thread (lowest w.frontMask)).pc
/-- The innermost team, and the current entry, of the current front (R33). -/
def team (w : Warp) : Byte := (w.thread (lowest w.frontMask)).team
def entry (w : Warp) : Option Nat := (w.thread (lowest w.frontMask)).entry

/-! ### Registers and predicates (R84 to R86) -/

def reg (w : Warp) (n l : Nat) : Word := Sparse.get 0 w.regs (n * 32 + l)
def sreg (w : Warp) (n : Nat) : Word := Sparse.get 0 w.sregs n
def pred (w : Warp) (p l : Nat) : Bool := p == 7 || (w.thread l).preds.getLsbD p
/-- Discard the operand-buffer entries of a register (R78). -/
def unbuffer (w : Warp) (n : Nat) : Warp := { w with opbuf := w.opbuf.filter fun e => e.reg != n }
/-- WriteReg (R91): the block's tag is cleared (R86) and the operand buffer forgets the register (R78); the data are no longer in error
(16_events R341). -/
def setReg (w : Warp) (n l : Nat) (x : Word) : Warp :=
  { (w.unbuffer n) with regs := Sparse.set 0 w.regs (n * 32 + l) x, tags := Sparse.erase w.tags (n / 8)
                        regErrs := w.regErrs.filter (· != n * 32 + l) }
def setSreg (w : Warp) (n : Nat) (x : Word) : Warp :=
  { w with sregs := Sparse.set 0 w.sregs n x, sregErrs := w.sregErrs.filter (· != n) }
/-- A write to p7 is discarded (R64). -/
def setPred (w : Warp) (p l : Nat) (x : Bool) : Warp :=
  if p < 7 then
    let t := w.thread l
    w.setThread l { t with preds := if x then t.preds ||| BitVec.ofNat 7 (2 ^ p)
                                    else t.preds &&& ~~~ BitVec.ofNat 7 (2 ^ p) }
  else w
/-- A 64-bit value from a pair (R64). -/
def pair (w : Warp) (n l : Nat) : Dword := (w.reg (n + 1) l) ++ (w.reg n l)
def spair (w : Warp) (n : Nat) : Dword := (w.sreg (n + 1)) ++ (w.sreg n)
def apply (w : Warp) : Write → Warp
  | .reg n l x => w.setReg n l x
  | .sreg n x => w.setSreg n x
  | .pred p l x => w.setPred p l x
def applyAll (w : Warp) (ws : List Write) : Warp := ws.foldl apply w
/-- Format tag of a block (R86): RAW unless listed. -/
def tag (w : Warp) (b : Nat) : Nat := Sparse.get 0 w.tags b
/-- A register the warp holds (R46, R51). -/
def holdsReg (w : Warp) (n : Nat) : Bool := if w.single then decide (n < 64) else decide (n / 8 < w.blocks)

/-! ### Fronts (R33 to R36) -/

def ready (f : Front) : Bool := f.wait.isNone && f.lanes != 0

/-- What fronts must agree on to merge (R36): PC, entry and team, outside a `SOLO` section. -/
def sameKey (w : Warp) (f g : Front) : Bool :=
  let a := w.thread (lowest f.lanes)
  let b := w.thread (lowest g.lanes)
  a.pc == b.pc && a.entry == b.entry && a.team == b.team && a.solo.isNone && b.solo.isNone

/-- Merge one front into the first earlier front it agrees with, or put it at the end; threads that are stepped stay so (R340). -/
def mergeOne (w : Warp) (f : Front × Bool) : List (Front × Bool) → List (Front × Bool)
  | [] => [f]
  | g :: r =>
    if ready f.1 && ready g.1 && w.sameKey g.1 f.1 then
      ({ g.1 with lanes := g.1.lanes ||| f.1.lanes, stepping := g.1.stepping ||| f.1.stepping }, g.2 || f.2) :: r
    else g :: mergeOne w f r

/-- The fronts, each with whether it is the current one. -/
def marked (w : Warp) : List (Front × Bool) :=
  (List.range w.fronts.length).zip w.fronts |>.map fun p => (p.2, w.cur == some p.1)

/-- All mergers of ready fronts, each at the lowest of their positions (R34, R36). -/
def mergeAll (w : Warp) : List (Front × Bool) := (w.marked).foldl (fun acc f => w.mergeOne f acc) []

/-- The index of the first marked element. -/
def markedAt : List (Front × Bool) → Nat → Option Nat
  | [], _ => none
  | (_, b) :: r, i => if b then some i else markedAt r (i + 1)

/-- Put back a list with one marked element as fronts and current front, dropping empty fronts. -/
def unmark (w : Warp) (l : List (Front × Bool)) : Warp :=
  let l := l.filter fun p => p.1.lanes != 0
  { w with fronts := l.map (·.1), cur := markedAt l 0 }

/-- The first ready front of a list, by index. -/
def firstReady : List (Front × Bool) → Nat → Option Nat
  | [], _ => none
  | (f, _) :: r, i => if ready f then some i else firstReady r (i + 1)

/-- Mark the front at an index and no other. -/
def markOnly (l : List (Front × Bool)) (i : Nat) : List (Front × Bool) :=
  (List.range l.length).zip l |>.map fun p => (p.2.1, p.1 == i)

/-- The cycle at which the last fixed-latency write lands (R77). -/
def fixedLanded (w : Warp) : Nat := (w.pend.filter (·.fixed)).foldl (fun m p => max m p.due) 0

/-- A switch point (R35): merge, then make current the first ready front after the old one, wrapping round, the old one
last. The new front issues no sooner than every fixed-latency write has landed (R77); a change of front discards the
operand buffer (R78). A front that `SOLO` leaves at the place of its own, or that others have been merged into, is no changed one. See log
entry 50 (DEDUCED). -/
def switch (w : Warp) : Warp :=
  let l := w.mergeAll
  let i := (markedAt l 0).getD 0
  let after := firstReady (l.drop (i + 1)) (i + 1)
  let before := firstReady (l.take (i + 1)) 0
  let pick := after.or before
  let l' := match pick with
    | some j => markOnly l j
    | none => l.map fun p => (p.1, false)
  let w' := w.unmark l'
  if pick = some i then w'
  else { w' with nextIssue := max w.nextIssue w.fixedLanded, opbuf := [] }

/-- After threads are woken (R34, R36): merge, and if no front was current the first ready one becomes so. -/
def settle (w : Warp) : Warp :=
  let l := w.mergeAll
  match markedAt l 0 with
  | some _ => w.unmark l
  | none =>
    match firstReady l 0 with
    | some j => { (w.unmark (markOnly l j)) with nextIssue := max w.nextIssue w.fixedLanded, opbuf := [] }
    | none => w.unmark l

/-- Replace the front at an index by a list of fronts, marking the first of them current when `keep` holds. -/
def replaceFront (w : Warp) (i : Nat) (new : List Front) : Warp :=
  { w with fronts := w.fronts.take i ++ new ++ w.fronts.drop (i + 1) }

/-- Park lanes of the current front (R34): the rest keeps the front's place, the parked threads wait behind it. -/
def park (w : Warp) (ls : Mask) (why : Park) : Warp :=
  match w.cur, w.front? with
  | some i, some f =>
    let rest := f.lanes &&& ~~~ ls
    let new : List Front := (if rest = 0 then [] else [{ f with lanes := rest }]) ++
      (if ls &&& f.lanes = 0 then [] else [{ lanes := ls &&& f.lanes, wait := some why }])
    w.replaceFront i new
  | _, _ => w

/-- Groups of lanes with equal PC, entry and team, in ascending order of their lowest lane (R34). -/
def groupLanes (w : Warp) : List Nat → List Mask → List Mask
  | [], acc => acc
  | l :: r, acc =>
    let t := w.thread l
    let same (m : Mask) : Bool :=
      let u := w.thread (lowest m)
      u.pc == t.pc && u.entry == t.entry && u.team == t.team && t.solo.isNone
    match acc.findIdx? same with
    | some i => groupLanes w r (acc.modify i (· ||| laneBit l))
    | none => groupLanes w r (acc ++ [laneBit l])

/-- Wake parked lanes (R34, R36): they form ready fronts at the end of the list. -/
def wake (w : Warp) (ls : List Nat) : Warp :=
  if ls.isEmpty then w
  else
    let m := maskOf ls
    let fronts := w.fronts.map fun f => if f.wait.isSome then { f with lanes := f.lanes &&& ~~~ m } else f
    let new := (w.groupLanes ls []).map fun g => { lanes := g : Front }
    { w with fronts := fronts ++ new }.settle

/-- Set the program counter of lanes. -/
def setPcs (w : Warp) (ls : List Nat) (pc : Va) : Warp :=
  ls.foldl (fun w l => w.setThread l { w.thread l with pc }) w

/-- Advance the program counters of the current front by a length. -/
def advance (w : Warp) (len : Nat) : Warp :=
  (lanesOf w.frontMask).foldl
    (fun w l => w.setThread l { w.thread l with pc := (w.thread l).pc + BitVec.ofNat 72 len }) w

/-- The current front is no longer stepped: its instruction has faulted (R340). -/
def unstep (w : Warp) : Warp :=
  let m := w.frontMask
  let clear (f : Front) : Front := { f with stepping := f.stepping &&& ~~~ m }
  { w with fronts := w.fronts.map clear, step := w.step &&& ~~~ m }

/-- Stop the ready threads of `m` where they stand, as a trap does (R34, R35). -/
def stopLanes (w : Warp) (m : Mask) : Warp :=
  let cut (p : Front × Bool) : List (Front × Bool) :=
    if p.1.wait.isNone && p.1.lanes &&& m != 0 then
      [({ p.1 with lanes := p.1.lanes &&& ~~~ m }, p.2), (({ lanes := p.1.lanes &&& m, wait := some .fault } : Front), false)]
    else [p]
  let l := (w.marked.map cut).flatten
  let w' := { w with fronts := l.map Prod.fst, cur := markedAt l 0 }
  if w.frontMask &&& m != 0 && (w.frontMask &&& ~~~ m) == 0 then w'.switch else w'.settle

/-- The threads of the current front that are stepped (R340). -/
def stepped (w : Warp) : Mask := match w.front? with | some f => f.stepping &&& f.lanes | none => 0

/-- Lanes parked for a reason. -/
def parkedFor (w : Warp) (why : Park) : Mask :=
  (w.fronts.filter fun f => f.wait == some why).foldl (fun m f => m ||| f.lanes) 0

end Warp

/-! ### Results that land (R74) -/

/-- Schedule writes of the executing warp. -/
def land (s : State) (due : Nat) (fixed : Bool) (ws : List Write) : State :=
  if ws.isEmpty then s
  else
    let w := s.warp
    (s.setWarp { w with pend := w.pend ++ [⟨due, fixed, ws⟩] }).post due (.resultsLand s.selfCore s.selfSlot)

/-- Land everything of a warp that is due, in order of landing cycle, later-issued last in one cycle (R76). -/
def landDue (now : Nat) (w : Warp) : Warp :=
  let due := w.pend.filter fun p => decide (p.due ≤ now)
  { (due.foldl (fun w p => w.applyAll p.writes) w) with pend := w.pend.filter fun p => decide (now < p.due) }

/-! ### Event counters (15_counters R325) -/

/-- Count an event on a core, `n` times, for a user or a supervisor warp. See log entry 34 (DEDUCED). -/
def countEvent (s : State) (c evt n : Nat) (user : Bool) : State :=
  let k := s.core c
  if k.pmcs.any fun p => p.2.en && p.2.evt == evt && (user || !p.2.uonly) then
    s.setCore c { k with pmcs := k.pmcs.map fun p =>
      if p.2.en && p.2.evt == evt && (user || !p.2.uonly) then
        (p.1, { p.2 with count := p.2.count + BitVec.ofNat 64 n }) else p }
  else s

/-- The histogram bin of a sample (R327). -/
def captureBin (x sh : Nat) : Nat := let y := x / 2 ^ sh; if y = 0 then 0 else min 15 (Nat.log2 y + 1)

/-- Sample a quantity in a core's capture units (R327). -/
def sample (s : State) (c qty x : Nat) : State :=
  let k := s.core c
  if k.capts.any fun p => p.2.cfg.toNat / 2 ^ 63 = 1 ∧ p.2.cfg.toNat % 256 = qty then
    s.setCore c { k with capts := k.capts.map fun p =>
      let u := p.2
      if u.cfg.toNat / 2 ^ 63 = 1 ∧ u.cfg.toNat % 256 = qty then
        let b := captureBin x (u.cfg.toNat / 256 % 64)
        (p.1, { u with
          min := if u.samples = 0 ∨ x < u.min.toNat then BitVec.ofNat 64 x else u.min
          max := if u.max.toNat < x then BitVec.ofNat 64 x else u.max
          samples := u.samples + 1
          bins := Sparse.put u.bins b (min (Sparse.get 0 u.bins b + 1) 0xFFFF) })
      else p }
  else s

/-- Add to a core's reserved-code counter (05_number_formats R109). -/
def countReserved (s : State) (c n : Nat) : State :=
  if n = 0 then s else let k := s.core c; s.setCore c { k with reserved := k.reserved + BitVec.ofNat 64 n }

/-! ### Records and the supervisor ring (13_queues R277 to R281) -/

/-- A 64-byte record (R279). See log entry 11 (DEDUCED). -/
def mkRecord (kind : Nat) (priv : Bool) (number core warp lane ctx : Nat) (args : List Nat) : Record :=
  [BitVec.ofNat 8 kind, if priv then 1 else 0] ++ toBytes 2 number ++ toBytes 2 core ++
  [BitVec.ofNat 8 warp, BitVec.ofNat 8 lane] ++ toBytes 8 ctx ++
  ((List.range 6).map fun i => toBytes 8 (args.getD i 0)).flatten

/-- IA of a core's supervisor area (R277). -/
def areaOf (k : Core) : Nat := k.svqbase.toNat / 65536 * 65536

/-- The S-lane enters a handler (16_events R334), or halts when its TRAPVEC is 0 (02 R51). -/
def slEnter (s : State) (c cause : Nat) (pc addr : Va) (info : Dword) : State :=
  let k := s.core c
  let w := s.warpAt c 64
  let trap : Trap := { cause := BitVec.ofNat 8 (cause + if w.ie then 128 else 0), pc, addr, info }
  let w := { w with trap, ie := false, opbuf := [] }
  if k.sl.trapvec = 0 then
    (s.setWarpAt c 64 w).setCore c
      { (s.setWarpAt c 64 w).core c with sl := { k.sl with halted := true, wfi := false } }
  else
    let s := s.setWarpAt c 64 { (w.setThread 0 { w.thread 0 with pc := k.sl.trapvec }) with
      nextIssue := max w.nextIssue w.fixedLanded }
    s.setCore c { s.core c with sl := { (s.core c).sl with wfi := false } }

/-- Where the next record of a core's ring goes. -/
def ringIa (k : Core) : Nat := areaOf k + 64 * k.tail.toNat

/-- The ring takes a record of kinds 2 to 6 (R277, R281). -/
def ringFree (k : Core) : Bool := decide (k.count < 256) && k.failed.isEmpty

/-- An `SVPOP` has taken the record at an address, and its read has not reached it: no record is written over it. See log entry 11 (DEDUCED). -/
def recordOut (s : State) (ia : Nat) : Bool := s.ops.any fun p => p.2.kind == .svpop && p.2.parts.any fun l => l.ia == ia && !l.seen

/-- The ring takes a record now: nothing at the record's home keeps the write waiting. See log entry 8 (DESIGN CHOICE). -/
def ringOpen (s : State) (c : Nat) : Bool := ringFree (s.core c) && !hwBlocked s (ringIa (s.core c)) 64 && !recordOut s (ringIa (s.core c))

/-- Write a record into a core's ring; the ring has room (R281). A write that fails its check is kept, and the S-lane
takes a fault of that cause (R277; TRAPINFO tells a reserved format, 05 R92); while one is kept, later ones wait behind it. See log entry 8
(DESIGN CHOICE). -/
def ringWrite (s : State) (c : Nat) (r : Record) : State :=
  let k := s.core c
  let ia := ringIa k
  if !k.failed.isEmpty then s.setCore c { k with failed := k.failed ++ [r] }
  else match hwWrite s ia ⟨false, 0⟩ r with
  | .ok s =>
    let k := s.core c
    countEvent (s.setCore c { k with tail := k.tail + 1, count := k.count + 1, fresh := [],
                                     calls := if r.headD 0 = 1 then k.calls + 1 else k.calls }) c 0x0B 1 (r.getD 1 1 == 0)
  | .error cause =>
    let t := s.setCore c { k with failed := [r] }
    slEnter t c cause (t.warpAt c 64).pc (BitVec.ofNat 72 ia) (BitVec.ofNat 64 (2 ^ 63 * (rfmtAt s ia cause).toNat))

/-- Records of faults of this cycle that are in the ring still, in its order (16_events R330). -/
def freshOf (s : State) (c : Nat) : List (Nat × Record) :=
  let k := s.core c
  if k.freshAt = s.cycle then k.fresh.drop (k.fresh.length - k.count) else []

/-- A front of the slot with a higher lane has faulted in this cycle already: the trap registers keep its values (16_events R330). -/
def laterFault (s : State) (c slot lane : Nat) : Bool := (freshOf s c).any fun p => p.1 / 32 == slot && decide (lane < p.1 % 32)

/-- The trap registers after a fault of a slot's front. -/
def Warp.trapOf (w : Warp) (s : State) (c slot lane : Nat) (x : Trap) : Trap := if laterFault s c slot lane then w.trap else x

/-- Write the record of a fault: those of one cycle stand in ascending slot order, and in ascending lane order in a slot (16_events R330). -/
def ringTrap (s : State) (c slot : Nat) (r : Record) : State :=
  let key := 32 * slot + (r.getD 7 0).toNat % 32
  let old := freshOf s c
  let after := old.filter fun p => decide (key < p.1)
  let at_ := (s.core c).tail.toNat + 256 - after.length
  let t := ringWrite s c r
  let k := t.core c
  if k.tail = (s.core c).tail then t
  else
    let t := t.setCore c { k with freshAt := s.cycle, fresh := (old.filter fun p => decide (p.1 ≤ key)) ++ (key, r) :: after }
    if after.isEmpty then t
    else ((List.range (after.length + 1)).zip (r :: after.map (·.2))).foldl (fun t p =>
      match hwWrite t (areaOf k + 64 * ((at_ + p.1) % 256)) ⟨false, 0⟩ p.2 with
      | .ok u => u
      | .error _ => t) t

/-- The counters that an earlier save left in memory are 0 (10_ordering R232). -/
def savedZero (s : State) (w : Warp) : Bool :=
  match w.savedAt with
  | some ia => homeNat s (ia + 0x40) 32 == 0
  | none => true

/-- The stores that a scope waits for have been performed (09_memory_spaces R213). -/
def storesDone (s : State) (w : Warp) (sys : Bool) : Bool :=
  w.storeBuf.isEmpty && w.unack.here == 0 && w.unack.other == 0 && w.unack.pkg == 0 && (!sys || w.unack.io == 0) &&
  savedZero s w

/-- A loop has not finished reading its operands (10_ordering R225). See log entry 22 (DEDUCED). -/
def Loop.reading (l : Loop) (now : Nat) : Bool :=
  decide (l.step < l.steps) || (match l.start with | some t => decide (now < t) | none => true)

/-- A loop of a slot's warp has not finished reading (10_ordering R225). -/
def loopReads (s : State) (c slot : Nat) (w : Warp) : Bool :=
  (s.core c).loopq.any fun l => l.slot == slot && l.gen == w.gen && l.reading s.cycle

/-- A record of a warp slot: into the ring, or held by the slot when the ring takes none; behind a held record the front waits, stopped, and
its record comes to be held after that one (R281). -/
def enterTrap (s : State) (c slot : Nat) (r : Record) : State :=
  let k := s.core c
  if ringOpen s c && k.held.isEmpty then ringTrap s c slot r
  else if (Sparse.get? k.held slot).isNone then s.setCore c { k with held := Sparse.put k.held slot r }
  else s.setCore c { k with stalled := k.stalled ++ [(slot, r)] }

/-- The record of a stopped front may be written: the release that this is has nothing to wait for (10_ordering R222; R330). -/
def trapReady (s : State) (c slot : Nat) : Bool :=
  let w := s.warpAt c slot
  !loopReads s c slot w && storesDone s w false

/-- The record of a stopped front: it waits, as a release of `.cluster` scope, for the stores of its warp, and behind the records of its
slot that wait (R222, R330). See log entry 11 (DEDUCED). -/
def pushTrap (s : State) (c slot : Nat) (r : Record) : State :=
  let k := s.core c
  if trapReady s c slot && k.awaiting.all (·.2.1 != slot) then enterTrap s c slot r
  else
    let key (p : Nat × Nat × Record) : Nat := (p.1 * 64 + p.2.1) * 32 + (p.2.2.getD 7 0).toNat % 32
    s.setCore c { k with awaiting := insertOn key (s.cycle, slot, r) k.awaiting }

/-- The records whose release has nothing to wait for any more are written, those of one fault cycle in ascending slot and lane order (R330).
See log entry 11 (DEDUCED). -/
def releaseTraps (s : State) (c : Nat) : State :=
  (s.core c).awaiting.foldl (fun s p =>
    let k := s.core c
    let ahead := k.awaiting.takeWhile (· != p)
    if trapReady s c p.2.1 && ahead.all (fun q => q.2.1 != p.2.1 && q.1 != p.1) then
      enterTrap (s.setCore c { k with awaiting := k.awaiting.erase p }) c p.2.1 p.2.2
    else s) s

/-- A record of kinds 4 to 6: into the ring, or it waits in the core's cluster (R281). -/
def pushReport (s : State) (c : Nat) (r : Record) : State :=
  let k := s.core c
  let x := s.cluster (c / 4)
  if ringOpen s c && k.held.isEmpty && x.reports.isEmpty then ringWrite s c r
  else s.setCluster (c / 4) { x with reports := x.reports ++ [r] }

/-! ### Taking an exception, and returning from one -/

/-- Record kind of a cause (R280, R330). -/
def kindOf (cause : Nat) : Nat := if cause = 0x0A ∨ cause = 0x0B then 3 else 2

/-- The arguments of a trap record (R331). -/
def trapArgs (cause : Nat) (isDeferred whole : Bool) (m : Mask) (pc addr : Nat) (info : Nat) (storeHi ia : Nat) : List Nat :=
  [cause + (if isDeferred then 256 else 0) + (if whole then 512 else 0) + 2 ^ 32 * m.toNat,
   pc % 2 ^ 64, addr % 2 ^ 64, info, pc / 2 ^ 64 + 2 ^ 8 * (addr / 2 ^ 64) + 2 ^ 16 * storeHi, ia]

/-- What a fault says of itself: its cause, TRAPADDR, TRAPINFO, TRAPPC, and for a deferred fault bits 71:64 of the
store's PC (R329, R331). -/
structure FaultInfo where
  cause : Nat
  addr : Va := 0
  info : Dword := 0
  pc : Va
  isDeferred : Bool := false
  storeHi : Nat := 0
deriving DecidableEq, Repr

/-- Ask for the end of a group with a code (R292, R339): its warps issue nothing more. -/
def askEnd (s : State) (ctx code : Nat) (ender : Option Nat) : State :=
  match s.group? ctx with
  | some g => s.setGroup ctx { g with ending := some (g.ending.getD code), ender := g.ender.or ender }
  | none => s

/-- The group of a warp is being ended. -/
def groupEnding (s : State) (w : Warp) : Bool :=
  !w.single && (match s.group? w.ctx with | some g => g.ending.isSome | none => false)

/-- Take an exception in the current front of the executing warp: on the S-lane by R334, in place in a supervisor warp
by R333, a lease violation by ending the group (R292), otherwise by R330: the front stops where it stands, the trap
registers are written, and one record goes to the ring. A trap is a switch point (R35) and discards the operand buffer (R78).
See log entry 31 (DEDUCED). -/
def takeFault (s : State) (x : FaultInfo) : State :=
  let c := s.selfCore
  let w := s.warp
  if s.onSl then
    (slEnter (if x.isDeferred then s.setWarp { w with deferred := none, savedDef := true } else s) c x.cause x.pc x.addr x.info).taken
  else if x.cause = 0x0C then (askEnd s w.ctx 0x0C none).taken
  else
    let trap : Trap := { cause := BitVec.ofNat 8 x.cause, pc := x.pc, addr := x.addr, info := x.info }
    let w := { w with opbuf := [], deferred := if x.isDeferred then none else w.deferred, savedDef := w.savedDef || x.isDeferred }
    if w.priv && (s.core c).trapvec != 0 && !w.inHandler then
      let w := { (w.setPcs (lanesOf w.frontMask) (s.core c).trapvec).unstep with trap, inHandler := true }
      (s.setWarp w.switch).taken
    else
      let m := w.frontMask
      let w := { w with trap := w.trapOf s c s.selfSlot (Warp.lowest m) trap }
      let r := mkRecord (kindOf x.cause) w.priv 0 c w.wix (Warp.lowest m) w.ctx
        (trapArgs x.cause x.isDeferred false m x.pc.toNat x.addr.toNat x.info.toNat x.storeHi 0)
      (pushTrap (s.setWarp ((w.park m .fault).switch)) c s.selfSlot r).taken

/-- `ERET` with both sources in mode 01: return from a handler taken in place (R336); none where it faults. See log entry 31 (DEDUCED). -/
def returnFault (s : State) : Option State :=
  let w := s.warp
  if s.onSl then
    some (s.setWarp { (w.setThread 0 { w.thread 0 with pc := w.trap.pc }) with
      ie := w.trap.cause.getLsbD 7, nextIssue := max w.nextIssue w.fixedLanded })
  else if w.priv && w.inHandler then
    some (s.setWarp { (w.setPcs (lanesOf w.frontMask) w.trap.pc) with
      inHandler := false, nextIssue := max w.nextIssue w.fixedLanded })
  else none

/-! ### Issue: the checks that every instruction shares (R82) -/

/-- Registers that a source position names from its field: the field and what it spans. -/
def slotRegs (p : Slot) (x : Src) : List Nat :=
  match p.kind, x with
  | .reg, .reg n | .any, .reg n | .regOrZero, .reg n | .regOrLo, .reg n =>
    (List.range (max p.span (if p.wide then 2 else 1))).map (n.toNat + ·)
  | _, _ => []

/-- Registers that an operand field names by itself (R64): one, or a pair. -/
def slotNamed (p : Slot) (x : Src) : List Nat := (slotRegs p x).take (if p.wide then 2 else 1)

/-- Uniform registers that `S2V` and `V2S` name. -/
def slotSregs (p : Slot) (x : Src) : List Nat :=
  match p.kind, x with
  | .sreg, .reg n => (List.range (if p.wide then 2 else 1)).map (n.toNat + ·)
  | _, _ => []

def slotPreds (p : Slot) (x : Src) : List Nat :=
  match p.kind, x with
  | .pred, .reg n | .predOrZero, .reg n => [n.toNat]
  | _, _ => []

/-- What an instruction reads and writes by name, for the scoreboard and the check of R76. -/
structure Uses where
  readR : List Nat := []
  writeR : List Nat := []
  readS : List Nat := []
  writeS : List Nat := []
  readP : List Nat := []
  writeP : List Nat := []
deriving DecidableEq, Repr

/-- Reads and writes of an extended instruction; `.one` turns named registers into uniform ones (R72). -/
def usesOf (op : Nat) (f : Fields) (one : Bool) : Uses :=
  let p := shape op f
  let src := slotRegs p.a f.a ++ slotRegs p.b f.b ++ slotRegs p.c f.c
  let dst := slotRegs p.d (.reg f.d)
  let more := match op with
    | 0x0C4 => ([0, 1], ([] : List Nat))
    | 0x0C2 | 0x0C3 => ([], [0, 1])
    | 0x052 => (if f.subBits 6 1 = 1 then [f.d.toNat] else [], [])
    | _ => ([], [])
  let allP := [0, 1, 2, 3, 4, 5, 6]
  let readP := (if f.pred = 7 then [] else [f.pred.toNat]) ++ slotPreds p.a f.a ++ slotPreds p.b f.b ++ slotPreds p.c f.c ++
    p.predsIn ++ (if op = 0x08F then allP else [])
  let writeP := slotPreds p.d (.reg f.d) ++ p.predsOut ++
    (if op = 0x090 then allP.filter fun i => f.sub.toNat / 2 ^ i % 2 = 1 else [])
  let live := fun l : List Nat => l.filter (· != 7)
  { readR := if one then [] else src ++ more.1, writeR := if one then [] else dst ++ more.2,
    readS := (if one then src ++ (if op = 0x052 then more.1 else []) else []) ++ slotSregs p.a f.a,
    writeS := (if one then dst else []) ++ slotSregs p.d (.reg f.d),
    readP := live readP, writeP := live writeP }

/-- Every register an operand field names is held (R64); `s` registers end at s63, and the S-lane has none. -/
def namedOk (w : Warp) (op : Nat) (f : Fields) (one : Bool) : Bool :=
  let p := shape op f
  let named := slotNamed p.d (.reg f.d) ++ slotNamed p.a f.a ++ slotNamed p.b f.b ++ slotNamed p.c f.c
  let sr := slotSregs p.d (.reg f.d) ++ slotSregs p.a f.a
  (if one then named.all fun n => decide (n < 64) else named.all w.holdsReg) && (sr.isEmpty || !w.single)

def overlap (a b : List Nat) : Bool := a.any fun x => b.contains x

def Write.regs : Write → List Nat
  | .reg n _ _ => [n]
  | _ => []
def Write.sregs : Write → List Nat
  | .sreg n _ => [n]
  | _ => []
def Write.preds : Write → List Nat
  | .pred p _ _ => [p]
  | _ => []

def Landing.regs (p : Landing) : List Nat := (p.writes.map Write.regs).flatten
def Landing.sregs (p : Landing) : List Nat := (p.writes.map Write.sregs).flatten
def Landing.preds (p : Landing) : List Nat := (p.writes.map Write.preds).flatten

/-- A pending write touches what an instruction names. -/
def Landing.hits (p : Landing) (rs ss ps : List Nat) : Bool :=
  overlap rs p.regs || overlap ss p.sregs || overlap ps p.preds

/-- The always-on scoreboard keeps the instruction back (R75, R262). -/
def scoreboard (w : Warp) (u : Uses) : Bool :=
  let rs := u.readR ++ u.writeR
  let ss := u.readS ++ u.writeS
  let ps := u.readP ++ u.writeP
  (w.pend.any fun p => !p.fixed && p.hits rs ss ps) ||
  (w.marks.any fun m => overlap rs m.2.regs || overlap ss m.2.sregs || overlap ps m.2.preds ||
    overlap u.writeR m.2.busy)

/-- The check of R76: cause 0x05. -/
def earlyUse (w : Warp) (now : Nat) (u : Uses) (lat : Lat) : Bool :=
  w.chk && ((w.pend.any fun p => p.fixed && decide (now < p.due) && p.hits u.readR u.readS u.readP) ||
    (lat.fixed && w.pend.any fun p => p.fixed && decide (now + lat.cycles ≤ p.due) && p.hits u.writeR u.writeS u.writeP))

/-- Instructions that an acquire keeps back (R213, R238): those that access memory. -/
def isMemory (op : Nat) : Bool :=
  (decide (0x100 ≤ op) && decide (op ≤ 0x109)) || (decide (0x140 ≤ op) && decide (op ≤ 0x145)) ||
  (decide (0x163 ≤ op) && decide (op ≤ 0x167)) || op == 0x186 || op == 0x188 || op == 0x189 ||
  (decide (0x1C0 ≤ op) && decide (op ≤ 0x1C4)) || op == 0x0CB

/-- How an instruction's own effect ends: done, with the program counters still to be advanced; done with them set;
not ready (R41); held at the wait of its release, once issued (R374); or a fault (R329). -/
inductive Act where
  | next (s : State)
  | jump (s : State)
  | wait
  | hold
  | trap (cause : Nat) (addr : Va) (info : Dword)
  | fault (x : FaultInfo)

/-- A copy in flight holds one of the registers `ns` of a warp busy: no other instruction writes it before the copy completes (04_registers
R86). -/
def copyHolds (s : State) (w : Warp) (ns : List Nat) : Bool :=
  w.marks.any fun m => overlap ns m.2.regs && (match s.op? m.1 with | some o => o.kind == .copy | none => false)

/-- The warp may issue at all (R41, R73, R196, R238). -/
def mayIssue (s : State) (w : Warp) (op : Nat) : Bool :=
  (w.held || decide (w.nextIssue ≤ s.cycle)) && !groupEnding s w && !w.debugStop && w.grow.isNone && w.saving.isNone && w.stopReq.isNone &&
  w.front?.isSome && w.frontMask &&& w.step == 0 &&
  ((op == 0x100 || op == 0x102) || w.loads.all fun id => match s.op? id with | some o => decide (1 ≤ o.stage) | none => true) &&
  w.holds.isNone && (w.acqs.isEmpty || !isMemory op)

/-- Use a register read in a position that keep names, and note buffer hits (R78): an entry read is refreshed; the kept
register is placed, in an empty entry or in place of the older; the first of the two when their stamps are equal. See log entry 47
(DEDUCED). -/
def keepRead (w : Warp) (now : Nat) (reads : List Nat) (kept : Option Nat) : Warp :=
  let buf := w.opbuf.map fun e => if reads.contains e.reg then { e with stamp := now } else e
  match kept with
  | none => { w with opbuf := buf }
  | some n =>
    let e : OpBuf := { reg := n, vals := lanes32.map (w.reg n), stamp := now }
    let rest := buf.filter fun b => b.reg != n
    let rest := match rest with
      | [x, y] => if x.stamp ≤ y.stamp then [y] else [x]
      | r => r
    { w with opbuf := rest ++ [e] }

/-- The register that the keep field names (R78). -/
def keptReg (f : Fields) : Option Nat :=
  let of : Src → Option Nat := fun x => match x with | .reg n => some n.toNat | _ => none
  match f.keep with
  | .none => none
  | .a => of f.a
  | .b => of f.b
  | .c => of f.c

/-- The quarter of a slot (R39); the S-lane, slot 64, has units of its own, a divider and a function unit. See log entry 55 (DESIGN CHOICE). -/
def quarterOf (slot : Nat) : Nat := slot / 16

/-- What a quarter remembers of the warp that issues (R43, R44): it becomes the holder, also one of a higher class than the holder was. See
log entry 48 (DEDUCED). -/
def noteIssue (s : State) : State :=
  if s.onSl then s
  else
    let k := s.core s.selfCore
    let q := quarterOf s.selfSlot
    let x : Quarter := Sparse.get {} k.quarters q
    let again := x.holder == some s.selfSlot && decide (x.count < 256)
    let y : Quarter :=
      { x with holder := some s.selfSlot, count := if again then x.count + 1 else 1, ptr := some s.selfSlot }
    s.setCore s.selfCore { k with quarters := Sparse.put k.quarters q y }

/-- An instruction that issues: its stall count (R73), its place in the picker, the operand buffer and the counts of
events 0x02 and 0x06. -/
def issueCount (s : State) (stall : Nat) (u : Uses) (kept : Option Nat) : State :=
  let w := s.warp
  let saved := (u.readR.filter fun n => w.opbuf.any fun e => e.reg == n).length
  let w := if w.single then w else keepRead w s.cycle u.readR kept
  let s := noteIssue (s.setWarp { w with nextIssue := s.cycle + stall + 1 })
  let s := countEvent s s.selfCore 0x02 1 (!w.priv)
  (if saved = 0 then s else countEvent s s.selfCore 0x06 saved (!w.priv)).taken

/-- Whether the group of the executing warp is being saved (R337). -/
def saveAsked (s : State) : Bool :=
  match s.group? s.warp.ctx with | some g => g.saveReq && !s.onSl | none => false

/-- An issue adds one to the overrun count of a requested save (R337). -/
def countOverrun (s : State) : State :=
  if saveAsked s then
    let w := s.warp
    let w := { w with overrun := w.overrun + 1 }
    let s := s.setWarp w
    if w.overrun = 4096 then s.postNow (.safepointOverrun s.selfCore s.selfSlot) else s
  else s

/-- What follows an instruction that has issued: the overrun count, and the stop that threads resumed with `.STEP`, here `m`, come to when
the instruction is complete (R340). -/
def afterIssue (s : State) (m : Mask) : State :=
  let s := countOverrun s
  if m = 0 then s
  else
    let w := s.warp
    let clear (f : Front) : Front := { f with stepping := f.stepping &&& ~~~ m }
    s.setWarp { w with fronts := w.fronts.map clear, step := w.step ||| m }

/-- An instruction that has issued faults. -/
def faulted (s : State) (x : FaultInfo) : State := countOverrun (takeFault s x)

/-- Every load of a warp has passed its check, and no instruction holds its front (R196, R238). -/
def checked (s : State) (w : Warp) : Bool :=
  w.holds.isNone && w.loads.all fun id => match s.op? id with | some o => decide (1 ≤ o.stage) | none => true

/-- The stop of stepped threads that have become ready (R340): cause 0x14, one record for each front. A `REGGROW` is complete when it has been
granted (R90). See log entry 31 (DEDUCED). -/
def stepStop (s : State) (c k : Nat) : State :=
  let w := s.warpAt c k
  if w.step = 0 ∨ !checked s w ∨ w.grow.isSome then s
  else
    let lost := (w.fronts.filter fun f => f.wait == some .fault).foldl (fun m f => m ||| f.lanes) 0
    let live := maskOf w.liveLanes
    let stops := (w.fronts.filter fun f => f.wait.isNone && f.lanes &&& w.step != 0).map fun f => f.lanes &&& w.step
    let hit := stops.foldl (fun m x => m ||| x) 0
    stops.foldl (fun s m =>
      let w := s.warpAt c k
      let l := Warp.lowest m
      let pc := (w.thread l).pc
      let trap : Trap := { cause := 0x14, pc, addr := 0, info := 0 }
      let w := { (w.stopLanes m) with trap := w.trapOf s c k l trap, opbuf := [] }
      pushTrap (s.setWarpAt c k w) c k
        (mkRecord 2 w.priv 0 c w.wix l w.ctx (trapArgs 0x14 false false m pc.toNat 0 0 0 0)))
      (s.setWarpAt c k { w with step := w.step &&& ~~~ hit &&& ~~~ lost &&& live })

/-- Control registers that a user warp may read (04 R88). -/
def userReads (i : Nat) : Bool :=
  i = 0x000 || i = 0x010 || i = 0x011 || i = 0x041 || (decide (0x110 ≤ i) && decide (i ≤ 0x11F))

/-- The first register that an operand's span reaches and the warp does not hold, when a thread executes (R64); under `.one` that is the
thread it acts for (R72). The check comes before those of addresses, and `MRD` and `MLDACC` make it after that of their slot. See log
entry 47 (DEDUCED). -/
def spanBad (w : Warp) (op : Nat) (f : Fields) (u : Uses) (one : Bool) : Option Nat :=
  if op = 0x185 ∨ op = 0x187 then none
  else if (if one then (w.active.find? w.live).toList else w.active).any fun l => w.pred f.pred.toNat l != f.pneg then
    if one then (u.readS ++ u.writeS).find? fun n => decide (64 ≤ n)
    else (u.readR ++ u.writeR).find? fun n => !w.holdsReg n
  else none

/-- TRAPINFO of cause 0x12 (R341): structure, lane, and register number, column or sector. -/
def errInfo (structure_ lane n : Nat) : Dword := BitVec.ofNat 64 (structure_ + 256 * lane + 65536 * n)

/-- The first register that the instruction reads by name, in the lowest executing thread, whose data are in error: lane and register
(R341); an instruction that takes values of other lanes (V2S, PERM, SHFL, QSWAP, QBCAST) reads every lane. See log entry 17
(DESIGN CHOICE). -/
def regErr (w : Warp) (op : Nat) (f : Fields) (u : Uses) (one : Bool) : Option (Nat × Nat) :=
  if w.regErrs = [] ∧ w.sregErrs = [] then none
  else
    let on := (if one then (w.active.find? w.live).toList else w.active).filter fun l => w.pred f.pred.toNat l != f.pneg
    let across := op == 0x085 || (decide (0x087 ≤ op) && decide (op ≤ 0x08A))
    (if across && !on.isEmpty then lanes32 else on).findSome? fun l =>
    ((u.readR.find? fun n => w.regErrs.contains (n * 32 + l)).or (u.readS.find? fun n => w.sregErrs.contains n)).map fun n => (l, n)

/-- The warp with other registers and predicates (R76). -/
def Warp.withSeen (w : Warp) (x : Seen) : Warp :=
  { w with regs := x.regs, sregs := x.sregs
           threads := w.threads.map fun p => (p.1, { p.2 with preds := ((x.preds.find? fun q => q.1 == p.1).map (·.2)).getD p.2.preds }) }

/-- The words of an instruction, with the registers and predicates of a warp as they stand. -/
def Warp.seenNow (w : Warp) (words : List Nat) : Seen := { words, regs := w.regs, sregs := w.sregs, preds := w.threads.map fun p => (p.1, p.2.preds) }

/-- The instruction of words `ws` issues: its counts, or, when it has issued before and was held, nothing more; it then reads what stood in
its issue cycle (R76). A keep field has no effect under `.one`. See log entry 47 (DEDUCED). -/
def issueGo (s : State) (f : Fields) (u : Uses) (one : Bool) : State :=
  let w := s.warp
  if w.held then s.setWarp { (match w.seen with | some x => w.withSeen x | none => w) with held := false, seen := none }
  else issueCount s f.stall.toNat u (if one then none else keptReg f)

/-- The registers and predicates of a held instruction's warp after its effect `t` on `go`: what it wrote, and for the rest what stood before
it in `s`, not what it read (R76). -/
def restored (s go t : State) : State :=
  if s.warp.held then
    let w := t.warp
    let preds (p : Nat × Thread) : Nat × Thread :=
      if p.2.preds = (go.warp.thread p.1).preds then (p.1, { p.2 with preds := (s.warp.thread p.1).preds }) else p
    t.setWarp { w with regs := Sparse.patch 0 s.warp.regs go.warp.regs w.regs
                       sregs := Sparse.patch 0 s.warp.sregs go.warp.sregs w.sregs, threads := w.threads.map preds }
  else t

/-- The instruction is held at its release: it has taken its cycle, and its words stay with it. See log entry 29 (DEDUCED). -/
def holdAt (s go : State) (ws : List Nat) : State :=
  if s.warp.held then s
  else go.setWarp { go.warp with held := true, seen := some (s.warp.seenNow ws) }

/-- TRAPINFO of a fault that an instruction's effect raises: where it holds the instruction's words (R81), they are those that were
fetched, with a `.one` that the S-lane does not heed (R71). See log entry 30 (DEDUCED). -/
def trapInfo (op : Nat) (f : Fields) (s : State) (info : Dword) : Dword :=
  if f.one && s.onSl && info == trapWords (encodeExt op { f with one := false }) then trapWords (encodeExt op f) else info

/-- Control registers of a warp that the S-lane does not have (R334). -/
def warpOnly (i : Nat) : Bool := i = 0x050 || (decide (0x080 ≤ i) && decide (i ≤ 0x097))

/-- Uses that cause 0x06 refuses by the encoding, the part and the issuer (R51, R80, R334; 00_scope R3). -/
def wrongUnit (s : State) (op : Nat) (f : Fields) (slTakes : Bool) : Bool :=
  (s.onSl && !slTakes) || (op == 0x1EB && !s.onSl) || ((op == 0x1E5 || op == 0x1E6) && s.onSl && warpOnly f.idx) ||
  absentUnit s.part op f

/-- An instruction of the warp, without `.one` and of no supervisor form, passes the checks of R82 that follow 0x06, and is not kept back by
the scoreboard. -/
def passes (s : State) (w : Warp) (op : Nat) (f : Fields) : Bool :=
  let u := usesOf op f false
  namedOk w op f false && !scoreboard w u && (spanBad w op f u false).isNone && (regErr w op f u false).isNone &&
  !earlyUse w s.cycle u ((form op).getD {}).lat

/-- Issue an extended instruction for the current front of the executing warp: the checks of R82 from 0x02 to 0x05, then
the instruction's own effect. `ws` are its words. An instruction that is not ready leaves the state as it is, also where only the unit it
needs keeps it back (R41), so that the check of R76 is made in the cycle in which it issues. One that these checks stop counts with stall 0.
See log entry 47 (DEDUCED). -/
def issue (op : Nat) (ws : List Nat) (f : Fields) (s : State) (body : State → Act) : Host.Outcome State Fault Refusal :=
  let w := s.warp
  let F := (form op).getD {}
  let one := f.one && !s.onSl
  let u := usesOf op f one
  let pc := w.pc
  if !mayIssue s w op then .next s
  else
    let bad (cause : Nat) : Host.Outcome State Fault Refusal :=
      .next (faulted (issueCount s 0 ({} : Uses) none) { cause, info := trapWords ws, pc })
    if one && !F.one then bad 0x02
    else if (F.super || (op == 0x1E5 && !userReads f.idx)) && !w.priv then bad 0x03
    else if wrongUnit s op f F.sl then bad 0x06
    else if !namedOk w op f one then bad 0x04
    else if scoreboard w u then .next s
    else
      let m := w.stepped
      let go := issueGo s f u one
      let act : Act := match body go, spanBad w op f u one, regErr w op f u one with
        | .wait, _, _ => .wait
        | _, some n, _ => Act.trap 0x04 0 (BitVec.ofNat 64 n)
        | _, none, some (l, n) => .trap 0x12 0 (errInfo 1 l n)
        | a, none, none => a
      match act, earlyUse w s.cycle u F.lat with
      | .wait, _ => .next s
      | _, true => bad 0x05
      | .hold, false => .next (holdAt s go ws)
      | .trap cause addr info, false => .next (restored s go (faulted go { cause, addr, info := trapInfo op f s info, pc }))
      | .fault x, false => .next (restored s go (faulted go x))
      | .jump t, false => .next (restored s go (afterIssue t m))
      | .next t, false => .next (restored s go (afterIssue (t.setWarp (t.warp.advance (4 * ws.length))) m))

/-- Issue an instruction of the extended form. -/
def issueX (op : Nat) (f : Fields) (s : State) (body : Fields → State → Act) : Host.Outcome State Fault Refusal :=
  issue op (encodeExt op f) f s (body { f with one := f.one && !s.onSl })

/-- Issue a short form as the extended form it stands for (R61). -/
def issueK (sop : Nat) (k : Short) (s : State) (body : Fields → State → Act) : Host.Outcome State Fault Refusal :=
  let f := (k.ext sop).2
  issue (k.ext sop).1 [k.word sop] f s (body { f with one := f.one && !s.onSl })

end Sys2Proof.Machine
end

