-- ==== Sys2Proof/Machine/Operands.lean ====
section
/-! DEFINITION. Reading operands and writing results (03_encoding R64, R65, R69, R72; 06 R112, R113), and the memory
operand with its translation (09 R187 to R191, R206). -/

namespace Sys2Proof.Machine

/-- The guard of a thread (R69). -/
def guardOf (f : Fields) (w : Warp) (l : Nat) : Bool := w.pred f.pred.toNat l != f.pneg

/-- The lowest live active lane of the current front (R72). -/
def soleLane (w : Warp) : Option Nat := w.active.find? w.live

/-- The lanes that execute (R69): active threads whose guard is true; under `.one`, the one thread on whose behalf the
instruction acts, if its guard is true (R72). -/
def execLanes (f : Fields) (w : Warp) : List Nat :=
  if f.one then
    match soleLane w with
    | some l => if guardOf f w l then [l] else []
    | none => []
  else w.active.filter (guardOf f w)

/-- The lowest live active thread whose guard is true: the one that an instruction acting once for the front takes its
operands from. -/
def actor (f : Fields) (w : Warp) : Option Nat := (w.active.filter w.live).find? (guardOf f w)

/-- Register `n` of a lane, uniform under `.one` (R64). -/
def rd (f : Fields) (w : Warp) (l n : Nat) : Word := if f.one then w.sreg n else w.reg n l

/-- A 32-bit source (R65). -/
def src32 (f : Fields) (w : Warp) (l : Nat) : Src → Word
  | .reg n => rd f w l n.toNat
  | .zero => 0
  | .lo => BitVec.ofNat 32 f.loWord
  | .hi => BitVec.ofNat 32 f.hiWord

/-- A 64-bit source (R65): a pair, zero, the whole literal, or its high half extended by the type. -/
def src64 (signed : Bool) (f : Fields) (w : Warp) (l : Nat) : Src → Dword
  | .reg n => rd f w l (n.toNat + 1) ++ rd f w l n.toNat
  | .zero => 0
  | .lo => f.lit.getD 0
  | .hi => let x := BitVec.ofNat 32 f.hiWord; if signed then x.signExtend 64 else x.setWidth 64

/-- The low `w` bits of a number as an integer of the type (06 R112). -/
def intOf (t : Ty) (x : Nat) : Int :=
  let y := x % 2 ^ t.width
  if t.signed && decide (2 ^ (t.width - 1) ≤ y) then (y : Int) - 2 ^ t.width else y

/-- A value operand of an integer type (R112). -/
def srcInt (t : Ty) (f : Fields) (w : Warp) (l : Nat) (x : Src) : Int :=
  if t.width = 64 then intOf t (src64 t.signed f w l x).toNat else intOf t (src32 f w l x).toNat

/-- The raw bits of a source, of the type's width. -/
def srcBits (t : Ty) (f : Fields) (w : Warp) (l : Nat) (x : Src) : Nat :=
  if t.width = 64 then (src64 t.signed f w l x).toNat else (src32 f w l x).toNat % 2 ^ t.width

/-- A predicate source (R113): mode 01 reads false. Under `.one` it is the acting thread's. -/
def srcPred (w : Warp) (l : Nat) : Src → Bool
  | .reg n => w.pred n.toNat l
  | _ => false

/-- The range of an integer type (R112). -/
def tyMin (t : Ty) : Int := if t.signed then -2 ^ (t.width - 1) else 0
def tyMax (t : Ty) : Int := if t.signed then 2 ^ (t.width - 1) - 1 else 2 ^ t.width - 1

/-- Sat (R91). -/
def satInt (x lo hi : Int) : Int := if x < lo then lo else if hi < x then hi else x

/-- The bits of a result (R112): clamped first when the saturate bit is set, cut to the width, and extended to 32 bits
by the type. -/
def outInt (t : Ty) (sat : Bool) (x : Int) : Nat :=
  let y := if sat then satInt x (tyMin t) (tyMax t) else x
  let low := (y % 2 ^ t.width).toNat
  if t.width < 32 ∧ t.signed ∧ 2 ^ (t.width - 1) ≤ low then low + (2 ^ 32 - 2 ^ t.width) else low

/-- Writes of a 32-bit result. -/
def put32 (f : Fields) (l n : Nat) (x : Word) : List Write := if f.one then [.sreg n x] else [.reg n l x]

/-- Writes of a 64-bit result to a pair (R64). -/
def put64 (f : Fields) (l n : Nat) (x : Dword) : List Write :=
  put32 f l n (x.setWidth 32) ++ put32 f l (n + 1) ((x >>> 32).setWidth 32)

/-- Writes of a result of a type's width. -/
def putTy (t : Ty) (f : Fields) (l n : Nat) (x : Nat) : List Write :=
  if t.width = 64 then put64 f l n (BitVec.ofNat 64 x) else put32 f l n (BitVec.ofNat 32 x)

/-- Writes of a predicate (R113): under `.one`, in every active thread of the front. -/
def putPred (f : Fields) (w : Warp) (l p : Nat) (x : Bool) : List Write :=
  if p = 7 then []
  else if f.one then w.active.map fun j => .pred p j x
  else [.pred p l x]

/-- The results of every executing lane, landing at the instruction's latency (R74). -/
def alu (op : Nat) (f : Fields) (s : State) (g : Warp → Nat → List Write) : Act :=
  let w := s.warp
  let lat := match form op with | some F => F.lat.cycles | none => 4
  .next (land s (s.cycle + lat) true ((execLanes f w).map (g w)).flatten)

/-- The results of every executing lane, landing at a cycle of their own under the interlock (R373). -/
def slow (f : Fields) (s : State) (due : Nat) (g : Warp → Nat → List Write) : Act :=
  let w := s.warp
  .next (land s due false ((execLanes f w).map (g w)).flatten)

/-! ### Memory operands and translation -/

/-- The virtual address of a memory operand (09 R187). -/
def vaOf (f : Fields) (w : Warp) (l : Nat) : Nat :=
  let base := (src64 false f w l f.a).toNat
  let off := (src32 f w l f.b).toInt
  w.pc.toNat / 2 ^ 64 * 2 ^ 64 + (((base : Int) + off) % 2 ^ 64).toNat

/-- Kinds of access that translation tells apart (R189). -/
inductive Access where
  | read | write | both | fetch
deriving DecidableEq, Repr

/-- Fields of a range (14_tables R300). -/
def RangeReg.v (r : RangeReg) : Bool := r.base.getLsbD 63
def RangeReg.rd (r : RangeReg) : Bool := r.base.getLsbD 62
def RangeReg.wr (r : RangeReg) : Bool := r.base.getLsbD 61
def RangeReg.ex (r : RangeReg) : Bool := r.base.getLsbD 60
def RangeReg.us (r : RangeReg) : Bool := r.base.getLsbD 59
def RangeReg.lo (r : RangeReg) : Nat := r.base.toNat % 2 ^ 51
def RangeReg.hi (r : RangeReg) : Nat := r.lim.toNat % 2 ^ 51
def RangeReg.pkg (r : RangeReg) : Nat := r.map.toNat / 2 ^ 56
def RangeReg.loc (r : RangeReg) : Nat := r.map.toNat % 2 ^ 19

/-- The range covers a virtual address (R188). -/
def RangeReg.covers (r : RangeReg) (va : Nat) : Bool :=
  r.v && decide (r.lo ≤ va / 2 ^ 21) && decide (va / 2 ^ 21 ≤ r.hi)

/-- The lowest range that covers an address: its number and the range (R188). -/
def findRange (rs : List RangeReg) (va : Nat) : Option (Nat × RangeReg) :=
  ((List.range rs.length).zip rs).find? fun p => p.2.covers va

/-- The permission an access needs (R189). -/
def RangeReg.allows (r : RangeReg) (a : Access) (user : Bool) : Bool :=
  (match a with
   | .read => r.rd
   | .write => r.wr
   | .both => r.rd && r.wr
   | .fetch => r.ex) && (!user || r.us)

/-- Translate (R189): the intermediate address, or the cause. -/
def translate (rs : List RangeReg) (user : Bool) (a : Access) (va : Nat) : Except Nat Nat :=
  match findRange rs va with
  | none => .error 0x08
  | some (_, r) =>
    if !r.allows a user then .error 0x09
    else
      let loc := r.loc * 2 ^ 21 + (va - r.lo * 2 ^ 21)
      if 2 ^ 40 ≤ loc then .error 0x08 else .ok (r.pkg * 2 ^ 56 + loc)

/-- The eight ranges of a warp, in order. -/
def Warp.rangeList (w : Warp) : List RangeReg := (List.range 8).map fun n => Sparse.get {} w.ranges n

/-- Translation as the executing warp makes it: the S-lane does not translate (16 R334); an address on a die that the
part lacks faults with cause 0x08 (01 R20); a group under a lease that leaves the ranges of its lease is ended, cause 0x0C
(13_queues R292). -/
def translateFor (s : State) (w : Warp) (a : Access) (va : Nat) : Except Nat Nat :=
  let r := if w.single then (if va < 2 ^ 64 then .ok va else .error 0x08) else translate w.rangeList (!w.priv) a va
  match r with
  | .error c => .error c
  | .ok ia =>
    if place s ia = .here ∧ Config.dieCount s.part ≤ iaDie ia then .error 0x08
    else if leaseLeft s w va then .error 0x0C else .ok ia
where
  leaseLeft (s : State) (w : Warp) (va : Nat) : Bool :=
    !w.single && (match s.group? w.ctx, findRange w.rangeList va with
      | some g, some (n, _) => g.sett.lmask != 0 && g.sett.lmask / 2 ^ n % 2 == 0
      | _, _ => false)

/-- TRAPINFO of a memory fault (R195). See log entry 10 (DEDUCED). -/
def memInfo (lane : Nat) (write io scale rfmt : Bool) : Dword :=
  BitVec.ofNat 64 (lane * 2 ^ 32 + (if write then 2 ^ 40 else 0) + (if scale then 2 ^ 41 else 0) +
    (if io then 2 ^ 42 else 0) + (if rfmt then 2 ^ 63 else 0))

/-- The issue faults of a memory operand, lane by lane in ascending order (R206 step 2): alignment, Translate, then I/O-space misuse. Helper
lanes raise none. The answer is the lanes' virtual and intermediate addresses, a helper's intermediate address being none where its check
fails. -/
def operandCheck (s : State) (w : Warp) (a : Access) (align : Nat) (ioOk : Bool) (vas : List (Nat × Nat)) :
    Except (Nat × Nat × Nat × Bool) (List (Nat × Nat × Option Nat)) :=
  let tr := vas.map fun p => (p.1, p.2, laneCheck p.2)
  let bad (p : Nat × Nat × Except (Nat × Bool) Nat) : Option (Nat × Nat × Nat × Bool) :=
    match p.2.2 with
    | .error e => if w.live p.1 then some (e.1, p.2.1, p.1, e.2) else none
    | .ok _ => none
  match tr.findSome? bad with
  | some e => .error e
  | none => .ok (tr.map fun p => (p.1, p.2.1, match p.2.2 with | .ok ia => some ia | .error _ => none))
where
  /-- The checks of one lane: the cause, and whether it is I/O-space misuse; or the intermediate address. -/
  laneCheck (va : Nat) : Except (Nat × Bool) Nat :=
    if va % align ≠ 0 then .error (0x07, false)
    else match translateFor s w a va with
      | .error c => .error (c, false)
      | .ok ia => if !ioOk && place s ia == .io then .error (0x0B, true) else .ok ia

/-- The fault of a memory operand as an `Act` (R195). See log entry 10 (DEDUCED). -/
def operandFault (a : Access) (e : Nat × Nat × Nat × Bool) : Act :=
  .trap e.1 (BitVec.ofNat 72 e.2.1) (memInfo e.2.2.1 (a == .write || a == .both) e.2.2.2 false false)

end Sys2Proof.Machine
end

