-- ==== Sys2Proof/Machine/Flags.lean ====
section
/-! DEFINITION. The predicates that instructions compute: carries and borrows, comparisons, their combination, and truth
tables (06_integer_instructions R117, R128, R130, R132). The Izuevon has no other flags (05 R94). -/

namespace Sys2Proof.Machine

/-- Carry out of an addition of width `w` (R117). -/
def carryOut (w : Nat) (x : Int) : Bool := decide (2 ^ w ≤ x)
/-- Borrow out of a subtraction (R117). -/
def borrowOut (x : Int) : Bool := decide (x < 0)

/-- The comparison codes of `ISETP` (R115). -/
def cmpInt (code : Nat) (a b : Int) : Bool :=
  match code with
  | 0 => decide (a = b)
  | 1 => decide (a ≠ b)
  | 2 => decide (a < b)
  | 3 => decide (a ≤ b)
  | 4 => decide (b < a)
  | _ => decide (b ≤ a)

/-- The combine codes (R115): none, AND, OR, XOR. -/
def combine (code : Nat) (k p : Bool) : Bool :=
  match code with
  | 0 => k
  | 1 => k && p
  | 2 => k || p
  | _ => k != p

/-- A bit of an 8-bit truth table: weights 1, 2, 4 (R128). -/
def tableBit (tt : BitVec 8) (a b c : Bool) : Bool := tt.getLsbD (a.toNat + 2 * b.toNat + 4 * c.toNat)

end Sys2Proof.Machine
end

