-- ==== Sys2Proof/Machine/Formats.lean ====
section
/-! DEFINITION. Number formats and the one rounding procedure (05_number_formats R92 to R106). -/

namespace Sys2Proof.Machine

/-- An exact value: a NaN, an infinity, or ± m · 2^e. Zero keeps its sign. -/
inductive Val where
  | nan
  | inf (neg : Bool)
  | fin (neg : Bool) (m : Nat) (e : Int)
deriving DecidableEq, Repr

/-- A float format (R94, R96): fraction bits, exponent of the subnormal grid's spacing, code of the largest finite value,
code of +∞ if there is one, canonical NaN if there is one, bits of a code. -/
structure FloatFmt where
  mf : Nat
  q : Int
  maxCode : Nat
  inf : Option Nat
  nan : Option Nat
  bits : Nat
  emax : Int
deriving DecidableEq, Repr

def fmtF32 : FloatFmt := ⟨23, -149, 0x7F7FFFFF, some 0x7F800000, some 0x7FC00000, 32, 127⟩
def fmtBF16 : FloatFmt := ⟨7, -133, 0x7F7F, some 0x7F80, some 0x7FC0, 16, 127⟩
def fmtF16 : FloatFmt := ⟨10, -24, 0x7BFF, some 0x7C00, some 0x7E00, 16, 15⟩
def fmtE4M3 : FloatFmt := ⟨3, -9, 0x7E, none, some 0x7F, 8, 8⟩
def fmtE5M2 : FloatFmt := ⟨2, -16, 0x7B, some 0x7C, some 0x7E, 8, 15⟩
def fmtE2M3 : FloatFmt := ⟨3, -3, 0x1F, none, none, 6, 2⟩
def fmtE3M2 : FloatFmt := ⟨2, -4, 0x1F, none, none, 6, 4⟩
def fmtE2M1 : FloatFmt := ⟨1, -1, 0x7, none, none, 4, 2⟩

/-- An element format: a float, an integer range with its bits, or RN30 (R92). -/
inductive Elem where
  | float (f : FloatFmt)
  | int (lo hi : Int) (bits : Nat)
  | rn30
deriving DecidableEq, Repr

/-- The element format that a type names (R92); integer types are ranges. -/
def elemOf : Ty → Elem
  | .f32 => .float fmtF32
  | .bf16 => .float fmtBF16
  | .f16 => .float fmtF16
  | .e4m3 => .float fmtE4M3
  | .e5m2 => .float fmtE5M2
  | .e2m3 => .float fmtE2M3
  | .e3m2 => .float fmtE3M2
  | .e2m1 => .float fmtE2M1
  | .i4s => .int (-7) 7 4
  | .i8 => .int (-128) 127 8
  | .rn30 => .rn30
  | t => .int (tyMin t) (tyMax t) t.width

/-- The type that a format code names (R92): none for RAW and scale pages. -/
def fmtTy (code : Nat) : Option Ty :=
  match code % 16 with
  | 1 => some .f32
  | 2 => some .bf16
  | 3 => some .f16
  | 4 => some .e4m3
  | 5 => some .e5m2
  | 6 => some .e2m3
  | 7 => some .e3m2
  | 8 => some .e2m1
  | 9 => some .i4s
  | 10 => some .i8
  | 11 => some .rn30
  | _ => none

/-- MX geometry (R92). -/
def isMx (code : Nat) : Bool := code / 16 == 1

/-- Bits of a code below the sign. -/
def FloatFmt.signBit (f : FloatFmt) : Nat := 2 ^ (f.bits - 1)

/-- The exact value of a float code (R94, R96). -/
def FloatFmt.decode (f : FloatFmt) (code : Nat) : Val :=
  let neg := decide (f.signBit ≤ code % (2 * f.signBit))
  let mag := code % f.signBit
  let e := mag / 2 ^ f.mf
  if f.maxCode < mag then (if f.inf = some mag then .inf neg else .nan)
  else if e = 0 then .fin neg mag f.q
  else .fin neg (2 ^ f.mf + mag % 2 ^ f.mf) (f.q + (e : Int) - 1)

/-- Round up the magnitude? (R103) `k` is the part kept, and the rest is `r` of `2^sh`. -/
def roundUp (m : Rnd) (neg : Bool) (bits k r sh : Nat) : Bool :=
  if r = 0 then false
  else match m with
    | .rne => decide (2 ^ sh < 2 * r) || (2 * r == 2 ^ sh && k % 2 == 1)
    | .rtz => false
    | .rup => !neg
    | .rdn => neg
    | .rsr => decide (bits < r * 65536 / 2 ^ sh)

/-- |x| = m · 2^e as a multiple of 2^qe, rounded (R103): the multiple. A value far below the grid rounds like a value
just above 0. -/
def onGrid (m : Nat) (e qe : Int) (r : Rnd) (neg : Bool) (bits : Nat) : Nat :=
  if m = 0 then 0
  else if qe ≤ e then m * 2 ^ (e - qe).toNat
  else
    let sh := (qe - e).toNat
    let far := Nat.log2 m + 20
    if far < sh then (if roundUp r neg bits 0 1 20 then 1 else 0)
    else
      let k := m / 2 ^ sh
      k + if roundUp r neg bits k (m % 2 ^ sh) sh then 1 else 0

/-- Overflow (R105): the code without its sign, or a NaN. -/
def FloatFmt.overflow (f : FloatFmt) (r : Rnd) (neg sat : Bool) : Nat :=
  let sign := if neg then f.signBit else 0
  let toInf := match r with
    | .rne | .rsr => true
    | .rtz => false
    | .rup => !neg
    | .rdn => neg
  if sat || !toInf then sign + f.maxCode
  else match f.inf, f.nan with
    | some i, _ => sign + i
    | none, some n => n
    | none, none => sign + f.maxCode

/-- RoundAny of a finite value into a float format (R103): the code. -/
def FloatFmt.round (f : FloatFmt) (r : Rnd) (sat : Bool) (bits : Nat) (neg : Bool) (m : Nat) (e : Int) : Nat :=
  let sign := if neg then f.signBit else 0
  if m = 0 then sign
  else
    let qe := max ((Nat.log2 m : Int) + e - f.mf) f.q
    let k := onGrid m e qe r neg bits
    let code := (qe - f.q).toNat * 2 ^ f.mf + k
    if f.maxCode < code then f.overflow r neg sat else sign + code

/-- A float arithmetic result (07 R136): NaNs canonical, exact infinities whatever the saturate bit. -/
def FloatFmt.result (f : FloatFmt) (r : Rnd) (sat : Bool) : Val → Nat
  | .nan => f.nan.getD 0
  | .inf neg => (if neg then f.signBit else 0) + f.inf.getD f.maxCode
  | .fin neg m e => f.round r sat 0 neg m e

/-- A conversion into a float format (R106). -/
def FloatFmt.convert (f : FloatFmt) (r : Rnd) (sat : Bool) (bits : Nat) : Val → Nat
  | .nan => f.nan.getD 0
  | .inf neg =>
    let sign := if neg then f.signBit else 0
    if sat then sign + f.maxCode
    else match f.inf, f.nan with
      | some i, _ => sign + i
      | none, some n => n
      | none, none => sign + f.maxCode
  | .fin neg m e => f.round r sat bits neg m e

/-- RoundAny to the integers with Sat (R103, R106). A magnitude far above the range saturates without being formed. -/
def roundInt (lo hi : Int) (r : Rnd) (bits : Nat) : Val → Int
  | .nan => 0
  | .inf neg => if neg then lo else hi
  | .fin neg m e =>
    if m = 0 then 0
    else if 128 < e then (if neg then lo else hi)
    else
      let k := onGrid m e 0 r neg bits
      satInt (if neg then -(k : Int) else k) lo hi

/-- The dynamic range of RN30 (R102). -/
def rnM : Nat := 1021 * 1023 * 1024

/-- The integer with given residues (R102): by the inverses of the partial products. -/
def crt (a b c : Nat) : Nat :=
  let inv (n p : Nat) : Nat := ((List.range p).find? fun i => n % p * i % p = 1).getD 0
  let n1 := 1023 * 1024
  let n2 := 1021 * 1024
  let n3 := 1021 * 1023
  (a * n1 * inv n1 1021 + b * n2 * inv n2 1023 + c * n3 * inv n3 1024) % rnM

/-- RN30 decode (R102): none when invalid. -/
def rnDecode (x : Nat) : Option Int :=
  let a := x % 1024
  let b := x / 1024 % 1024
  let c := x / 1048576 % 1024
  if x / 2 ^ 30 % 4 ≠ 0 ∨ 1021 ≤ a ∨ 1023 ≤ b then none
  else
    let y := crt a b c
    some (if y < 534775296 then y else (y : Int) - rnM)

/-- RN30 residues of an integer, wrapping modulo M (R102, 12 R263). -/
def rnResidues (n : Int) : Nat :=
  let y := (n % (rnM : Int)).toNat
  y % 1021 + 1024 * (y % 1023) + 1048576 * (y % 1024)

/-- RN30 encode (R102): saturated to the represented range. -/
def rnEncode (n : Int) : Nat := rnResidues (satInt n (-534775296) 534775295)

/-- An integer as an exact value. -/
def valInt (x : Int) : Val := .fin (decide (x < 0)) x.natAbs 0

/-- Decode an element (R101, R102): its value, and whether the code is reserved or invalid. -/
def Elem.decode (x : Elem) (code : Nat) : Val × Bool :=
  match x with
  | .float f => (f.decode (code % 2 ^ f.bits), false)
  | .int lo _ bits =>
    let c := code % 2 ^ bits
    let v : Int := if lo < 0 ∧ 2 ^ (bits - 1) ≤ c then (c : Int) - 2 ^ bits else c
    if v < lo then (.fin false 0 0, true) else (valInt v, false)
  | .rn30 =>
    match rnDecode (code % 2 ^ 32) with
    | some v => (valInt v, false)
    | none => (.fin false 0 0, true)

/-- Encode a value by R106: the code, without the padding of a container. -/
def Elem.encode (x : Elem) (r : Rnd) (sat : Bool) (bits : Nat) (v : Val) : Nat :=
  match x with
  | .float f => f.convert r sat bits v
  | .int lo hi n => ((roundInt lo hi r bits v) % 2 ^ n).toNat
  | .rn30 => rnEncode (roundInt (-534775296) 534775295 r bits v)

/-- An E8M0 scale as an exponent (R97); none for NaN. -/
def scaleExp (c : Nat) : Option Int := if c = 0xFF then none else some ((c : Int) - 127)

/-- A value scaled by a power of two. -/
def Val.scale (v : Val) (k : Int) : Val :=
  match v with
  | .fin n m e => .fin n m (e + k)
  | v => v

/-- The value of an MX element (R99): the scale times the element; INT8 codes carry 2⁻⁶. -/
def mxValue (t : Ty) (scale : Nat) (v : Val) : Val :=
  match scaleExp scale with
  | none => .nan
  | some k => v.scale (if t = .i8 then k - 6 else k)

/-- Bytes of an MX block (R98). -/
def blockBytes (t : Ty) : Nat := t.elemBits * 4

def Val.isZero : Val → Bool
  | .fin _ 0 _ => true
  | _ => false
def Val.isFinite : Val → Bool
  | .fin _ _ _ => true
  | _ => false
/-- The exponent of the leading bit of a finite value that is not 0. -/
def Val.top : Val → Int
  | .fin _ m e => (Nat.log2 m : Int) + e
  | _ => 0

/-- emax of an element format (R100). -/
def emaxOf : Ty → Int
  | .e4m3 => 8
  | .e5m2 => 15
  | .e2m3 => 2
  | .e3m2 => 4
  | .e2m1 => 2
  | _ => 0

/-- Encode a block of an MX page (R100): the scale, and the element codes. `bits i` are the random bits of element i. -/
def encodeBlock (t : Ty) (r : Rnd) (sat : Bool) (bits : Nat → Nat) (xs : List Val) : Nat × List Nat :=
  if xs.any fun v => !v.isFinite then (0xFF, xs.map fun _ => 0)
  else
    let big := xs.filter fun v => !v.isZero
    match big with
    | [] => (0x7F, xs.map fun _ => 0)
    | v :: vs =>
      let e := vs.foldl (fun m x => max m x.top) v.top - emaxOf t
      let sc := satInt e (-127) 127
      let enc (v : Val) (i : Nat) : Nat :=
        (elemOf t).encode r sat (bits i) (v.scale (if t = .i8 then 6 - sc else -sc))
      ((sc + 127).toNat, ((List.range xs.length).zip xs).map fun p => enc p.2 p.1)

/-- Element `i` of packed bytes (R93). -/
def elemAt (bits : Nat) (bs : List Byte) (i : Nat) : Nat :=
  let start := bits * i / 8
  leBytes ((bs.drop start).take 5) / 2 ^ (bits * i % 8) % 2 ^ bits

/-- Pack element codes into bytes (R93). -/
def packElems (bits : Nat) (cs : List Nat) : List Byte :=
  toBytes ((cs.length * bits + 7) / 8) (cs.foldr (fun c x => c % 2 ^ bits + 2 ^ bits * x) 0)

/-! ### Exact sums and products (07 R136) -/

/-- A product; 0 · ∞ is invalid. -/
def Val.mul : Val → Val → Val
  | .nan, _ => .nan
  | _, .nan => .nan
  | .inf n, .inf k => .inf (n != k)
  | .inf n, .fin k m _ => if m = 0 then .nan else .inf (n != k)
  | .fin k m _, .inf n => if m = 0 then .nan else .inf (n != k)
  | .fin n m e, .fin k j d => .fin (n != k) (m * j) (e + d)

def Val.isNan : Val → Bool
  | .nan => true
  | _ => false
def Val.isInf (neg : Bool) : Val → Bool
  | .inf n => n == neg
  | _ => false
def Val.isNegZero : Val → Bool
  | .fin true 0 _ => true
  | _ => false

/-- The lowest exponent among finite values. -/
def minExp : List Val → Int
  | [] => 0
  | [.fin _ _ e] => e
  | .fin _ _ e :: r => min e (minExp r)
  | _ :: r => minExp r

/-- The exact sum of finite values, in units of 2^e0. -/
def sumAt (e0 : Int) : List Val → Int
  | [] => 0
  | .fin n m e :: r => (if n then -((m * 2 ^ (e - e0).toNat : Nat) : Int) else ((m * 2 ^ (e - e0).toNat : Nat) : Int)) + sumAt e0 r
  | _ :: r => sumAt e0 r

/-- A sum (R136): ∞ − ∞ is invalid; the sign of an exact zero is fixed before rounding. -/
def sumVals (r : Rnd) (xs : List Val) : Val :=
  if xs.any Val.isNan then .nan
  else if xs.any (Val.isInf false) && xs.any (Val.isInf true) then .nan
  else if xs.any (Val.isInf false) then .inf false
  else if xs.any (Val.isInf true) then .inf true
  else
    let e0 := minExp xs
    let t := sumAt e0 xs
    if t = 0 then .fin (xs.all Val.isNegZero || r == .rdn) 0 0
    else .fin (decide (t < 0)) t.natAbs e0

def Val.neg : Val → Val
  | .nan => .nan
  | .inf n => .inf (!n)
  | .fin n m e => .fin (!n) m e
def Val.abs : Val → Val
  | .nan => .nan
  | .inf _ => .inf false
  | .fin _ m e => .fin false m e

/-- Order of two values that are not NaNs, −0 equal to +0. -/
def Val.lt (a b : Val) : Bool :=
  match a, b with
  | .inf n, .inf k => n && !k
  | .inf n, .fin _ _ _ => n
  | .fin _ _ _, .inf n => !n
  | .fin n m e, .fin k j d =>
    let e0 := min e d
    let x : Int := (m * 2 ^ (e - e0).toNat : Nat)
    let y : Int := (j * 2 ^ (d - e0).toNat : Nat)
    decide ((if n then -x else x) < (if k then -y else y))
  | _, _ => false

end Sys2Proof.Machine
end

