-- ==== Sys2Proof/Machine/FloatFn.lean ====
section
/-! DEFINITION. The functions of 07_float_and_lane_instructions R143. Each answers a value that rounds, in every mode and to
every precision of R94, as the exact function value does: an irrational value is cut to a multiple of 2^−P and one more bit is set
below it (log entry 21). -/

namespace Sys2Proof.Machine

/-- Fraction bits of the fixed-point numbers of this file. See log entry 21 (PRESUMED). -/
def fixP : Nat := 900

/-- Fraction bits that an irrational result keeps. See log entry 21 (PRESUMED). -/
def keepP : Nat := 700

/-- The integer square root. -/
def isqrt (bits y : Nat) : Nat :=
  (List.range bits).reverse.foldl (fun r i => if (r + 2 ^ i) * (r + 2 ^ i) ≤ y then r + 2 ^ i else r) 0

/-- An irrational value from its fixed-point form, with the low bits dropped and a bit set below. See log entry 21 (PRESUMED). -/
def fixVal (x : Int) : Val :=
  .fin (decide (x < 0)) (2 * (x.natAbs / 2 ^ (fixP - keepP)) + 1) (-(keepP + 1 : Nat))

/-- Σ sign^k · z^(2k+1) / (2k+1) in fixed point, `n` terms. -/
def oddSeries (alternate : Bool) (z n : Nat) : Nat :=
  let z2 := z * z / 2 ^ fixP
  let r := (List.range n).foldl (fun (acc : Int × Nat) k =>
    let t : Int := (acc.2 / (2 * k + 1) : Nat)
    (if alternate && k % 2 == 1 then acc.1 - t else acc.1 + t, acc.2 * z2 / 2 ^ fixP)) ((0 : Int), z)
  r.1.toNat

/-- π, by 16 arctan (1/5) − 4 arctan (1/239). -/
def fixPi : Nat := 16 * oddSeries true (2 ^ fixP / 5) 200 - 4 * oddSeries true (2 ^ fixP / 239) 60

/-- ln 2 = 2 artanh (1/3). -/
def fixLn2 : Nat := 2 * oddSeries false (2 ^ fixP / 3) 290

/-- e^x for 0 ≤ x < 1 in fixed point. -/
def fixExp (x : Nat) : Nat :=
  ((List.range 170).foldl (fun (acc : Nat × Nat) k => (acc.1 + acc.2, acc.2 * x / 2 ^ fixP / (k + 1))) (0, 2 ^ fixP)).1

/-- sin x and cos x for 0 ≤ x < 2 in fixed point. -/
def fixSinCos (x : Nat) : Int × Int :=
  let r := (List.range 200).foldl (fun (acc : Int × Int × Nat) k =>
    let t : Int := acc.2.2
    let next := acc.2.2 * x / 2 ^ fixP / (k + 1)
    match k % 4 with
    | 0 => (acc.1, acc.2.1 + t, next)
    | 1 => (acc.1 + t, acc.2.1, next)
    | 2 => (acc.1, acc.2.1 - t, next)
    | _ => (acc.1 - t, acc.2.1, next)) ((0 : Int), (0 : Int), 2 ^ fixP)
  (r.1, r.2.1)

/-- m · 2^e in fixed point. -/
def toFix (m : Nat) (e : Int) : Nat :=
  let k := e + fixP
  if 0 ≤ k then m * 2 ^ k.toNat else m / 2 ^ (-k).toNat

/-- An even exponent for a square root: m · 2^e with e even. -/
def evenExp (m : Nat) (e : Int) : Nat × Int := if e % 2 = 0 then (m, e) else (2 * m, e - 1)

def one_ : Val := .fin false 1 0

/-- 1/A (R143). See log entry 21 (PRESUMED). -/
def fnRcp : Val → Val
  | .nan => .nan
  | .inf n => .fin n 0 0
  | .fin n m e =>
    if m = 0 then .inf n
    else
      let q := 2 ^ 200 / m
      .fin n (2 * q + if 2 ^ 200 % m = 0 then 0 else 1) (-201 - e)

/-- 1/√A (R143). See log entry 21 (PRESUMED). -/
def fnRsq : Val → Val
  | .nan => .nan
  | .inf n => if n then .nan else .fin false 0 0
  | .fin n m e =>
    if m = 0 then .inf n
    else if n then .nan
    else
      let (m, e) := evenExp m e
      let r := isqrt 202 (2 ^ 400 / m)
      .fin false (2 * r + if m * (r * r) = 2 ^ 400 then 0 else 1) (-201 - e / 2)

/-- √A (R143). See log entry 21 (PRESUMED). -/
def fnSqrt : Val → Val
  | .nan => .nan
  | .inf n => if n then .nan else .inf false
  | .fin n m e =>
    if m = 0 then .fin n 0 0
    else if n then .nan
    else
      let (m, e) := evenExp m e
      let r := isqrt 120 (m * 2 ^ 200)
      .fin false (2 * r + if r * r = m * 2 ^ 200 then 0 else 1) (-101 + e / 2)

/-- 2^A (R143). Far outside the range of every format a value that rounds the same stands for it. See log entry 21 (PRESUMED). -/
def fnExp2 : Val → Val
  | .nan => .nan
  | .inf n => if n then .fin false 0 0 else .inf false
  | .fin n m e =>
    if m = 0 then one_
    else if 10 < (Nat.log2 m : Int) + e then .fin false 1 (if n then -1000 else 1000)
    else
      let x := toFix m e
      let t : Int := if n then -(x : Int) else x
      let k := t / 2 ^ fixP
      let f := (t % 2 ^ fixP).toNat
      if f = 0 then .fin false 1 k
      else match fixVal (fixExp (f * fixLn2 / 2 ^ fixP) : Nat) with
        | .fin s a b => .fin s a (b + k)
        | v => v

/-- log₂ A (R143). See log entry 21 (PRESUMED). -/
def fnLog2 : Val → Val
  | .nan => .nan
  | .inf n => if n then .nan else .inf false
  | .fin n m e =>
    if m = 0 then .inf true
    else if n then .nan
    else
      let k := Nat.log2 m
      let i : Int := (k : Int) + e
      if m = 2 ^ k then .fin (decide (i < 0)) i.natAbs 0
      else
        let x := toFix m (-(k : Int))
        let z := (x - 2 ^ fixP) * 2 ^ fixP / (x + 2 ^ fixP)
        fixVal (i * 2 ^ fixP + (2 * oddSeries false z 290 * 2 ^ fixP / fixLn2 : Nat))

/-- The quadrant of |A| and sin and cos of what is left of it. -/
def quadrant (m : Nat) (e : Int) : Nat × Int × Int :=
  let x := toFix m e
  let h := fixPi / 2
  (x / h % 4, fixSinCos (x % h))

/-- sin A (R143). See log entry 21 (PRESUMED). -/
def fnSin : Val → Val
  | .fin n m e =>
    if m = 0 then .fin n 0 0
    else
      let (k, s, c) := quadrant m e
      let y := match k with
        | 0 => s
        | 1 => c
        | 2 => -s
        | _ => -c
      fixVal (if n then -y else y)
  | _ => .nan

/-- cos A (R143). See log entry 21 (PRESUMED). -/
def fnCos : Val → Val
  | .fin _ m e =>
    if m = 0 then one_
    else
      let (k, s, c) := quadrant m e
      fixVal (match k with
        | 0 => c
        | 1 => -s
        | 2 => -c
        | _ => s)
  | _ => .nan

/-- tanh A = (1 − 2^−2A/ln2) / (1 + 2^−2A/ln2) (R143). Beyond 64 a value that rounds the same stands for it. See log entry 21 (PRESUMED). -/
def fnTanh : Val → Val
  | .nan => .nan
  | .inf n => .fin n 1 0
  | .fin n m e =>
    if m = 0 then .fin n 0 0
    else if 5 < (Nat.log2 m : Int) + e then .fin n (2 ^ 100 - 1) (-100)
    else
      let t := 2 * toFix m e * 2 ^ fixP / fixLn2
      let k := t / 2 ^ fixP
      let f := t % 2 ^ fixP
      let q := 2 ^ (2 * fixP) / fixExp (f * fixLn2 / 2 ^ fixP) / 2 ^ k
      let y : Int := ((2 ^ fixP - q) * 2 ^ fixP / (2 ^ fixP + q) : Nat)
      fixVal (if n then -y else y)

end Sys2Proof.Machine
end

