-- ==== Sys2Proof/Machine/Float.lean ====
section
/-! DEFINITION. Floating-point and conversion instructions (07_float_and_lane_instructions R133 to R147). -/

namespace Sys2Proof.Machine

/-- The format of a float type. -/
def floatFmt : Ty → FloatFmt
  | .bf16 => fmtBF16
  | .f16 => fmtF16
  | _ => fmtF32

/-- Negate and absolute value on source a; negate on source b (R135). -/
def modA (f : Fields) (v : Val) : Val := let v := if f.absA then v.abs else v; if f.negA then v.neg else v
def modB (f : Fields) (v : Val) : Val := if f.negB then v.neg else v

/-- A scalar float source of a type (R135). -/
def srcVal (t : Ty) (f : Fields) (w : Warp) (l : Nat) (x : Src) : Val :=
  (floatFmt t).decode ((src32 f w l x).toNat % 2 ^ t.width)

/-- An F32 result of A, B and C (R136, R138). -/
def f32Body (op : Nat) (g : Rnd → Val → Val → Val → Val) (f : Fields) (s : State) : Act :=
  alu op f s fun w l => put32 f l f.d.toNat (BitVec.ofNat 32 (fmtF32.result f.rnd f.sat
    (g f.rnd (modA f (srcVal .f32 f w l f.a)) (modB f (srcVal .f32 f w l f.b)) (srcVal .f32 f w l f.c))))

def faddBody : Fields → State → Act := f32Body 0x040 fun r a b _ => sumVals r [a, b]
def fmulBody : Fields → State → Act := f32Body 0x042 fun _ a b _ => a.mul b

def execFadd (f : Fields) (s : State) := issueX 0x040 f s faddBody
def execFsub (f : Fields) (s : State) := issueX 0x041 f s (f32Body 0x041 fun r a b _ => sumVals r [a, b.neg])
def execFmul (f : Fields) (s : State) := issueX 0x042 f s fmulBody
def execFfma (f : Fields) (s : State) := issueX 0x043 f s (f32Body 0x043 fun r a b c => sumVals r [a.mul b, c])

/-- −0 orders below +0 (R139). -/
def Val.below (a b : Val) : Bool := a.lt b || (a.isZero && b.isZero && a.isNegZero && !b.isNegZero)
/-- `FMIN` and `FMAX` of two values (R139). -/
def minVal (a b : Val) : Val := if a.isNan then b else if b.isNan then a else if b.below a then b else a
def maxVal (a b : Val) : Val := if a.isNan then b else if b.isNan then a else if a.below b then b else a
def fminBody : Fields → State → Act := f32Body 0x044 fun _ a b _ => minVal a b
def fmaxBody : Fields → State → Act := f32Body 0x045 fun _ a b _ => maxVal a b
def execFmin (f : Fields) (s : State) := issueX 0x044 f s fminBody
def execFmax (f : Fields) (s : State) := issueX 0x045 f s fmaxBody

/-- The comparison codes of `FSETP` (R137, R140). -/
def cmpVal (code : Nat) (a b : Val) : Bool :=
  let num := !a.isNan && !b.isNan
  match code with
  | 0 => num && !a.lt b && !b.lt a
  | 1 => !num || a.lt b || b.lt a
  | 2 => num && a.lt b
  | 3 => num && !b.lt a
  | 4 => num && b.lt a
  | 5 => num && !a.lt b
  | 6 => num
  | _ => !num
def execFsetp (f : Fields) (s : State) := issueX 0x046 f s fun f s =>
  let t := f.tyOf 0x046
  alu 0x046 f s fun w l => putPred f w l f.d.toNat
    (combine (f.clsBits 3 2) (cmpVal (f.clsBits 0 3) (modA f (srcVal t f w l f.a)) (modB f (srcVal t f w l f.b)))
      (srcPred w l f.c))

/-- The class of a float code: the bit of R141. -/
def FloatFmt.classOf (f : FloatFmt) (code : Nat) : Nat :=
  let mag := code % f.signBit
  let neg := decide (f.signBit ≤ code % (2 * f.signBit))
  match f.decode code with
  | .nan => if mag / 2 ^ (f.mf - 1) % 2 = 1 then 9 else 8
  | .inf _ => if neg then 0 else 7
  | .fin _ m _ =>
    if m = 0 then (if neg then 3 else 4)
    else if mag < 2 ^ f.mf then (if neg then 2 else 5)
    else (if neg then 1 else 6)
def execFclass (f : Fields) (s : State) := issueX 0x047 f s fun f s =>
  let t := f.tyOf 0x047
  alu 0x047 f s fun w l => put32 f l f.d.toNat
    (BitVec.ofNat 32 (2 ^ (floatFmt t).classOf ((src32 f w l f.a).toNat % 2 ^ t.width)))

/-- The quarter's function unit accepts one instruction every 2 cycles (R144). -/
def function (delay : Nat) (g : Val → Val) (f : Fields) (s : State) : Act :=
  let q := quarterOf s.selfSlot
  let k := s.core s.selfCore
  let x : Quarter := Sparse.get {} k.quarters q
  if s.cycle < x.fnNext then .wait
  else
    let s := s.setCore s.selfCore { k with quarters := Sparse.put k.quarters q { x with fnNext := s.cycle + 2 } }
    slow f s (s.cycle + delay) fun w l => put32 f l f.d.toNat
      (BitVec.ofNat 32 (fmtF32.result f.rnd f.sat (g (modA f (srcVal .f32 f w l f.a)))))
def execFrcp (f : Fields) (s : State) := issueX 0x048 f s (function 18 fnRcp)
def execFrsq (f : Fields) (s : State) := issueX 0x049 f s (function 18 fnRsq)
def execFsqrt (f : Fields) (s : State) := issueX 0x04A f s (function 18 fnSqrt)
def execFexp2 (f : Fields) (s : State) := issueX 0x04B f s (function 18 fnExp2)
def execFlog2 (f : Fields) (s : State) := issueX 0x04C f s (function 18 fnLog2)
def execFsin (f : Fields) (s : State) := issueX 0x04D f s (function 26 fnSin)
def execFcos (f : Fields) (s : State) := issueX 0x04E f s (function 26 fnCos)
def execFtanh (f : Fields) (s : State) := issueX 0x04F f s (function 26 fnTanh)

/-- `FSCALE` (R142): B is an integer. -/
def execFscale (f : Fields) (s : State) := issueX 0x050 f s fun f s =>
  alu 0x050 f s fun w l => put32 f l f.d.toNat (BitVec.ofNat 32 (fmtF32.result f.rnd f.sat
    ((modA f (srcVal .f32 f w l f.a)).scale (src32 f w l f.b).toInt)))

/-- A value rounded to an integral value (R142). -/
def toIntegral (r : Rnd) : Val → Val
  | .fin n m e => if 0 ≤ e then .fin n m e else .fin n (onGrid m e 0 r n 0) 0
  | v => v
def execFrnd (f : Fields) (s : State) := issueX 0x051 f s fun f s =>
  alu 0x051 f s fun w l => put32 f l f.d.toNat (BitVec.ofNat 32 (fmtF32.result f.rnd false
    (toIntegral f.rnd (modA f (srcVal .f32 f w l f.a)))))

/-- Bits of an element's container in a register (R146). -/
def containerBits : Ty → Nat
  | .e2m3 | .e3m2 => 8
  | t => t.width

/-- The random bits of a conversion (R137). -/
def rndBits (f : Fields) (w : Warp) (l : Nat) : Nat := if f.rnd = .rsr then (src32 f w l f.c).toNat % 65536 else 0

/-- The source element of `FCVT` in a lane, decoded: its value, and whether it was reserved (R101, R102). -/
def cvtSource (f : Fields) (w : Warp) (l : Nat) : Val × Bool :=
  let t := (Ty.ofCode (f.clsBits 0 5)).getD .f32
  (elemOf t).decode ((src32 f w l f.a).toNat / 2 ^ (containerBits t * f.subBits 3 3) % 2 ^ t.elemBits)

/-- `FCVT` (R146): each reserved source code of an executing thread adds one to the core's counter (05 R109). -/
def execFcvt (f : Fields) (s : State) := issueX 0x052 f s fun f s =>
  let w := s.warp
  let n := ((execLanes f w).filter fun l => (cvtSource f w l).2).length
  alu 0x052 f (countReserved s s.selfCore n) fun w l =>
    let code := (elemOf f.ty).encode f.rnd f.sat (rndBits f w l) (modA f (cvtSource f w l).1)
    let b := containerBits f.ty
    let pos := b * f.subBits 0 3
    let old := if f.subBits 6 1 = 1 then (rd f w l f.d.toNat).toNat else 0
    put32 f l f.d.toNat (BitVec.ofNat 32
      (old / 2 ^ (pos + b) * 2 ^ (pos + b) + code % 2 ^ b * 2 ^ pos + old % 2 ^ pos))

/-- `I2F` (R147). -/
def execI2f (f : Fields) (s : State) := issueX 0x053 f s fun f s =>
  let t := (Ty.ofCode (f.clsBits 0 5)).getD .s32
  alu 0x053 f s fun w l => put32 f l f.d.toNat (BitVec.ofNat 32
    ((floatFmt (f.tyOf 0x053)).convert f.rnd f.sat (rndBits f w l) (valInt (srcInt t f w l f.a))))

/-- `F2I` (R147). -/
def execF2i (f : Fields) (s : State) := issueX 0x054 f s fun f s =>
  let t := f.tyOf 0x054
  alu 0x054 f s fun w l =>
    let v := modA f (srcVal ((Ty.ofCode (f.clsBits 0 5)).getD .f32) f w l f.a)
    putTy t f l f.d.toNat (outInt t false (roundInt (tyMin t) (tyMax t) f.rnd (rndBits f w l) v))

/-- Element `i` of a packed pair (R135). -/
def halfVal (t : Ty) (i : Nat) (f : Fields) (w : Warp) (l : Nat) (x : Src) : Val :=
  (floatFmt t).decode ((src32 f w l x).toNat / 2 ^ (16 * i) % 65536)

/-- The packed instructions (R145), element by element. -/
def packedBody (op : Nat) (g : Rnd → Val → Val → Val → Val) (f : Fields) (s : State) : Act :=
  let t := f.tyOf op
  alu op f s fun w l =>
    let y (i : Nat) : Nat := (floatFmt t).result f.rnd f.sat
      (g f.rnd (modA f (halfVal t i f w l f.a)) (modB f (halfVal t i f w l f.b)) (halfVal t i f w l f.c))
    put32 f l f.d.toNat (BitVec.ofNat 32 (y 0 + 65536 * y 1))
def execHadd2 (f : Fields) (s : State) := issueX 0x055 f s (packedBody 0x055 fun r a b _ => sumVals r [a, b])
def execHmul2 (f : Fields) (s : State) := issueX 0x056 f s (packedBody 0x056 fun _ a b _ => a.mul b)
def execHfma2 (f : Fields) (s : State) := issueX 0x057 f s (packedBody 0x057 fun r a b c => sumVals r [a.mul b, c])

/-- `FDOT2` (R145): the exact sum, rounded once. -/
def execFdot2 (f : Fields) (s : State) := issueX 0x058 f s fun f s =>
  let t := f.tyOf 0x058
  alu 0x058 f s fun w l =>
    let p (i : Nat) : Val := (modA f (halfVal t i f w l f.a)).mul (modB f (halfVal t i f w l f.b))
    put32 f l f.d.toNat (BitVec.ofNat 32 (fmtF32.result f.rnd f.sat
      (sumVals f.rnd [p 0, p 1, srcVal .f32 f w l f.c])))

/-! ### Short forms (03_encoding R61) -/

def execFaddShort (k : Short) (s : State) := issueK 0x0D k s faddBody
def execFmulShort (k : Short) (s : State) := issueK 0x0E k s fmulBody
def execFminShort (k : Short) (s : State) := issueK 0x0F k s fminBody
def execFmaxShort (k : Short) (s : State) := issueK 0x10 k s fmaxBody

end Sys2Proof.Machine
end

