-- ==== Sys2Proof/Machine/Lanes.lean ====
section
/-! DEFINITION. Registers-and-lanes instructions (07_float_and_lane_instructions R148 to R161; 04_registers R87). -/

namespace Sys2Proof.Machine

/-- A. -/
def movBody (f : Fields) (s : State) : Act :=
  let t := f.tyOf 0x080
  alu 0x080 f s fun w l => putTy t f l f.d.toNat (srcBits t f w l f.a)
def execMov (f : Fields) (s : State) := issueX 0x080 f s movBody
def execMovShort (k : Short) (s : State) := issueK 0x01 k s movBody

/-- The literal (R150). -/
def movkBody (f : Fields) (s : State) : Act :=
  let t := f.tyOf 0x081
  alu 0x081 f s fun w l => putTy t f l f.d.toNat (srcBits t f w l f.a)
def execMovk (f : Fields) (s : State) := issueX 0x081 f s movkBody
def execMovkShort (k : ShortLit) (s : State) :=
  issue 0x081 (k.word :: litWords (some k.lit)) k.ext.2 s (movkBody { k.ext.2 with one := k.ext.2.one && !s.onSl })

/-- The register number that a thread computes (R151). -/
def indirect (f : Fields) (w : Warp) (l : Nat) : Nat := (src32 f w l f.a + src32 f w l f.b).toNat

/-- Wait until everything issued has landed and no block is held (R151). See log entry 33 (DEDUCED). -/
def quiet (w : Warp) : Bool :=
  w.pend.isEmpty && w.marks.all fun m => m.2.regs.isEmpty && m.2.sregs.isEmpty && m.2.preds.isEmpty && m.2.busy.isEmpty

/-- The first executing lane for which the register that `MOVI` reads is in error: lane and register (16_events R341). -/
def indirectErr (op : Nat) (f : Fields) (w : Warp) : Option (Nat × Nat) :=
  if w.regErrs = [] ∨ op ≠ 0x082 then none
  else (execLanes f w).findSome? fun l =>
    ((List.range ((f.tyOf op).width / 32)).map (indirect f w l + ·)).find? (fun n => w.regErrs.contains (n * 32 + l)) |>.map fun n => (l, n)

/-- The check that `MOVI` and `MOVX` share (R151), and then their writes. See log entry 33 (DEDUCED). -/
def indirectBody (op : Nat) (g : Ty → Warp → Nat → Nat → List Write) (f : Fields) (s : State) : Act :=
  let w := s.warp
  let t := f.tyOf op
  if !quiet w then .wait
  else match (execLanes f w).find? fun l =>
      let n := indirect f w l
      decide (511 < n) || !w.holdsReg n || (t.width == 64 && n % 2 == 1) with
  | some l => .trap 0x04 0 (BitVec.ofNat 64 (indirect f w l + 2 ^ 32 * l))
  | none => match indirectErr op f w with
    | some (l, n) => .trap 0x12 0 (errInfo 1 l n)
    | none => alu op f s fun w l => g t w l (indirect f w l)

def execMovi (f : Fields) (s : State) := issueX 0x082 f s fun f s =>
  indirectBody 0x082 (fun t w l n => putTy t f l f.d.toNat
    (if t.width = 64 then (w.pair n l).toNat else (w.reg n l).toNat)) f s
def execMovx (f : Fields) (s : State) := issueX 0x083 f s fun f s =>
  indirectBody 0x083 (fun t w l n => putTy t f l n (srcBits t f w l f.c)) f s

/-- Uniform register to every thread (R152). -/
def execS2v (f : Fields) (s : State) := issueX 0x084 f s fun f s =>
  let t := f.tyOf 0x084
  let k := match f.a with | .reg n => n.toNat | _ => 0
  alu 0x084 f s fun w l => putTy t f l f.d.toNat
    (if t.width = 64 then (w.spair k).toNat else (w.sreg k).toNat)

/-- One lane to a uniform register, once for the warp (R152). -/
def execV2s (f : Fields) (s : State) := issueX 0x085 f s fun f s =>
  let t := f.tyOf 0x085
  let w := s.warp
  match actor f w with
  | none => .next s
  | some first =>
    let lane := if f.subBits 5 1 = 1 then first else f.subBits 0 5
    let x := BitVec.ofNat 64 (srcBits t f w lane f.a)
    let d := f.d.toNat
    .next (land s (s.cycle + 4) true
      (.sreg d (x.setWidth 32) :: if t.width = 64 then [.sreg (d + 1) ((x >>> 32).setWidth 32)] else []))

/-- Threads of the executing warp's group, each with its warp index and lane; those of evicted warps among them (R174). -/
def groupThreads (s : State) (core ctx : Nat) : List (Nat × Nat × Thread) :=
  let here := ((s.core core).warps.filter fun p => p.1 != 64 && p.2.ctx == ctx).map fun p =>
    p.2.threads.map fun t => (p.2.wix, t.1, t.2)
  let away := match s.group? ctx with
    | some g => g.away.map fun p => p.2.map fun t => (p.1, t.1, t.2)
    | none => []
  (here ++ away).flatten

/-- Live members of a team (R174). -/
def teamSize (s : State) (core ctx : Nat) (team : Byte) : Nat :=
  ((groupThreads s core ctx).filter fun t => t.2.2.life == .live && t.2.2.team == team).length

/-- A special value (R87). -/
def special (s : State) (w : Warp) (l n : Nat) : Nat :=
  let g := s.group? w.ctx
  match n with
  | 0x00 => if w.single then 0 else w.wix * 32 + l
  | 0x01 => if w.single then 0 else l
  | 0x02 => if w.single then 0 else l / 4
  | 0x03 => if w.single then 0 else w.wix
  | 0x04 => if w.single then 0 else match g with | some g => g.index | none => 0
  | 0x05 => if w.single then 0 else match g with | some g => g.sett.arg % 2 ^ 32 | none => 0
  | 0x06 => s.selfCore
  | 0x07 => s.selfCore / 48
  | 0x08 => s.pkg
  | 0x09 => s.now
  | 0x0A => s.cycle
  | 0x0B => if w.single then 0 else if w.live l then (w.thread l).rank.toNat else 0xFFFFFFFF
  | _ => if w.single then 1 else
      teamSize s s.selfCore w.ctx (w.thread (if w.live l then l else (w.leader l).getD l)).team

/-- `RDS` (R87, R88-form): the result lands 6 cycles after issue (R373). -/
def execRds (f : Fields) (s : State) := issueX 0x086 f s fun f s =>
  let n := f.sub.toNat
  slow f s (s.cycle + 6) fun w l =>
    let x := special s w l n
    if n = 9 ∨ n = 10 then put64 f l f.d.toNat (BitVec.ofNat 64 x) else put32 f l f.d.toNat (BitVec.ofNat 32 x)

/-- Gather by lane (R155). -/
def execPerm (f : Fields) (s : State) := issueX 0x087 f s fun f s =>
  let t := f.tyOf 0x087
  alu 0x087 f s fun w l => putTy t f l f.d.toNat (srcBits t f w ((src32 f w l f.b).toNat % 32) f.a)

/-- The source lane of `SHFL` (R156). -/
def shflLane (mode n t b : Nat) : Nat :=
  let o := t % n
  let base := t - o
  match mode with
  | 0 => base + b % n
  | 1 => base + (o + b) % n
  | 2 => base + (o + n - b % n) % n
  | _ => base + Nat.xor o (b % n)
def execShfl (f : Fields) (s : State) := issueX 0x088 f s fun f s =>
  let t := f.tyOf 0x088
  alu 0x088 f s fun w l =>
    let j := shflLane (f.subBits 0 2) (2 ^ f.subBits 2 3) l (src32 f w l f.b).toNat
    let ok := (execLanes f w).contains j
    putTy t f l f.d.toNat (srcBits t f w (if ok then j else l) f.a) ++ putPred f w l (f.clsBits 0 3) ok

/-- Quad exchanges (R157). -/
def execQswap (f : Fields) (s : State) := issueX 0x089 f s fun f s =>
  let t := f.tyOf 0x089
  alu 0x089 f s fun w l => putTy t f l f.d.toNat (srcBits t f w (Nat.xor l (f.subBits 0 2)) f.a)
def execQbcast (f : Fields) (s : State) := issueX 0x08A f s fun f s =>
  let t := f.tyOf 0x08A
  alu 0x08A f s fun w l => putTy t f l f.d.toNat (srcBits t f w (l / 4 * 4 + f.subBits 0 2) f.a)

/-- Nibble lookup (R158). -/
def lookup16 (table b : Nat) : Nat :=
  (List.range 8).foldl (fun x i => x + 16 ^ i * (table / 16 ^ (b / 16 ^ i % 16) % 16)) 0
def execLut16 (f : Fields) (s : State) := issueX 0x08B f s fun f s =>
  alu 0x08B f s fun w l => put32 f l f.d.toNat
    (BitVec.ofNat 32 (lookup16 (src64 false f w l f.a).toNat (src32 f w l f.b).toNat))

/-- Participants of a vote, reduction or scan (R159), ascending. See log entry 33 (DEDUCED). -/
def participants (f : Fields) (w : Warp) : List Nat := (execLanes f w).filter w.live
/-- Threads that receive the result: participants, and the helpers of the front (R159). See log entry 33 (DEDUCED). -/
def receivers (f : Fields) (w : Warp) : List Nat :=
  w.active.filter fun l => !w.live l || guardOf f w l

def execVote (f : Fields) (s : State) := issueX 0x08C f s fun f s =>
  let w := s.warp
  let ps := participants f w
  if ps.isEmpty then .next s
  else
    let vs := ps.map fun l => srcPred w l f.a
    let yes := ps.filter fun l => srcPred w l f.a
    let writes := (receivers f w).map fun l =>
      match f.sub.toNat with
      | 0 => putPred f w l f.d.toNat (vs.all id)
      | 1 => putPred f w l f.d.toNat (vs.any id)
      | 2 => putPred f w l f.d.toNat (vs.all id || !vs.any id)
      | _ => put32 f l f.d.toNat (maskOf yes)
    .next (land s (s.cycle + 6) true writes.flatten)

/-- The combination of integer terms (R160). -/
def combineInt (t : Ty) (op : Nat) (xs : List Int) : Int :=
  let bits (g : Nat → Nat → Nat) (e : Nat) : Int := (xs.foldl (fun a x => g a (x % 2 ^ t.width).toNat) e : Nat)
  match op with
  | 0 => xs.foldl (· + ·) 0
  | 1 => xs.foldl min (tyMax t)
  | 2 => xs.foldl max (tyMin t)
  | 3 => bits Nat.land (2 ^ t.width - 1)
  | 4 => bits Nat.lor 0
  | _ => bits Nat.xor 0

/-- The combination of F32 terms (R160). -/
def combineF32 (op : Nat) (vs : List Val) : Val :=
  match op with
  | 6 => if vs.isEmpty then .fin false 0 0 else sumVals .rne vs
  | 7 => match vs with
    | [] => .inf false
    | v :: r => r.foldl minVal v
  | _ => match vs with
    | [] => .inf true
    | v :: r => r.foldl maxVal v

/-- The combination over some lanes, as the bits of the result. -/
def combined (t : Ty) (op : Nat) (f : Fields) (w : Warp) (ls : List Nat) : Nat :=
  if 6 ≤ op then fmtF32.result .rne false (combineF32 op (ls.map fun l => srcVal .f32 f w l f.a))
  else outInt t false (combineInt t op (ls.map fun l => srcInt t f w l f.a))

/-- `REDUX` and `SCANX` (R160, R161): `sel` picks the participants that a lane combines over. Integer types of 8 and 16 bits land as those of 32 do.
See log entry 57 (DESIGN CHOICE). -/
def reduceBody (op delay : Nat) (sel : Warp → Nat → Nat → Bool) (f : Fields) (s : State) : Act :=
  let w := s.warp
  let t := f.tyOf op
  let k := f.subBits 0 4
  let ps := participants f w
  if ps.isEmpty then .next s
  else
    let extra := if t.width = 64 ∨ 6 ≤ k then 4 else 0
    .next (land s (s.cycle + delay + extra) false ((receivers f w).map fun l =>
      putTy t f l f.d.toNat (combined t k f w (ps.filter (sel w l)))).flatten)
def execRedux (f : Fields) (s : State) := issueX 0x08D f s (reduceBody 0x08D 8 fun _ _ _ => true)
def execScanx (f : Fields) (s : State) := issueX 0x08E f s fun f s =>
  reduceBody 0x08E 10 (fun w l j =>
    if f.subBits 4 1 = 1 || !w.live l then decide (j < l) else decide (j ≤ l)) f s

/-- Predicates to a register and back (R154). -/
def execP2v (f : Fields) (s : State) := issueX 0x08F f s fun f s =>
  alu 0x08F f s fun w l => put32 f l f.d.toNat ((w.thread l).preds.setWidth 32)
def execV2p (f : Fields) (s : State) := issueX 0x090 f s fun f s =>
  alu 0x090 f s fun w l =>
    let a := src32 f w l f.a
    ((List.range 7).map fun i => if f.sub.getLsbD i then putPred f w l i (a.getLsbD i) else []).flatten

end Sys2Proof.Machine
end

