-- ==== Sys2Proof/Machine/Cache.lean ====
section
/-! DEFINITION. The L1 of a core: live copies, software-managed lines, fills and evictions (09_memory_spaces R197 to R202),
and the operations in flight that carry writes home. -/

namespace Sys2Proof.Machine

/-! ### Operations in flight -/

/-- A new operation: its number, and the state that holds it. -/
def newOp (s : State) (o : MemOp) : Nat × State :=
  (s.nextId, { (s.setOp s.nextId o) with nextId := s.nextId + 1 })

/-- An operation of the executing warp, without its lanes. -/
def opOf (s : State) (kind : OpKind) (op : Nat) (f : Fields) : MemOp :=
  let w := s.warp
  { kind, core := s.selfCore, slot := s.selfSlot, gen := w.gen, ctx := w.ctx, wix := w.wix, user := !w.priv,
    tenant := w.tenant.toNat, pc := w.pc.toNat, f, op, one := f.one, lanes := [], since := s.cycle, tick := s.now,
    lease := (s.core s.selfCore).leaselen.toNat }

def MemOp.who (o : MemOp) : Who := ⟨o.user, o.tenant⟩
def MemOp.part (o : MemOp) (k : Nat) : Leg := o.parts.getD k { ia := 0, lanes := [] }
def MemOp.setPart (o : MemOp) (k : Nat) (p : Leg) : MemOp := { o with parts := o.parts.set k p }
/-- Change some lanes. -/
def MemOp.onLanes (o : MemOp) (ls : List Nat) (g : Lane → Lane) : MemOp :=
  { o with lanes := o.lanes.map fun x => if ls.contains x.lane then g x else x }
/-- The operation is one of another package (17_platform R355). -/
def MemOp.far (o : MemOp) : Bool := decide (300 ≤ o.core) && decide (o.core < 492)
/-- The warp that issued an operation still stands where it stood (10_ordering R232). -/
def here (s : State) (o : MemOp) : Bool :=
  match Sparse.get? (s.core o.core).warps o.slot with
  | some w => w.gen == o.gen
  | none => false
/-- Change the warp of a slot. -/
def modWarp (s : State) (c k : Nat) (g : Warp → Warp) : State := s.setWarpAt c k (g (s.warpAt c k))

/-! ### Unacknowledged stores (10_ordering R231) -/

/-- The four targets. -/
inductive Target where
  | here | other | pkg | io
deriving DecidableEq, Repr

def targetOf (s : State) (c ia : Nat) : Target :=
  match place s ia with
  | .io => .io
  | .other _ => .pkg
  | .here => if iaDie ia = c / 48 then .here else .other

def Unack.at (u : Unack) : Target → Nat
  | .here => u.here
  | .other => u.other
  | .pkg => u.pkg
  | .io => u.io
def Unack.set (u : Unack) (t : Target) (n : Nat) : Unack :=
  match t with
  | .here => { u with here := n }
  | .other => { u with other := n }
  | .pkg => { u with pkg := n }
  | .io => { u with io := n }

/-- A counter takes `n` more (R321). -/
def counterRoom (w : Warp) (t : Target) (n : Nat) : Bool := decide (w.unack.at t + n ≤ 65535)
/-- See log entry 29 (DEDUCED). -/
def countUp (w : Warp) (t : Target) (n : Nat) : Warp := { w with unack := w.unack.set t (w.unack.at t + n) }
def countDown (w : Warp) (t : Target) (n : Nat) : Warp := { w with unack := w.unack.set t (w.unack.at t - n) }

/-! ### Lines -/

/-- The number under which a core's L1 keeps the line of an address. -/
def l1Key (s : State) (ia : Nat) : Nat :=
  match place s ia with
  | .other p => (p + 1) * 2 ^ 31 + lineOf ia
  | _ => lineOf ia

/-- A line's place in ascending IA order, this package under its own number (11_atomics R244). -/
def iaKey (s : State) (ia : Nat) : Nat := (match place s ia with | .other p => p | _ => s.pkg) * 2 ^ 31 + lineOf ia

/-- A byte's number, the same under every name of its package (R190). -/
def byteKey (s : State) (ia : Nat) : Nat := l1Key s ia * 512 + ia % 512

def l1? (s : State) (c ia : Nat) : Option L1Line := Sparse.get? (s.core c).l1 (l1Key s ia)
def setL1 (s : State) (c key : Nat) (l : L1Line) : State :=
  s.setCore c { s.core c with l1 := Sparse.put (s.core c).l1 key l }

/-- The sectors that `n` bytes at an address touch. -/
def sectorsOver (ia n : Nat) : List Nat :=
  let o := ia % 512
  (List.range 16).filter fun i => decide (32 * i < o + n) && decide (o < 32 * i + 32)

/-- A live copy of all `n` bytes (R199, R202). -/
def L1Line.has (l : L1Line) (now ia n : Nat) : Bool :=
  (sectorsOver ia n).all fun i => l.valid / 2 ^ i % 2 == 1 &&
    (l.cls == 3 || decide (now < Sparse.get 0 l.lease (32 * i / grain l.cls)))

/-- Something of the line is there: it is software-managed, or a lease is live; an expired copy is treated as absent (R199). -/
def L1Line.there (l : L1Line) (now : Nat) : Bool := l.cls == 3 || anyLease l.lease now

/-- The line's attributes let a context read it (R193, R197). -/
def L1Line.allows (l : L1Line) (w : Who) : Bool :=
  !(w.user && l.tenant != 0 && l.tenant != w.tenant) && !(w.user && !l.user)

/-- The L1 of a core serves `n` bytes for a context: elements of FP6 may run over the end of a line. See log entry 7 (DEDUCED). -/
def l1Hit (s : State) (c : Nat) (w : Who) (ia n : Nat) : Bool :=
  (lineSpans (n / 512 + 2) ia n).all fun sp =>
    match l1? s c sp.1 with
    | some l => l.has s.now sp.1 sp.2 && l.allows w
    | none => false

/-- The L1 itself holds the byte of an address: it is one of a software-managed line, or of a line of another package (R199, R202). -/
def l1Holds (s : State) (c ia : Nat) : Bool :=
  match l1? s c ia with
  | some l => (l.cls == 3 || place s ia != .here) && (l.valid / 2 ^ (ia % 512 / 32) % 2 == 1 || Sparse.get false l.dirty (ia % 512))
  | none => false

/-- The bytes that a core reads (R199, R202): the home's, under those that its L1 itself holds.
See log entry 7 (DEDUCED). -/
def l1Bytes (s : State) (c ia n : Nat) : List Byte :=
  (List.range n).map fun i =>
    match (if l1Holds s c (ia + i) then l1? s c (ia + i) else none) with
    | some l => Memory.read l.data ((ia + i) % 512)
    | none => homeByte s (ia + i)

/-- Loads that a software-managed line of the L1 serves and that have not read it yet take its bytes now: those of one thread, which is
about to store to it (10_ordering R219), or all of them when the line is about to go. -/
def freezeHits (s : State) (c key : Nat) (thread : Option (Nat × Nat)) : State :=
  if (match Sparse.get? (s.core c).l1 key with | some l => l.cls != 3 | none => true) then s
  else { s with ops := s.ops.map fun q => (q.1, if q.2.core = c ∧ (q.2.kind = .load ∨ q.2.kind = .ldx) then frozen q.2 else q.2) }
where
  hit (o : MemOp) (x : Lane) : Bool :=
    (match thread with | some t => o.gen == t.1 && x.lane == t.2 | none => true) &&
    o.parts.any fun p => p.l1 && !p.seen && p.lanes.contains x.lane && l1Key s p.ia == key
  taken (x : Lane) : Sparse Byte :=
    ((List.range 128).filter fun i => decide (x.ia % 512 + i < 512) && (Sparse.get? x.fwd i).isNone).foldl
      (fun m i => Sparse.put m i ((l1Bytes s c (x.ia + i) 1).headD 0)) x.fwd
  frozen (o : MemOp) : MemOp := { o with lanes := o.lanes.map fun x => if hit o x then { x with fwd := taken x } else x }

/-- Take a line out of the L1. -/
def dropL1 (s : State) (c key : Nat) : State :=
  let s := freezeHits s c key none
  s.setCore c { s.core c with l1 := Sparse.erase (s.core c).l1 key }

/-- Note a use of a line. -/
def l1Touch (s : State) (c ia : Nat) (strm : Bool) : State :=
  match l1? s c ia with
  | some l => setL1 s c (l1Key s ia) { l with used := if strm then 0 else s.cycle + 1 }
  | none => s

/-- The page attributes that a core learns of an address when it must know the coherence class before the home has
answered: those of its L1 copy, where that is no expired one (R199). See log entry 7 (DEDUCED). -/
def classOf (s : State) (c ia : Nat) : Pte :=
  match (l1? s c ia).filter (·.there s.now) with
  | some l => { cls := l.cls, fmt := l.fmt, user := l.user, writable := l.writable, tenant := l.tenant, present := true }
  | none =>
    match place s ia with
    | .here =>
      match sline? s ia with
      | some l => l.pte
      | none => if Config.dieCount s.part ≤ iaDie ia then {} else pteAt s (iaDie ia) (iaPage ia)
    | _ => {}

/-! ### Stores on their way -/

/-- Two operations of one thread's context, whatever its residency (R218): the S-lane of a core, or a warp of a group. -/
def MemOp.sameWarp (o p : MemOp) : Bool :=
  if o.slot = 64 then p.slot == 64 && p.core == o.core else p.slot != 64 && p.ctx == o.ctx && p.wix == o.wix

/-- A store or write-back may leave the core now: its counter has room (R321), and nothing that it must follow is in
flight: a `RED` follows every earlier store of its thread to its grain unit (11 R238), also one of an earlier residency. -/
def mayLeave (s : State) (id : Nat) (o : MemOp) : Bool :=
  match o.lanes.head? with
  | none => true
  | some x =>
    let w := s.warpAt o.core o.slot
    (!o.counted || counterRoom w (targetOf s o.core x.ia) 1) &&
    (o.kind != .red || s.ops.all fun p =>
      let q := p.2
      decide (id ≤ p.1) || !o.sameWarp q || (q.kind != .store && q.kind != .red && q.kind != .writeBack) ||
      q.lanes.all fun y => y.lane != x.lane || l1Key s y.ia != l1Key s x.ia ||
        unitOf (classOf s o.core x.ia).cls y.ia != unitOf (classOf s o.core x.ia).cls x.ia)

/-- The path of a request crosses a ring bridge, the I/O bridge or Dusel (11_atomics R247). -/
def crosses (s : State) (c ia : Nat) : Bool :=
  match place s ia with
  | .here => iaDie ia != c / 48
  | _ => true

/-- The retransmission timer of leg `k` of an operation, whose request leaves a core for `ia` now (11_atomics R247): it tells the cycle, by
which a timer of an earlier request is known. The 250 000 ticks to another package are looked at every 1 000 cycles. -/
def armTimer (s : State) (c ia id k : Nat) : State :=
  if !crosses s c ia then s
  else s.postWith { at_ := s.cycle + (match place s ia with | .other _ => 1000 | _ => 16384), ev := .retransmissionTimeout id
                    data := { a := k, b := s.cycle } }

/-- A store leaves the core: it is counted, and travels to its home (R231, R375). See log entry 29 (DEDUCED). -/
def leave (s : State) (id : Nat) (o : MemOp) : State :=
  match o.lanes.head? with
  | none => s.dropOp id
  | some x =>
    let s := if o.counted then modWarp s o.core o.slot fun w => countUp w (targetOf s o.core x.ia) 1 else s
    let s := s.setOp id { o with stage := 1, since := if o.kind = .red then s.cycle else o.since, tick := s.now }
    let s := if o.kind = .red then armTimer s o.core x.ia id 0 else s
    sendOut s o.core x.ia (if place s x.ia = .io then .registerWrite id else .storePerformed id) {} (if o.kind = .red then 6 else 0)

/-- Send the stores at the head of a warp's buffer that may leave (R207, R231). See log entry 29 (DEDUCED). -/
def drain (s : State) (c k : Nat) : State := go (s.warpAt c k).storeBuf s
where
  go : List Nat → State → State
    | [], s => s
    | id :: r, s =>
      match s.op? id with
      | none => go r (modWarp s c k fun w => { w with storeBuf := r })
      | some o => if mayLeave s id o then go r (leave (modWarp s c k fun w => { w with storeBuf := r }) id o) else s

/-- Put a store into its warp's buffer and send what may leave. -/
def pushStore (s : State) (o : MemOp) : State :=
  let (id, s) := newOp s o
  drain (modWarp s o.core o.slot fun w => { w with storeBuf := w.storeBuf ++ [id] }) o.core o.slot

/-! ### Write-backs, fills and evictions -/

/-- The offsets of a sector's dirty bytes. -/
def L1Line.dirtyIn (l : L1Line) (sector : Nat) : List Nat :=
  (l.dirty.filter fun d => decide (32 * sector ≤ d.1) && decide (d.1 < 32 * sector + 32)).map (·.1)

/-- One byte of a line on its way home; `info` tells that its sector is in error, and the home's comes to be so (16_events R341). -/
def byteLane (lane base va : Nat) (l : L1Line) (o : Nat) : Lane :=
  { lane, va, ia := base + o, size := 1, args := [(Memory.read l.data o).toNat]
    info := if l.errs / 2 ^ (o / 32) % 2 = 1 then 0x12 else 0 }

/-- The write-back of a sector that no instruction asks for: it is the last writer's, and counted in no warp (R194, R234). -/
def Writer.op (x : Writer) (s : State) (c : Nat) (lanes : List Lane) : MemOp :=
  { kind := .writeBack, core := c, slot := if x.sl then 64 else 65, gen := s.nextId, ctx := x.ctx, wix := x.wix, user := x.user,
    tenant := x.tenant, pc := x.pc, f := {}, lanes, counted := false, since := s.cycle, tick := s.now }

/-- Write the dirty bytes of a line back, sector by sector (R202, R212). With `by_` they are stores of that operation's
thread; otherwise, on an eviction, they are charged to the context that wrote the sector last, checked as its stores are, and counted
in no warp (R194, R234). See log entry 29 (DEDUCED). -/
def writeBack (s : State) (c base : Nat) (l : L1Line) (by_ : Option (MemOp × Nat)) : State :=
  (List.range 16).foldl (fun s i =>
    match l.dirtyIn i with
    | [] => s
    | ds =>
      let x : Writer := Sparse.get {} l.writer i
      match by_ with
      | some (o, lane) => pushStore s { o with kind := .writeBack, lanes := ds.map (byteLane lane base x.va l) }
      | none =>
        let o := x.op s c (ds.map (byteLane x.lane base x.va l))
        let (id, s) := newOp s o
        leave s id o) s

/-- Mark a line clean. -/
def L1Line.clean (l : L1Line) : L1Line := { l with dirty := [], writer := [] }

/-- The line of a set that was used least recently; a line with a sector in error stays (16_events R341). -/
def oldestL1 (set : Nat) : Sparse L1Line → Option (Nat × L1Line)
  | [] => none
  | (k, l) :: r =>
    if k % 64 = set ∧ l.errs = 0 then
      match oldestL1 set r with
      | some (k', l') => if l'.used < l.used then some (k', l') else some (k, l)
      | none => some (k, l)
    else oldestL1 set r

/-- The line holds the attributes of a page. -/
def L1Line.same (l : L1Line) (e : Pte) : Bool :=
  l.fmt == e.fmt && l.cls == e.cls && l.user == e.user && l.writable == e.writable && l.tenant == e.tenant

/-- Have a line in the L1 with the attributes of its page, evicting the least recently used of a full set (R197, R198): an expired line of
other attributes is absent, and its place is taken. -/
def l1Place (s : State) (c ia : Nat) (e : Pte) (strm : Bool) : State :=
  let key := l1Key s ia
  let new : L1Line := { fmt := e.fmt, cls := e.cls, user := e.user, writable := e.writable, tenant := e.tenant,
                        used := if strm then 0 else s.cycle + 1 }
  match l1? s c ia with
  | some l => if l.same e then l1Touch s c ia strm else setL1 (writeBack s c (ia / 512 * 512) l none) c key new
  | none =>
    let lines := (s.core c).l1
    if (lines.filter fun p => p.1 % 64 = key % 64).length < 8 then setL1 s c key new
    else match oldestL1 (key % 64) lines with
      | none => s
      | some (k, l) => setL1 (dropL1 (writeBack s c (k % 2 ^ 31 * 512 + 0xFF * 2 ^ 56) l none) c k) c key new

/-- Fill sectors of a line: with a lease on each of their units on a hardware-coherent page, with the bytes of the line
that are not dirty on a software-managed one (R199, R202). -/
def l1Fill (s : State) (c ia : Nat) (e : Pte) (sectors : List Nat) (expiry : Option Nat) (snap : Memory) (strm : Bool) :
    State :=
  if e.cls ≠ 3 ∧ expiry.isNone then s
  else
    let s := l1Place s c ia e strm
    match l1? s c ia with
    | none => s
    | some l =>
      let base := lineOf ia * 512
      let valid := sectors.foldl (fun m i => m ||| 2 ^ i) l.valid
      if l.cls = 3 ∨ place s ia ≠ .here then
        let data := (sectors.filter fun i => l.cls ≠ 3 || l.valid / 2 ^ i % 2 = 0).foldl (fun m i => (List.range 32).foldl (fun m j =>
          if Sparse.get false l.dirty (32 * i + j) then m
          else Memory.write m (32 * i + j) (Memory.read snap (base + 32 * i + j))) m) l.data
        let lease := if l.cls = 3 then l.lease
          else sectors.foldl (fun m i => Sparse.put m (32 * i / grain l.cls) (expiry.getD 0)) l.lease
        setL1 s c (l1Key s ia) { l with valid, data, lease }
      else
        let lease := sectors.foldl (fun m i => Sparse.put m (32 * i / grain l.cls) (expiry.getD 0)) l.lease
        setL1 s c (l1Key s ia) { l with valid, lease }

/-- Write bytes into a software-managed line, allocating it without a fill (R202). -/
def l1Write (s : State) (c ia : Nat) (e : Pte) (bs : List Byte) (by_ : Writer) (strm : Bool) : State :=
  let s := l1Place s c ia e strm
  match l1? s c ia with
  | none => s
  | some l =>
    let o := ia % 512
    let l := { l with
      data := Memory.writeAll l.data o bs
      dirty := (List.range bs.length).foldl (fun m i => Sparse.put m (o + i) true) l.dirty
      writer := (sectorsOver ia bs.length).foldl (fun m i => Sparse.put m i by_) l.writer
      errs := if l.errs = 0 then 0 else ((sectorsOf l.errs).filter fun i => !(decide (o ≤ 32 * i) && decide (32 * i + 32 ≤ o + bs.length))).foldl
        (fun m i => m ||| 2 ^ i) 0 }
    setL1 s c (l1Key s ia) l

/-- A lane whose bytes lie in a sector that is in error fails with cause 0x12: TRAPINFO names the structure, the lane and the sector
(16_events R341). -/
def markErr (errs structure_ : Nat) (x : Lane) : Lane :=
  if !x.ok || errs = 0 then x
  else match (sectorsOver x.ia x.size).find? fun i => errs / 2 ^ i % 2 = 1 with
    | some i => { x with ok := false, cause := 0x12, info := structure_ + 65536 * i }
    | none => x

/-- The sectors of the line of an address that are in error at its home. -/
def homeErrs (s : State) (ia : Nat) : Nat := match sline? s ia with | some l => l.errs | none => 0

end Sys2Proof.Machine
end

