-- ==== Sys2Proof/Machine/MemSys.lean ====
section
/-! DEFINITION. The home slices: loads and stores as they are checked and performed there, what waits there, and what comes
back to the core (09_memory_spaces R193 to R203, R207 to R210; 10_ordering R218 to R233, R374). -/

namespace Sys2Proof.Machine

/-! ### Orders and releases -/

/-- Release and acquire components (10_ordering R216). -/
def releases : Order → Bool
  | .rel | .ar | .sc => true
  | _ => false
def acquires : Order → Bool
  | .acq | .ar | .sc => true
  | _ => false

/-- What a release finds (R213, R374): it may go on, it waits, or it raises the pending deferred fault (R233). -/
inductive Rel where
  | go | wait | raise (x : FaultInfo)
deriving DecidableEq, Repr

/-- A deferred fault as it is raised at the current instruction (R233). -/
def deferredInfo (w : Warp) (d : Deferred) : FaultInfo :=
  { cause := d.cause, addr := BitVec.ofNat 72 d.addr, info := BitVec.ofNat 64 d.pc, pc := w.pc, isDeferred := true,
    storeHi := d.pc / 2 ^ 64 }

/-- The deferred fault that a late acknowledgement recorded in the area the context was saved to (R232). -/
def areaDeferred (s : State) (w : Warp) : Option Deferred :=
  match w.savedAt with
  | some ia =>
    let cause := homeNat s (ia + 0x60) 8
    if !w.savedDef && decide (2 ^ 63 ≤ cause) then
      some { cause := cause % 256, addr := homeNat s (ia + 0x68) 16, pc := homeNat s (ia + 0x78) 16 }
    else none
  | none => none

/-- The wait of a release of a scope by the executing warp (R213, R225, R374). See log entry 29 (DEDUCED). -/
def releaseAt (s : State) (sc : Scope) : Rel :=
  let w := s.warp
  if loopReads s s.selfCore s.selfSlot w then .wait
  else if sc = .thread then .go
  else if !storesDone s w (sc == .sys) then .wait
  else match w.deferred.or (areaDeferred s w) with
    | some d => .raise (deferredInfo w d)
    | none => .go

/-- Do what follows a release of a scope, when `on` holds (R374). See log entry 29 (DEDUCED). -/
def released (on : Bool) (sc : Scope) (s : State) (k : State → Act) : Act :=
  if on then
    match releaseAt s sc with
    | .go => k s
    | .wait => .hold
    | .raise x => .fault x
  else k s

/-- Operations of the context of the executing warp. -/
def ownOps (s : State) : List (Nat × MemOp) :=
  let w := s.warp
  s.ops.filter fun p =>
    if s.onSl then p.2.slot == 64 && p.2.core == s.selfCore else p.2.slot != 64 && p.2.ctx == w.ctx && p.2.wix == w.wix

/-- Operations of a residency. -/
def opsOf (s : State) (c gen : Nat) : List (Nat × MemOp) := s.ops.filter fun p => p.2.core == c && p.2.gen == gen

def OpKind.isStore : OpKind → Bool
  | .store | .writeBack | .red => true
  | _ => false
def OpKind.isAtomic : OpKind → Bool
  | .atom | .acas | .acas2 | .mcas | .wb => true
  | _ => false
/-- Kinds that write at the home when they are performed there. -/
def OpKind.writes (k : OpKind) : Bool := k.isStore || k.isAtomic || k == .done || k == .depsig || k == .copy || k == .inbound
/-- Kinds whose first answer brings a line's tag, and whose second round a scale (R209, R210; 12 R268). -/
def OpKind.tagged (k : OpKind) : Bool := k == .ldx || k == .stx || k == .mst

/-- An earlier `.sc` store or atomic of the warp, of this residency or an earlier one, is not yet acknowledged (R220). -/
def scOut (s : State) : Bool :=
  (ownOps s).any fun p => p.2.f.order == .sc && (p.2.kind.isStore || p.2.kind.isAtomic)

/-! ### At the home -/

/-- The bytes that a leg of an operation touches: address and length. -/
def MemOp.spans (o : MemOp) (k : Nat) : List (Nat × Nat) :=
  if o.parts.isEmpty then o.lanes.map fun x => (x.ia, x.size)
  else if o.kind.tagged ∧ o.at_ = 1 then
    (o.lanes.filter fun x => (o.part k).lanes.contains x.lane).map fun x => (x.ia, 1)
  else (o.lanes.filter fun x => (o.part k).lanes.contains x.lane).map fun x => (x.ia, x.size)

/-- The coherence class of an address at its home. -/
def homeClass (s : State) (ia : Nat) : Nat :=
  match sline? s ia with
  | some l => l.pte.cls
  | none => (pteAt s (iaDie ia) (iaPage ia)).cls

/-- Two spans share a grain unit. -/
def sharesUnit (cls : Nat) (a b : Nat × Nat) : Bool :=
  iaLocal a.1 / 512 == iaLocal b.1 / 512 && (unitsOver cls a.1 a.2).any fun u => (unitsOver cls b.1 b.2).contains u

/-- An earlier write waits at the slice on a unit of a span (R199 step 3). -/
def writeAhead (s : State) (cls : Nat) (sp : Nat × Nat) (id k : Nat) : Bool :=
  ((s.slice (iaSlice sp.1)).pend.takeWhile fun q => q != (id, k)).any fun q =>
    match s.op? q.1 with
    | some o => o.kind.writes && (o.spans q.2).any (sharesUnit cls sp)
    | none => false

/-- A write of a span waits: a live lease, a requester-side copy, a lock, or an earlier write (R199, R200). -/
def blocked (s : State) (sp : Nat × Nat) (id k : Nat) : Bool :=
  let cls := homeClass s sp.1
  lockedFor s sp.1 id || writeAhead s cls sp id k ||
  (match sline? s sp.1 with
   | some l => (unitsOver cls sp.1 sp.2).any fun u => Sparse.get 0 l.holders u != 0 || decide (s.now < Sparse.get 0 l.lease u)
   | none => false)

/-- Leave a leg waiting at the slice of an address, in order of arrival. -/
def pendAt (s : State) (ia id k : Nat) : State :=
  let n := iaSlice ia
  let x := s.slice n
  if x.pend.contains (id, k) then s else s.setSlice n { x with pend := x.pend ++ [(id, k)] }

/-- Take a leg out of the waiting list. -/
def unpend (s : State) (ia id k : Nat) : State :=
  let n := iaSlice ia
  let x := s.slice n
  if x.pend.contains (id, k) then s.setSlice n { x with pend := x.pend.filter (· != (id, k)) } else s

/-- A queued access waits for A or D of an entry on the line of `ia`, so that no lease is granted there (R199 step 4, R302). -/
def markAhead (s : State) (ia : Nat) : Bool :=
  decide (iaPage ia < 1024) && s.slices.any fun x => x.1 / 48 == iaDie ia && x.2.pend.any fun q =>
    match s.op? q.1 with
    | some o => (o.spans q.2).any fun sp =>
        decide (1024 ≤ iaPage sp.1) && lineOf (entryIa sp.1) == lineOf ia && markWaits s sp.1 q.1 o.kind.writes &&
        !(o.kind.writes && blocked s sp q.1 q.2)
    | none => false

/-- The walk that a failed check has made (R193): the page's accessed bit is set when the page is present.
See log entry 9 (DESIGN CHOICE). -/
def walked (s : State) (ia : Nat) : State :=
  if (sline? s ia).isSome then s
  else
    let (e, _, s1) := walk s (iaDie ia) (iaPage ia)
    if e.present then markPage s1 ia false else s1

/-- Open the line of a span at its home for a context (R193, R197, R199 step 5): the cause of a failed check, `none` when
every way of the set is leased or A or D of the page must wait (R302), or the page's attributes, the cycles a miss adds (R24),
and the state. -/
def openLine (s : State) (sp : Nat × Nat) (id : Nat) (w : Who) (check mark : Bool) : Except (Option Nat) (Pte × Nat × State) :=
  let (e, missed, s1) := attrs s sp.1
  let walks := (sline? s sp.1).isNone
  match pteCheck e w check with
  | some c => if walks && markWaits s sp.1 id false then .error none else .error (some c)
  | none =>
    if (walks || mark) && markWaits s sp.1 id mark then .error none
    else
    let s2 := if (sline? s sp.1).isNone || mark then markPage s1 sp.1 mark else s1
    match ensureLine s2 sp.1 e with
    | none => .error none
    | some s3 =>
      let extra := if (sectorsOver sp.1 sp.2).all fun i => unitPresent s3 (lineOf sp.1 * 512 + 32 * i) then 0
        else if missed then 300 else 180
      let s4 := (sectorsOver sp.1 sp.2).foldl (fun s i => fillUnit s (iaPkg sp.1 * 2 ^ 56 + lineOf sp.1 * 512 + 32 * i)) s3
      .ok (e, extra, s4)

/-- Bytes of an element of an `LDX` or `STX` on a line of a format (R108, R209): the type, and whether MX applies.
See log entry 36 (DEDUCED). -/
def lineElem (fmt : Nat) (own : Ty) : Ty :=
  match fmtTy fmt with
  | some t => t
  | none => own

/-- A read of a format-aware access: its bytes, or none when R209 refuses its alignment. See log entry 36 (DEDUCED). -/
def ldxBytes (fmt : Nat) (own : Ty) (n ia : Nat) : Option Nat :=
  let eb := (lineElem fmt own).elemBits
  let size := n * eb / 8
  if (eb = 4 ∧ n < 2) ∨ (eb = 6 ∧ n < 4) then none
  else if ia % 65536 % size ≠ 0 then none
  else some size

/-- Read a lane's bytes. A format-aware read finds its length from the line's tag; its second round reads a scale from a
companion page (05 R98). -/
def readLane (o : MemOp) (fmt : Nat) (get : Nat → Nat → List Byte) (x : Lane) : Lane :=
  if o.kind = .ldx ∧ o.at_ = 0 then
    match ldxBytes fmt (o.f.tyOf o.op) o.f.count x.ia with
    | none => { x with ok := false, cause := 0x07, info := fmt }
    | some n => { x with size := n, info := fmt, got := leBytes (get x.ia n) }
  else if o.kind.tagged ∧ o.at_ = 1 then
    if fmt ≠ 0x20 then { x with ok := false, cause := 0x0D }
    else { x with args := leBytes (get x.ia 1) :: x.args }
  else { x with info := fmt, got := leBytes (get x.ia x.size) }

/-- Grant a lease on the units of a leg (R199 steps 1 and 4). -/
def grant (l : Sparse Nat) (units : List Nat) (expiry : Nat) : Sparse Nat :=
  units.foldl (fun m u => Sparse.put m u (max expiry (Sparse.get 0 m u))) l

/-- Units of the home line that a leg reads. -/
def legUnits (cls : Nat) (spans : List (Nat × Nat)) : List Nat := (spans.map fun sp => unitsOver cls sp.1 sp.2).flatten

/-- The cache policy of a load (R203); a fetch and the table read of a `TCALL` have none (R176). -/
def MemOp.policy (o : MemOp) : Nat := if o.kind = .tcall ∨ o.kind = .fetch then 0 else o.f.clsBits 0 2

/-- A load that takes a lease: a fetch (03_encoding R59), `LD`, `LDX`, `PREF` or the table read of a `TCALL`, policy 0 or 1. -/
def leases (o : MemOp) : Bool :=
  (o.kind == .pref && o.f.cls == 0) ||
  ((o.kind == .fetch || o.kind == .load || o.kind == .ldx || o.kind == .tcall) && decide (o.policy ≠ 2))

/-- The answer that a failed check makes of a leg (R193, R194). -/
def failLeg (o : MemOp) (k cause : Nat) (rfmt : Bool) : MemOp :=
  o.onLanes (o.part k).lanes fun x => { x with ok := false, cause, info := if rfmt then 1 else 0, got := 0 }

/-- The answer to leg `k` of a read leaves its slice: the words of a fetch arrive by an event of their own (22 R365). -/
def answerRead (s : State) (o : MemOp) (id k extra : Nat) : State :=
  if o.kind = .fetch then sendBack s o.core (o.part k).ia extra (.instructionWordsArrive o.core o.slot) { a := id, b := k }
  else sendBack s o.core (o.part k).ia extra (.loadResponse id k)

/-- The sectors of a grain unit, as a mask (R201). -/
def unitMask (cls u : Nat) : Nat := (2 ^ (grain cls / 32) - 1) * 2 ^ (u * (grain cls / 32))

/-- The slice of a core's die that may hold a copy of a line (R197). -/
def copySlice (c ia : Nat) : Nat := c / 48 * 48 + iaSliceNo ia

/-- A copy of a line of `ia` would be a requester-side one: its home is on another die or in another package, and its page is
hardware-coherent (R200, R202). -/
def copyable (s : State) (c ia : Nat) (e : Pte) : Bool :=
  e.cls != 3 && (match place s ia with | .here => iaDie ia != c / 48 | .io => false | .other _ => filterPasses s e.tenant)

/-- Put units of a line into the requester-side copy of a core's die, or record the group of packages whose slices take them, with the bytes
of a line of another package; none when every way of the set is leased (R199 step 5). -/
def putCopy (s : State) (c ia : Nat) (e : Pte) (units : List Nat) (snap : Memory) : Option State :=
  let n := copySlice c ia
  let key := l1Key s ia
  let held (bit : Nat) (s : State) : State := match copyHome? s key with
    | some l => setLine s ia { l with holders := units.foldl (fun m u => Sparse.put m u (Sparse.get 0 m u ||| 2 ^ bit)) l.holders }
    | none => s
  if 300 ≤ c then some (held (4 + (c - 300) / 6) s) else
  (if (Sparse.get? (s.slice n).copies key).isSome then some s else makeRoom s n (setOf key)).map fun s =>
    let x := s.slice n
    let old : SCopy := Sparse.get { pte := e, valid := 0 } x.copies key
    let lo (u : Nat) : Nat := lineOf ia * 512 + grain e.cls * u
    let new := { old with
      valid := units.foldl (fun m u => m ||| unitMask e.cls u) old.valid, used := s.cycle
      data := if key < 2 ^ 31 then [] else units.foldl (fun m u => Memory.copyIn m (lo u) (grain e.cls) snap (lo u)) old.data }
    held (c / 48) (s.setSlice n { x with copies := Sparse.put x.copies key new })

/-- A `PREF` of a requester-side copy that has no way to go into: the fill waits (R199 step 5, R211). -/
def fillWaits (s : State) (o : MemOp) (ia : Nat) (e : Pte) : Bool :=
  o.kind == .pref && o.f.cls == 1 && copyable s o.core ia e && (putCopy s o.core ia e [] []).isNone

/-- Keep a requester-side copy of units of a line, where the slice chooses to and has a way for it, or a `PREF` asks for one
(R197, R200, R201, R211). See log entry 6 (DESIGN CHOICE). -/
def keepCopy (s : State) (o : MemOp) (ia : Nat) (e : Pte) (units : List Nat) (snap : Memory) : State :=
  let wanted := Config.choice s.free || (o.kind == .pref && o.f.cls == 1)
  let s := ({ s with free := s.free + 1 } : State)
  if !copyable s o.core ia e ∨ !wanted then s else (putCopy s o.core ia e units snap).getD s

/-- A load or other read reaches the home slice of a leg (R193, R199). -/
def serveHome (s : State) (id k : Nat) (o : MemOp) : State :=
  let p := o.part k
  let w := o.who
  if lockedFor s p.ia id then pendAt s p.ia id k
  else
    let spans := o.spans k
    let first := spans.headD (p.ia, 1)
    match openLine s first id w (o.kind == .stx || o.kind == .mst || o.kind == .mcas) false with
    | .error none => pendAt (askMark s p.ia id false) p.ia id k
    | .error (some c) =>
      let s := walked (unpend s p.ia id k) p.ia
      let rf := (attrs s p.ia).1
      answerRead (s.setOp id (failLeg o k c (rf.present && !fmtListed rf.fmt))) o id k 0
    | .ok (e, extra, s) =>
      let s := unpend s p.ia id k
      let (s, extra) := spans.foldl (fun (a : State × Nat) sp => match openLine a.1 sp id w false false with
        | .ok (_, x, t) => (t, max a.2 x)
        | .error _ => a) (s, extra)
      let errs := homeErrs s p.ia
      let o := o.onLanes p.lanes fun x => markErr errs (if extra = 0 then 3 else 6) (readLane o e.fmt (homeBytes s) x)
      let units := legUnits e.cls (o.spans k)
      let l := (sline? s p.ia).getD { pte := e }
      if fillWaits s o p.ia e then pendAt s p.ia id k else
      let free := (o.spans k).all (fun sp => !writeAhead s e.cls sp id k) && (units.all fun u => Sparse.get 0 l.invs u == 0) && !markAhead s p.ia
      let expiry := if leases o && e.cls != 3 && free then some (s.now + o.lease) else none
      let s := match expiry with
        | some t => setLine s p.ia { l with lease := grant l.lease units t }
        | none => s
      let snap := Memory.range s.l2 (lineOf p.ia * 512) 512
      let s := if free then keepCopy s o p.ia e units snap else s
      let good := ((sectorsOf l.valid).filter fun i => l.errs / 2 ^ i % 2 = 0).foldl (fun m i => m ||| 2 ^ i) 0
      let p := { p with seen := true, expiry, pte := e, snap, had := good }
      answerRead (s.setOp id (o.setPart k p)) o id k extra

/-- A read reaches a requester-side copy of its line, or finds that it is gone and goes on to the home (R197, R200): so it does while an
invalidation of it is outstanding, or its line or page is locked. A home in this package learns of the lease. See log entry 7 (DEDUCED). -/
def serveCopy (s : State) (id k : Nat) (o : MemOp) : State :=
  let p := o.part k
  let n := copySlice o.core p.ia
  let key := l1Key s p.ia
  let x := s.slice n
  let onward : State :=
    let t := s.setOp id (o.setPart k { p with via := false })
    match place s p.ia with
    | .here => sendOn t (routeSlices n (iaSlice p.ia)) (sliceTrip s n (iaSlice p.ia)) (.loadAtHomeSlice id k)
    | _ => sendOut t o.core p.ia (.loadAtHomeSlice id k)
  let home := copyHome? s key
  match Sparse.get? x.copies key with
  | none => onward
  | some c =>
    let spans := o.spans k
    let units := legUnits c.pte.cls spans
    let barred := match home with
      | some l => units.any (fun u => Sparse.get 0 l.invs u != 0) || lockedFor s p.ia id || l.errs != 0
      | none => decide (key < 2 ^ 31)
    if barred || units.any (c.going.contains ·) || (pteCheck c.pte o.who false).isSome || o.kind == .stx || o.kind == .mst || o.kind == .mcas ||
       !(spans.all fun sp => (sectorsOver sp.1 sp.2).all fun i => c.valid / 2 ^ i % 2 == 1) then onward
    else
      let data := if key < 2 ^ 31 then Memory.range s.l2 (lineOf p.ia * 512) 512 else c.data
      let get (ia n : Nat) : List Byte := (List.range n).map fun i => Memory.read data (iaLocal (ia + i))
      let o := o.onLanes p.lanes (readLane o c.pte.fmt (if key < 2 ^ 31 then homeBytes s else get))
      let expiry := if leases o then some (s.now + o.lease) else none
      let units := legUnits c.pte.cls (o.spans k)
      let lease (m : Sparse Nat) : Sparse Nat := match expiry with | some t => grant m units t | none => m
      let s := s.setSlice n { x with copies := Sparse.put x.copies key { c with lease := lease c.lease, used := s.cycle } }
      let s := match home with | some l => setLine s p.ia { l with lease := lease l.lease } | none => s
      let p := { p with seen := true, expiry, pte := c.pte, snap := data, had := c.valid }
      let t := s.setOp id (o.setPart k p)
      if o.kind = .fetch then sendOn t (routeBack o.core n) (inward s o.core n) (.instructionWordsArrive o.core o.slot) { a := id, b := k }
      else sendOn t (routeBack o.core n) (inward s o.core n) (.loadResponse id k)

/-- The attributes of a page of another package, as its answer brings them: tag RAW, 32-byte grain. See log entry 14 (DESIGN CHOICE). -/
def outsidePte (s : State) : Pte :=
  { tenant := leBytes [Config.outsideByte s.free 512, Config.outsideByte s.free 513], user := true, writable := true, present := true, acc := true, dirty := true }

/-- A byte of a line of another package, as an answer brings it. See log entry 14 (DESIGN CHOICE). -/
def outsideAt (s : State) (ia : Nat) : Byte := Config.outsideByte s.free (ia % 512)

/-- A read answered by another package (R190): not present outside the Dusel domain, otherwise what that package
holds, which is outside this machine; whether it grants a lease is its choice. See log entry 14 (DESIGN CHOICE). -/
def serveOutside (s : State) (id k : Nat) (o : MemOp) (pkg : Nat) : State :=
  let p := o.part k
  let status := farStatus s pkg
  let e := outsidePte s
  let s0 := s
  let o := if status = 0 then
      let base := lineOf p.ia * 512
      let snap := ((List.range 512).map fun i => (base + i, outsideAt s i)).filter fun c => c.2 != Memory.blank
      let expiry := if leases o && Config.choice s.free then some (s.now + o.lease) else none
      (o.onLanes p.lanes (readLane o 0 fun ia n => (List.range n).map fun i => outsideAt s (ia + i))).setPart k
        { p with seen := true, expiry, pte := e, snap, had := 2 ^ 16 - 1 }
    else failLeg o k status false
  if status = 0 ∧ fillWaits s o p.ia e then s0.post (s.cycle + 1) (.loadAtHomeSlice id k) else
  let s := if status = 0 then keepCopy { s with free := s.free + 1 } o p.ia e (legUnits e.cls (o.spans k)) (o.part k).snap else s
  answerRead { (s.setOp id o) with free := s.free + 1 } o id k 0

/-- The event's arrival at the slice. -/
def serve (s : State) (id k : Nat) : State :=
  match s.op? id with
  | none => s
  | some o =>
    let p := o.part k
    if p.via then serveCopy s id k o
    else match place s p.ia with
      | .other g => serveOutside s id k o g
      | _ => serveHome s id k o

/-- A copy without a unit; none when no unit is left. -/
def SCopy.without (c : SCopy) (u : Nat) : Option SCopy :=
  let valid := (sectorsOf c.valid).foldl (fun m i => if unitMask c.pte.cls u / 2 ^ i % 2 = 1 then m else m ||| 2 ^ i) 0
  if valid = 0 then none else some { c with valid, lease := Sparse.erase c.lease u, going := c.going.filter (· != u) }

/-- Drop a unit of a requester-side copy once the lease on it has run out, and tell the home (R200, R201); `line` is the copy's key. -/
def dropCopy (s : State) (n line u : Nat) : State :=
  let x := s.slice n
  let copy := Sparse.get? x.copies line
  if (match copy with | some c => decide (s.now < Sparse.get 0 c.lease u) | none => false) then
    let waits (c : SCopy) : SCopy := if c.going.contains u then c else { c with going := u :: c.going }
    (s.setSlice n { x with copies := match copy with | some c => Sparse.put x.copies line (waits c) | none => x.copies }).postWith { at_ := s.cycle + 1, ev := .requesterCopyInvalidation n line, data := { a := u } }
  else
    let s := s.setSlice n { x with copies := match copy.bind (SCopy.without · u) with
      | some c => Sparse.put x.copies line c
      | none => Sparse.erase x.copies line }
    match copyHome? s line with
    | some l => setLine s (line * 512) { l with holders := clearDie l.holders (n / 48) [u], invs := clearDie l.invs (n / 48) [u] }
    | none => s

/-! ### The result store (11_atomics R247) -/

/-- The result store of a slice takes a request from another die, or keeps it waiting (R247). -/
def resultRoom (s : State) (o : MemOp) (ia id : Nat) : Bool :=
  !crosses s o.core ia || (s.slice (iaSlice ia)).results.any (fun r => r.1 == id) ||
  decide ((s.slice (iaSlice ia)).results.length < 1024)

/-- Keep a result until its origin confirms it (R247). -/
def keepResult (s : State) (o : MemOp) (ia id k : Nat) : State :=
  if !crosses s o.core ia then s
  else
    let n := iaSlice ia
    let x := s.slice n
    s.setSlice n { x with results := (x.results.filter (· != (id, k))) ++ [(id, k)] }

/-- The origin of a request has its response, and confirms it to the slice that keeps the result (R247). -/
def confirm (s : State) (o : MemOp) (ia id k : Nat) : State :=
  match place s ia with
  | .here => if crosses s o.core ia then
      sendOn s (routeOut o.core (iaSlice ia)) (outward s o.core (iaSlice ia)) (.resultStoreEntryFree (iaSlice ia)) { a := id, b := k } else s
  | _ => s

/-! ### Stores at the home -/

/-- The operation of an atomic (11 R239), on `width` bits. -/
def combineAtom (op : Nat) (t : Ty) (old c : Nat) : Nat :=
  let w := 2 ^ t.width
  match op with
  | 0 => (old + c) % w
  | 1 => Nat.land old c
  | 2 => Nat.lor old c
  | 3 => Nat.xor old c
  | 4 => if intOf t c < intOf t old then c else old
  | 5 => if intOf t old < intOf t c then c else old
  | 6 => c
  | 7 => if c ≤ old then 0 else old + 1
  | 8 => if old = 0 ∨ c < old then c else old - 1
  | _ => fmtF32.result .rne false (sumVals .rne [fmtF32.decode old, fmtF32.decode c])

/-- Write a store's lanes at the home; a `RED` combines (11 R239), and the bytes of a write-back are one write, which carries an error of its
sector along (16_events R341). -/
def performStore (s : State) (o : MemOp) : State :=
  let s := if o.kind = .writeBack then
      let t := homeMerge s (o.lanes.map fun x => (x.ia, BitVec.ofNat 8 (x.args.headD 0)))
      (o.lanes.filter (·.info = 0x12)).foldl (fun s x => match sline? s x.ia with
        | some l => setLine s x.ia { l with errs := l.errs ||| sectorBit x.ia }
        | none => s) t
    else o.lanes.foldl (fun s x =>
    let bs := if o.kind = .red then
        toBytes x.size (combineAtom (o.f.subBits 0 4) (o.f.tyOf o.op) (homeNat s x.ia x.size) (x.args.headD 0))
      else x.args.map (BitVec.ofNat 8)
    homeWrite s x.ia bs) s
  match o.lanes.head? with
  | some x =>
    match sline? s x.ia with
    | some l => if (o.kind = .store ∧ o.op = 0x101 ∨ o.op = 0x103) ∧ o.f.clsBits 0 2 = 1 then
        setLine s x.ia { l with strm := true } else s
    | none => s
  | none => s

/-- A live lease on a unit of a line of another package: an L1 or a slice of this package has it, and a write of the unit waits for it at its
home (R199 step 3, R200). -/
def farLeased (s : State) (ia n : Nat) : Bool :=
  let key := l1Key s ia
  let live (cls : Nat) (m : Sparse Nat) : Bool := (unitsOver cls ia n).any fun u => decide (s.now < Sparse.get 0 m u)
  (s.cores.any fun c => match Sparse.get? c.2.l1 key with | some l => l.cls != 3 && live l.cls l.lease | none => false) ||
  s.slices.any fun x => match Sparse.get? x.2.copies key with | some c => live c.pte.cls c.lease | none => false

/-- The requester-side copies of the units of a line of another package that is written go, as its home has them invalidated (R200). -/
def dropFar (s : State) (ia n : Nat) : State :=
  let key := l1Key s ia
  (s.slices.map (·.1)).foldl (fun s k =>
    match Sparse.get? (s.slice k).copies key with
    | none => s
    | some c => (unitsOver c.pte.cls ia n).foldl (fun s u => dropCopy s k key u) s) s

/-- A store arrives at its home, or is tried again there: it waits, is discarded by its check, or is performed; the
acknowledgement carries the cause and the lease wait (R193, R199, R233). A `RED` takes an entry of the result store (R247) and fails on data
in error (16_events R341). -/
def storeAtHome (s : State) (id : Nat) : State :=
  match s.op? id with
  | none => s
  | some o =>
    match o.lanes.head? with
    | none => s.dropOp id
    | some x =>
      let ack (s : State) (o : MemOp) : State := sendBack (s.setOp id o) o.core x.ia 0 (.storeAcknowledgement id)
      match place s x.ia with
      | .other g =>
        let status := farStatus s g
        let arrived := if o.stage = 1 then s.now else o.at_
        let bytes := if o.kind = .writeBack then 1 else x.size
        if status = 0 ∧ farLeased s x.ia bytes then
          (s.setOp id { o with stage := 2, at_ := arrived }).post (s.cycle + 1) (.storePerformed id)
        else
          ack { (if status = 0 then dropFar s x.ia bytes else s) with free := s.free + 1 }
            { o with stage := 3, failed := status != 0, at_ := s.now - arrived, lanes := [{ x with cause := status }] }
      | _ =>
        let arrived := if o.stage = 1 then s.now else o.at_
        let o := { o with stage := 2, at_ := arrived }
        let sp := (x.ia, if o.kind = .writeBack then 1 else x.size)
        let wait (s : State) : State := pendAt (s.setOp id o) x.ia id 0
        let fail (s : State) (c : Nat) : State :=
          ack (keep s o x) { o with stage := 3, failed := true, at_ := s.now - arrived, lanes := [{ x with cause := c }] }
        if o.kind == .red && !resultRoom s o x.ia id then wait s
        else if blocked s sp id 0 then invalidate (wait s) x.ia sp.2
        else
          match openLine s sp id o.who true true with
          | .error none => wait (askMark s x.ia id true)
          | .error (some c) => fail (walked (unpend s x.ia id 0) x.ia) c
          | .ok (_, _, s) =>
            let s := unpend s x.ia id 0
            if o.kind = .red ∧ !(markErr (homeErrs s x.ia) 3 x).ok then fail s 0x12
            else ack (keep (performStore s o) o x) { o with stage := 3, at_ := s.now - arrived }
where
  /-- The result of a `RED` is kept until its origin confirms it (R247). -/
  keep (s : State) (o : MemOp) (x : Lane) : State := if o.kind = .red then keepResult s o x.ia id 0 else s

/-! ### Back at the core -/

/-- Keep the first deferred fault of a context (R233). -/
def defer (w : Warp) (d : Deferred) : Warp := match w.deferred with | some _ => w | none => { w with deferred := some d }

/-- The deferred fault that a failed store makes. -/
def MemOp.failure (o : MemOp) : Deferred :=
  let x := o.lanes.headD { lane := 0, va := 0, ia := 0, size := 0 }
  { cause := x.cause, addr := x.va, pc := o.pc }

/-- Where warp `k` of an area lies (R311). -/
def warpAreaAt (area k : Nat) : Nat := area + 0x22000 + 0x12000 * k

/-- Write a word of a save area that the hardware keeps up to date; a failing write leaves it. -/
def areaPut (s : State) (ia : Nat) (bs : List Byte) : State :=
  match hwWrite s ia ⟨false, 0⟩ bs with
  | .ok t => t
  | .error _ => s

/-- Take one from a counter that a save left in memory (R232, R313): of this die, of others, of other packages, of I/O. -/
def countSaved (s : State) (area n : Nat) : State :=
  let a := area + 0x40 + 8 * n
  areaPut s a (toBytes 8 (homeNat s a 8 - 1))

/-- Where the warp of a context stands, if it is resident: core and slot. -/
def findWarp (s : State) (ctx wix : Nat) : Option (Nat × Nat) :=
  s.cores.findSome? fun p => (p.2.warps.find? fun q => !q.2.single && q.2.ctx == ctx && q.2.wix == wix).map fun q => (p.1, q.1)

/-- Record a failure in the save area of a context (R232, R313), unless one is pending there or in the resident warp (R233). -/
def failSaved (s : State) (ctx wix area : Nat) (d : Deferred) : State :=
  let put (s : State) : State := areaPut s (area + 0x60) (toBytes 8 (d.cause + 2 ^ 63) ++ toBytes 16 d.addr ++ toBytes 16 d.pc)
  match findWarp s ctx wix with
  | some (c, k) =>
    let w := s.warpAt c k
    if w.deferred.isSome || (areaDeferred s w).isSome then s else put (modWarp s c k fun w => { w with savedDef := false })
  | none => if homeNat s (area + 0x60) 8 / 2 ^ 63 = 0 then put s else s

/-- The counter of a target. -/
def Target.code : Target → Nat
  | .here => 0
  | .other => 1
  | .pkg => 2
  | .io => 3

/-- Subtract from the counters that a save left in memory, and record a failure there (R232, R313). -/
def ackSaved (s : State) (o : MemOp) (area : Nat) : State :=
  match o.lanes.head? with
  | none => s
  | some x =>
    let s := countSaved s area (targetOf s o.core x.ia).code
    if o.failed then failSaved s o.ctx o.wix area o.failure else s

/-- The record of a failure whose context is gone (R234): kind 5. -/
def failGone (s : State) (o : MemOp) (lane : Nat) (d : Deferred) : State :=
  pushReport s o.core (mkRecord 5 (!o.user) 0 o.core o.wix lane o.ctx
    (trapArgs d.cause true false (laneBit lane) 0 d.addr d.pc (d.pc / 2 ^ 64) 0))

/-- Keep a failure as the pending deferred fault of a resident warp that has none (R233). -/
def deferOn (s : State) (c k : Nat) (d : Deferred) : State :=
  if (areaDeferred s (s.warpAt c k)).isSome then s else modWarp s c k fun w => defer w d

/-- Charge a failed write-back of an eviction to the context that wrote last, wherever it is (R194, R234): an S-lane, a resident warp, a
saved one; or, when it is gone, by a record. -/
def chargeTo (s : State) (o : MemOp) (lane : Nat) (d : Deferred) : State :=
  if o.slot = 64 then deferOn s o.core 64 d
  else match findWarp s o.ctx o.wix with
    | some (c, k) => deferOn s c k d
    | none => match (Sparse.get? s.ghosts o.ctx).filter fun g => (Sparse.get? g.warps o.wix).isSome with
      | some g => failSaved s o.ctx o.wix (warpAreaAt g.area o.wix) d
      | none => failGone s o lane d

/-- The acknowledgement of a store reaches the core that issued it (R231 to R234; 15 R325, R327). -/
def storeAcked (s : State) (id : Nat) : State :=
  match s.op? id with
  | none => s
  | some o =>
    match o.lanes.head? with
    | none => s.dropOp id
    | some x =>
      let s := if o.kind = .red then confirm (s.dropOp id) o x.ia id 0 else s.dropOp id
      let s := if o.counted then sample (countEvent s o.core 0x13 1 o.user) o.core 3 o.at_ else s
      if !o.counted then (if o.failed then chargeTo s o x.lane o.failure else s)
      else if here s o then
        let s := if o.failed then deferOn s o.core o.slot o.failure else s
        let s := modWarp s o.core o.slot fun w => { (countDown w (targetOf s o.core x.ia) 1) with lastAck := s.now }
        drain s o.core o.slot
      else if o.failed then failGone s o x.lane o.failure
      else s

/-- The acknowledgement of a store that was sent before its context was saved (R232). -/
def lateAcked (s : State) (id : Nat) : State :=
  match s.op? id with
  | none => s
  | some o =>
    let s := match o.lanes.head? with
      | some x => if o.kind = .red then confirm (s.dropOp id) o x.ia id 0 else s.dropOp id
      | none => s.dropOp id
    ackSaved (sample (countEvent s o.core 0x13 1 o.user) o.core 3 o.at_) o o.left

/-- Where an instruction's legs go when they leave the core: a copy in the own die's slice when it holds the bytes,
otherwise the home (R197, R200); not a copy while an earlier read of the line by its warp is on the way to the home (10_ordering R218). -/
def sendLeg (s : State) (id k : Nat) : State :=
  match s.op? id with
  | none => s
  | some o =>
    let p := o.part k
    let n := copySlice o.core p.ia
    let key := l1Key s p.ia
    let earlier := s.ops.any fun q => decide (q.1 < id) && o.sameWarp q.2 && (q.2.kind == .load || q.2.kind == .ldx) &&
      q.2.parts.any fun r => !r.l1 && !r.via && !r.done && l1Key s r.ia == key
    let copy := (match place s p.ia with | .here => iaDie p.ia != o.core / 48 | .io => false | .other _ => true) &&
      (Sparse.get? (s.slice n).copies key).isSome && !earlier && o.kind != .svpop && o.kind != .probe
    if copy then
      sendOn (s.setOp id (o.setPart k { p with via := true })) (routeOut o.core n) (outward s o.core n) (.loadAtHomeSlice id k)
    else sendOut s o.core p.ia (.loadAtHomeSlice id k)

/-- Legs of lanes by 512-byte line, in order of their lowest lane: what a lane reads of one line is of one instant. See log entry 49 (DESIGN
CHOICE). -/
def legsOf : List Lane → List Leg → List Leg
  | [], acc => acc
  | x :: r, acc =>
    let ia := x.ia / 512 * 512
    match acc.findIdx? fun p => p.ia == ia with
    | some i => legsOf r (acc.modify i fun p => { p with lanes := p.lanes ++ [x.lane] })
    | none => legsOf r (acc ++ [{ ia, lanes := [x.lane] }])

/-- Send every leg of an operation. -/
def sendLegs (s : State) (id n : Nat) : State := (List.range n).foldl (fun s k => sendLeg s id k) s

/-- A read is dropped: the loads merged with it are sent on their own (R228). -/
def unmerge (s : State) (id : Nat) : State :=
  s.ops.foldl (fun s q =>
    (List.range q.2.parts.length).foldl (fun s j =>
      if ((q.2.part j).merged.map (·.1)) = some id then
        match s.op? q.1 with
        | some o => sendLeg (s.setOp q.1 (o.setPart j { o.part j with merged := none })) q.1 j
        | none => s
      else s) s) s

/-! ### Loads as their front sees them (R196) -/

/-- The MX scale that an element of a lane needs (05 R98): the address of the scale of the block at `ia`, or none when the companion page
number is out of range. See log entry 36 (DEDUCED). -/
def scaleAddr (e : Pte) (ia : Nat) (t : Ty) : Option Nat :=
  let blk := ia % 65536 / blockBytes t
  let cpage : Int := (ia / 65536 % 2 ^ 24 : Nat) + e.sdelta
  if cpage < 0 ∨ 2 ^ 24 ≤ cpage then none
  else some (ia / 2 ^ 40 * 2 ^ 40 + cpage.toNat * 65536 + ia / 65536 % 16 * 4096 + blk)

/-- The elements of an `LDX`, decoded (R209): their values, and how many were reserved. -/
def ldxValues (x : Lane) (own : Ty) (n : Nat) : List Val × Nat :=
  let t := lineElem x.info own
  let bs := toBytes x.size x.got
  let tail (j : Nat) : Bool := isMx x.info && t.elemBits == 6 && decide (65520 ≤ x.args.getD 1 0 % 65536 + t.elemBits * j / 8)
  let dec := (List.range n).map fun j => (elemOf t).decode (elemAt t.elemBits bs j)
  let vals := ((List.range n).zip dec).map fun p =>
    if tail p.1 then .fin false 0 0
    else if isMx x.info then mxValue t (x.args.headD 0x7F) p.2.1
    else p.2.1
  (vals, (((List.range n).zip dec).filter fun p => p.2.2 && !tail p.1).length)

/-- The writes of a load in one lane (R207, R209). -/
def loadWrites (o : MemOp) (x : Lane) : List Write :=
  let f := o.f
  let t := f.tyOf o.op
  let n := f.count
  let d := f.d.toNat
  if o.kind = .ldx then
    let codes := (ldxValues x t n).1.map fun v => if x.ok then (elemOf t).encode .rne false 0 v else 0
    if t.width = 32 then ((List.range n).zip codes).map fun p => .reg (d + p.1) x.lane (BitVec.ofNat 32 p.2)
    else (List.range ((n + 1) / 2)).map fun i =>
      .reg (d + i) x.lane (BitVec.ofNat 32 (codes.getD (2 * i) 0 + 65536 * codes.getD (2 * i + 1) 0))
  else
    let bytes := t.width / 8
    ((List.range n).map fun j =>
      putTy t f x.lane (d + j * (if t.width = 64 then 2 else 1))
        (outInt t false (intOf t (x.got / 2 ^ (8 * bytes * j))))).flatten

/-- Bytes of a lane with the thread's own forwarded stores put over them (R207). See log entry 46 (DEDUCED). -/
def Lane.withFwd (x : Lane) : Lane :=
  if x.fwd.isEmpty then x
  else { x with got := leBytes (((List.range x.size).zip (toBytes x.size x.got)).map fun p => Sparse.get p.2 x.fwd p.1) }

/-- The results of a load are written: its marks go, and an acquire is complete (R75, R238). -/
def putLoad (s : State) (id : Nat) (o : MemOp) : State :=
  modWarp s o.core o.slot fun w =>
    let w := w.applyAll ((o.lanes.map Lane.withFwd).map (loadWrites o)).flatten
    let w := { w with marks := Sparse.erase w.marks id }
    if w.acqs.contains id then { w with acqs := w.acqs.filter (· != id), lastAcq := s.now, fetched := none, fetching := none } else w

/-- A load is over: its results are written, unless they are already, and its reserved codes and latency are counted. -/
def finishLoad (s : State) (id : Nat) (o : MemOp) : State :=
  let lanes := o.lanes.map Lane.withFwd
  let live := lanes.filter fun x => x.ok
  let bad := if o.kind = .ldx then
      (live.map fun x => (ldxValues x (o.f.tyOf o.op) o.f.count).2).foldl (· + ·) 0 else 0
  let s := countReserved (s.dropOp id) o.core bad
  let s := match o.undo with | some _ => s | none => putLoad s id o
  let s := modWarp s o.core o.slot fun w => { w with loads := w.loads.filter (· != id) }
  let written := match o.undo with | some _ => o.tick | none => s.cycle
  lanes.foldl (fun s _ => sample s o.core 1 (written - o.since)) s

/-- What a warp loses by some writes. -/
def undoOf (w : Warp) (ws : List Write) : Undo :=
  let old : Write → Write
    | .reg n l _ => .reg n l (w.reg n l)
    | .sreg n _ => .sreg n (w.sreg n)
    | .pred p l _ => .pred p l (w.pred p l)
  { writes := ws.map old, tags := ((ws.map Write.regs).flatten.map (· / 8)).eraseDups.map fun b => (b, w.tag b)
    errs := w.regErrs.filter fun e => (ws.map Write.regs).flatten.contains (e / 32) }

/-- A warp with what it lost. -/
def Undo.back (u : Undo) (w : Warp) : Warp :=
  let w := w.applyAll u.writes
  { w with tags := u.tags.foldl (fun m p => Sparse.set 0 m p.1 p.2) w.tags, regErrs := w.regErrs ++ u.errs }

/-- An L1 hit behind a load that has not passed its check is written at its own time (22 R364); what it overwrites is kept until the earlier
loads have passed. `tick` then holds the cycle of the write. See log entry 47 (DEDUCED). -/
def putEarly (s : State) (id : Nat) : State :=
  match s.op? id with
  | none => s
  | some o =>
    if o.stage = 2 ∧ o.undo = none ∧ !o.failed ∧ o.parts.all (·.l1) then
      let undo := undoOf (s.warpAt o.core o.slot) ((o.lanes.map Lane.withFwd).map (loadWrites o)).flatten
      putLoad (s.setOp id { o with undo := some undo, tick := s.cycle }) id o
    else s

/-- Cancel loads: their destinations keep their values, or get them back, the last first (R196). -/
def cancelLoads (s : State) (c k : Nat) (ids : List Nat) : State :=
  let s := ids.reverse.foldl (fun s id => match (s.op? id).bind (·.undo) with | some u => modWarp s c k u.back | none => s) s
  ids.foldl (fun s id => modWarp (s.dropOp id) c k fun w =>
    { w with marks := Sparse.erase w.marks id, loads := w.loads.filter (· != id), acqs := w.acqs.filter (· != id) }) s |> fun s =>
  ids.foldl unmerge s

/-- The lowest live lane whose check failed. -/
def MemOp.worst (o : MemOp) (w : Warp) : Option Lane := o.lanes.find? fun x => !x.ok && w.live x.lane

/-- TRAPINFO of a failed lane (R195): a companion page (SCALE), a reserved format (RFMT). -/
def laneInfo (o : MemOp) (x : Lane) (write : Bool) : Dword :=
  memInfo x.lane write (x.cause == 0x0B && decide (iaPkg x.ia = 0xFE)) (o.at_ == 1 && o.kind.tagged && x.cause != 0x07) (x.info == 1 && x.cause == 0x0A)

/-- What a failed lane's fault says of itself (R195, R329): the words of the instruction for causes 0x02 and 0x06, nothing for
0x0D, structure, lane and sector for 0x12 (16_events R341). The count of a `WBINIT` is no address (R317). -/
def laneFault (o : MemOp) (x : Lane) (write : Bool) : FaultInfo :=
  { cause := x.cause, addr := if x.cause = 0x06 ∨ (x.cause = 0x02 ∧ o.op = 0x163) then 0 else BitVec.ofNat 72 x.va, pc := BitVec.ofNat 72 o.pc,
    info := if x.cause = 0x02 ∨ x.cause = 0x06 then trapWords (encodeExt o.op o.f)
            else if x.cause = 0x0D then 0
            else if x.cause = 0x12 then BitVec.ofNat 64 (x.info + 256 * x.lane)
            else laneInfo o x write }

/-- A precise memory-side fault of the current front, at the instruction that made the access (R196): the front stands
there again. -/
def faultAt (s : State) (o : MemOp) (x : Lane) (write : Bool) : State :=
  let s := s.select o.core o.slot
  let w := s.warp
  let s := s.setWarp (w.setPcs (lanesOf w.frontMask) (BitVec.ofNat 72 o.pc))
  takeFault s (laneFault o x write)

/-- Go through a front's loads in program order (R196): those before the first unchecked one pass; a failed one is
reported, and every later one is cancelled; a complete one is written, when no earlier one is unchecked. See log entry 47 (DEDUCED). -/
def settleLoads (s : State) (c k : Nat) : State := go (s.warpAt c k).loads s
where
  go : List Nat → State → State
    | [], s => s
    | id :: r, s =>
      match s.op? id with
      | none => go r s
      | some o =>
        if o.stage = 0 then r.foldl putEarly s
        else match (if o.failed then o.worst (s.warpAt c k) else none) with
          | some x => faultAt (cancelLoads s c k (id :: r)) o x false
          | none => if o.stage = 2 then go r (finishLoad s id o) else go r s

/-- The attributes that the slice answered for a lane's leg. -/
def MemOp.pteOf (o : MemOp) (l : Nat) : Pte :=
  match o.parts.find? fun p => p.lanes.contains l with
  | some p => p.pte
  | none => {}

/-- The second round of an `LDX` or `STX` on MX pages: the scales of its blocks (05 R98, R209, R210), or none, in the lanes that precede the
lowest one whose check has failed. A lane whose companion page cannot be named fails with cause 0x0D, one whose companion page is on an
absent die with 0x08 (01_package R20); the unused tail of an FP6 page has no scale. The address of the data is kept in the lane. See log
entry 36 (DEDUCED). -/
def scaleRound (s : State) (o : MemOp) : Option MemOp :=
  let below := match o.worst (s.warpAt o.core o.slot) with | some x => x.lane | none => 32
  let needs (x : Lane) : Bool := x.ok && isMx x.info && decide (x.lane < below)
  let tail (x : Lane) : Bool := (lineElem x.info (o.f.tyOf o.op)).elemBits == 6 && decide (65520 ≤ x.ia % 65536)
  if o.kind.tagged ∧ o.at_ = 0 ∧ o.lanes.any needs then
    let lanes := o.lanes.map fun x =>
      if needs x && tail x then { x with args := 0x7F :: x.ia :: x.args }
      else if needs x then
        match scaleAddr (o.pteOf x.lane) x.ia (lineElem x.info (o.f.tyOf o.op)) with
        | some a =>
          let y := { x with ia := a, args := x.ia :: x.args }
          if place s a = .here ∧ Config.dieCount s.part ≤ iaDie a then { y with ok := false, cause := 0x08 } else y
        | none => { x with ok := false, cause := 0x0D }
      else x
    let read := (o.lanes.filter fun x => needs x && !tail x).map (·.lane)
    some { o with lanes, parts := legsOf (lanes.filter fun x => x.ok && read.contains x.lane) [], at_ := 1 }
  else none

end Sys2Proof.Machine
end

