-- ==== Sys2Proof/Machine/Mem.lean ====
section
/-! DEFINITION. The memory instructions (09_memory_spaces R204 to R214). -/

namespace Sys2Proof.Machine

/-! ### Loads -/

/-- A lane of an access, from its checked operand. A lane without an address is a helper's whose check failed (R206). -/
def mkLane (size : Nat) (p : Nat × Nat × Option Nat) : Lane :=
  match p.2.2 with
  | some ia => { lane := p.1, va := p.2.1, ia, size }
  | none => { lane := p.1, va := p.2.1, ia := 0, size, ok := false }

/-- The bytes of a thread's own stores and write-backs that a load of it would read and that are not yet performed (R207, R212, R218):
those of every residency of its warp; a byte that a later store of the thread has put into the L1 is no longer among them, nor is one of a
write-back that the L1 itself holds. I/O space has none (R191). -/
def storesOf (s : State) (ops : List (Nat × MemOp)) (c lane : Nat) (x : Lane) : Sparse Byte :=
  let base := byteKey s x.ia
  if place s x.ia = .io then []
  else ops.foldl (fun m p =>
    if (p.2.kind = .store ∨ p.2.kind = .writeBack) ∧ p.2.stage ≠ 3 then
      p.2.lanes.foldl (fun m y =>
        if y.lane = lane ∧ place s y.ia ≠ .io then
          ((List.range y.size).zip y.args).foldl (fun m q =>
            let a := byteKey s (y.ia + q.1)
            if decide (base ≤ a) && decide (a < base + x.size) && (Sparse.get? y.fwd q.1).isNone &&
               !(p.2.kind == .writeBack && l1Holds s c (y.ia + q.1)) then
              Sparse.put m (a - base) (BitVec.ofNat 8 q.2)
            else m) m
        else m) m
    else m) []

/-- The same for a load of the executing warp. See log entry 46 (DEDUCED). -/
def ownStores (s : State) (x : Lane) : Sparse Byte := storesOf s (ownOps s) s.selfCore x.lane x

/-- What a load that the hardware makes for a thread returns (R202, R207): the bytes that the core reads, under the thread's own
stores. See log entry 46 (DEDUCED). -/
def viewed (s : State) (o : MemOp) (x : Lane) : Lane :=
  let x := match place s x.ia with
    | .here => { x with got := leBytes (((List.range x.size).zip (toBytes x.size x.got)).map fun (p : Nat × Byte) =>
        if l1Holds s o.core (x.ia + p.1) then (l1Bytes s o.core (x.ia + p.1) 1).headD 0 else p.2) }
    | _ => x
  x.withFwd

/-- An earlier `RED` of a thread, among these operations, to a byte that a load reads has not been acknowledged (R207), or an earlier atomic of
it has not been answered (10_ordering R218). -/
def redOf (s : State) (ops : List (Nat × MemOp)) (lane : Nat) (x : Lane) : Bool :=
  ops.any fun p => (p.2.kind == .red || (p.2.kind.isAtomic && p.2.kind != .mcas)) && p.2.lanes.any fun y =>
    y.lane == lane && y.ia != 0 && l1Key s y.ia == l1Key s x.ia && decide (y.ia % 512 < x.ia % 512 + x.size) &&
    decide (x.ia % 512 < y.ia % 512 + y.size)

/-- The same for a load of the executing warp, with any of its residencies. -/
def redAhead (s : State) (x : Lane) : Bool := redOf s (ownOps s) x.lane x

/-- An earlier store of the thread to I/O space has not left the core, or has left another core and is not acknowledged, so that an access to
I/O space waits (R191). -/
def ioAhead (s : State) (x : Lane) : Bool :=
  place s x.ia == .io && (ownOps s).any fun p => p.2.kind == .store && (p.2.stage == 0 || p.2.core != s.selfCore) && p.2.lanes.any fun y =>
    y.lane == x.lane && place s y.ia == .io

/-- An earlier load of the thread has asked for the line of an address and has no answer: a later one follows it, though the L1 has come to
hold the line (10_ordering R218). -/
def lineAsked (s : State) (x : Lane) : Bool :=
  (ownOps s).any fun p => (p.2.kind == .load || p.2.kind == .ldx) && p.2.parts.any fun q =>
    !q.l1 && !q.done && q.lanes.contains x.lane && l1Key s q.ia == l1Key s x.ia

/-- An older read that a relaxed load may be merged with (10_ordering R228): its number and leg.
See log entry 6 (DESIGN CHOICE), entry 46 (DEDUCED). -/
def mergeWith (s : State) (o : MemOp) (p : Leg) : Option (Nat × Nat) :=
  let w := s.warp
  let narrow : Bool := match o.f.scope with
    | .thread | .quad | .warp | .group | .cluster => true
    | _ => false
  let clear := (ownOps s).all fun q => !(q.2.kind.isStore || q.2.kind.isAtomic) ||
    q.2.lanes.all fun y => l1Key s y.ia != l1Key s p.ia
  if o.f.order = .rlx ∧ narrow ∧ clear ∧ (classOf s o.core p.ia).cls ≠ 3 ∧ place s p.ia = .here then
    let found := s.ops.findSome? fun q =>
      let r := q.2
      if (r.kind == .load || r.kind == .ldx) && r.core / 48 == o.core / 48 && decide (w.lastAcq < r.tick) &&
         decide (w.lastAck < r.tick) && decide (s.cycle ≤ r.since + 256) then
        ((List.range r.parts.length).find? fun k =>
          let l := r.part k
          l.ia == p.ia && l.seen && !l.done && !l.l1).map fun k => (q.1, k)
      else none
    found.bind fun q => if Config.choice s.free then some q else none
  else none

/-- A format of a page that the part has no arithmetic for: RN30 without residue arithmetic (00_scope R3). -/
def tagAbsent (s : State) (fmt : Nat) : Bool := !Config.residue s.part && fmt == 0x0B

/-- Issue a load (R196, R197, R207 to R209). An `LDX` that hits a line of an MX format, or of one that the part has not, holds its front until
the check that its tag asks for has been made. -/
def loadBody (kind : OpKind) (op : Nat) (f : Fields) (s : State) : Act :=
  let w := s.warp
  let n := f.count
  let size := if kind = .load then n * ((f.tyOf op).width / 8) else n * 4
  let ls := execLanes f w
  match operandCheck s w .read (if kind = .load then size else 1) (kind == .load && n == 1) (ls.map fun l => (l, vaOf f w l)) with
  | .error e => operandFault .read e
  | .ok xs =>
    let lanes := xs.map (mkLane size)
    if lanes.isEmpty then .next s
    else if (lanes.any fun x => x.ok && (redAhead s x || ioAhead s x)) || (f.order == .sc && scOut s) then .wait
    else if lanes.all (!·.ok) then .next (land s s.cycle false (lanes.map (loadWrites { opOf s kind op f with lanes })).flatten)
    else
      let lanes := lanes.map fun x => if x.ok then { x with fwd := ownStores s x } else x
      let o := { opOf s kind op f with lanes }
      let sized (x : Lane) : Nat :=
        if kind = .load then x.size
        else match l1? s s.selfCore x.ia with
          | some l => (ldxBytes l.fmt (f.tyOf op) n x.ia).getD 0
          | none => 0
      let keeps (p : Leg) : Leg := { p with l1 := true, pte := { classOf s s.selfCore p.ia with sdelta := (pteAt s (iaDie p.ia) (iaPage p.ia)).sdelta } }
      let hit (x : Lane) : Bool :=
        x.ok && decide (f.clsBits 0 2 ≠ 2) && place s x.ia != .io && decide (sized x ≠ 0) && !lineAsked s x &&
        l1Hit s s.selfCore o.who x.ia (sized x)
      let hits := (legsOf (lanes.filter hit) []).map keeps
      let io := (lanes.filter fun x => x.ok && place s x.ia == .io).map fun x => ({ ia := x.ia, lanes := [x.lane] } : Leg)
      let miss := legsOf (lanes.filter fun x => x.ok && !hit x && place s x.ia != .io) []
      let miss := miss.map fun p => { p with merged := mergeWith s o p }
      let parts := hits ++ miss ++ io
      let open_ (p : Leg) : Bool := kind == .ldx && (isMx p.pte.fmt || tagAbsent s p.pte.fmt)
      let o := { o with parts, left := parts.length, stage := if miss.isEmpty && io.isEmpty && !hits.any open_ then 1 else 0 }
      let (id, s) := newOp { s with free := s.free + miss.length } o
      let u := usesOf op f f.one
      let s := s.setWarp { s.warp with
        marks := Sparse.put s.warp.marks id { regs := u.writeR, sregs := u.writeS }
        loads := s.warp.loads ++ [id]
        acqs := if acquires f.order then s.warp.acqs ++ [id] else s.warp.acqs }
      let s := countEvent s s.selfCore 0x04 hits.length (!w.priv)
      let s := countEvent s s.selfCore 0x05 miss.length (!w.priv)
      .next ((List.range parts.length).foldl (fun s k =>
        let p := o.part k
        if p.l1 then l1Touch (s.post (s.cycle + 14) (.loadResponse id k)) s.selfCore p.ia (f.clsBits 0 2 == 1)
        else if p.merged.isSome then countEvent s s.selfCore 0x0A 1 (!w.priv)
        else sendLeg s id k) s)

/-- A merged load takes what the older read obtained when that read's response passes (10_ordering R228); it goes on its own where the slice
that answered did not hold all its sectors. -/
def mergeNow (s : State) (id k : Nat) (old : Leg) : State :=
  s.ops.foldl (fun s q =>
    (List.range q.2.parts.length).foldl (fun s j =>
      if (q.2.part j).merged = some (id, k) then
        let o := q.2
        let p := o.part j
        match pteCheck old.pte o.who false with
        | some c => (s.setOp q.1 (failLeg (o.setPart j { p with merged := none, seen := true }) j c false)).post s.cycle (.loadResponse q.1 j)
        | none =>
          let get (ia n : Nat) : List Byte := (List.range n).map fun i => Memory.read old.snap (iaLocal (ia + i))
          let o2 := o.onLanes p.lanes (readLane o old.pte.fmt get)
          let held (x : Lane) : Bool := !p.lanes.contains x.lane || (sectorsOver x.ia x.size).all fun i => old.had / 2 ^ i % 2 == 1
          if o2.lanes.all held then
            (s.setOp q.1 (o2.setPart j { p with merged := none, seen := true, pte := old.pte, expiry := none })).post s.cycle
              (.loadResponse q.1 j)
          else sendLeg (s.setOp q.1 (o.setPart j { p with merged := none })) q.1 j
      else s) s) s

/-- A load's data are in, or its check has failed. See log entry 7 (DEDUCED). -/
def completeLoad (s : State) (id : Nat) (o : MemOp) : State :=
  let absent (x : Lane) : Bool := (x.ok || x.cause == 0x07) && o.kind == .ldx && tagAbsent s x.info
  let check (x : Lane) : Lane := if absent x then { x with ok := false, cause := 0x06 } else x
  let o : MemOp := { o with lanes := o.lanes.map check }
  let o := { o with stage := 2, failed := o.lanes.any fun x => !x.ok && x.cause != 0 }
  settleLoads (s.setOp id o) o.core o.slot

/-- The sectors that the L1 takes from a leg's answer: the units of the lanes that have their bytes, but for sectors in error (16_events R341). -/
def legSectors (o : MemOp) (k : Nat) : List Nat :=
  let p := o.part k
  let good := { o with lanes := o.lanes.filter (·.ok) }
  List.filter (fun i => p.had / 2 ^ i % 2 == 1) ((good.spans k).map fun sp => ((unitsOver p.pte.cls sp.1 sp.2).map fun u =>
    (List.range (grain p.pte.cls / 32)).map fun i => u * (grain p.pte.cls / 32) + i).flatten).flatten

/-- The L1 may keep a copy of an answered line: of this package, or of another whose tenant passes the partition filter
(14_tables R304, R307, R310). -/
def mayKeep (s : State) (p : Leg) : Bool :=
  !p.l1 && !p.stale && p.seen && (match place s p.ia with
    | .here => true
    | .io => false
    | .other _ => filterPasses s p.pte.tenant)

/-- A leg's response reaches the core (R199, R202): the L1 gives its bytes halfway (R24), and a response of a home fills the L1. The
operation is none while the leg is not done. -/
def legBack (s : State) (id k : Nat) (o : MemOp) : State × Option MemOp :=
  let p := o.part k
  if p.l1 ∧ !p.seen then
    let errs := match l1? s o.core p.ia with | some l => l.errs | none => 0
    let o := o.onLanes p.lanes fun x => markErr errs 2 (readLane o p.pte.fmt (l1Bytes s o.core) x)
    ((s.setOp id (o.setPart k { p with seen := true })).post (s.cycle + 14) (.loadResponse id k), none)
  else
    let sectors := legSectors o k
    let keep := mayKeep s p && !sectors.isEmpty && decide (o.policy ≠ 2)
    let s := if keep then l1Fill s o.core p.ia p.pte sectors p.expiry p.snap (o.policy == 1) else s
    let o := if keep && p.pte.cls == 3 && o.at_ == 0 then o.onLanes p.lanes (readLane o p.pte.fmt (l1Bytes s o.core)) else o
    (s, some { o.setPart k { p with done := true } with left := o.left - 1 })

/-- The scale byte of a lane's second access where its core's L1 or the thread's own stores have it (R202, R207); it is kept beyond the
forwarded bytes of the elements. -/
def ownScale (s : State) (o : MemOp) (x : Lane) : Lane :=
  if !x.ok || !isMx x.info then x
  else
    let y : Lane := { lane := x.lane, va := x.va, ia := x.ia, size := 1 }
    match (if l1Holds s o.core x.ia then (l1Bytes s o.core x.ia 1).head?
        else Sparse.get? (storesOf s (s.ops.filter fun p => o.sameWarp p.2) o.core x.lane y) 0) with
    | some b => { x with fwd := Sparse.put x.fwd 1000 b }
    | none => x

/-- The scale of a lane once its second access is back. -/
def keptScale (x : Lane) : Lane :=
  match Sparse.get? x.fwd 1000 with
  | some b => { x with args := b.toNat :: x.args.drop 1 }
  | none => x

/-- The second round of an `LDX` on MX pages leaves the core: scales that the L1 has are hits as other bytes are (22 R364), and come with the
elements when those were hits too. -/
def sendScales (s : State) (id : Nat) (o : MemOp) (hits : Bool) : State :=
  let o := { o with lanes := o.lanes.map (ownScale s o) }
  let lanes := o.lanes.filter fun x => o.parts.any fun p => p.lanes.contains x.lane
  let hit (x : Lane) : Bool := decide (o.policy ≠ 2) && l1Hit s o.core o.who x.ia 1
  if hits ∧ lanes.all hit then
    let read (x : Lane) : Lane := match l1? s o.core x.ia with
      | some l => markErr l.errs 2 (readLane o l.fmt (l1Bytes s o.core) x)
      | none => x
    completeLoad s id { o with lanes := (o.onLanes (lanes.map (·.lane)) read).lanes.map keptScale }
  else
    let keeps (p : Leg) : Leg := { p with l1 := true, pte := classOf s o.core p.ia }
    let parts := (legsOf (lanes.filter hit) []).map keeps ++ legsOf (lanes.filter fun x => !hit x) []
    (List.range parts.length).foldl (fun s k =>
      if (parts.getD k { ia := 0, lanes := [] }).l1 then s.post (s.cycle + 14) (.loadResponse id k) else sendLeg s id k)
      (s.setOp id { o with parts, left := parts.length })

/-- A leg of a load is answered (R196). -/
def respondLoad (s : State) (id k : Nat) : State :=
  match s.op? id with
  | none => s
  | some o =>
    match legBack s id k o with
    | (s, none) => s
    | (s, some o2) =>
      let s := mergeNow (s.setOp id o2) id k (o.part k)
      if o2.left ≠ 0 then s
      else match scaleRound s o2 with
        | some o3 => sendScales s id o3 (o2.parts.all (·.l1))
        | none => completeLoad s id (if o2.at_ = 1 then { o2 with lanes := o2.lanes.map keptScale } else o2)

def execLd (f : Fields) (s : State) := issueX 0x100 f s (loadBody .load 0x100)
def execLdx (f : Fields) (s : State) := issueX 0x102 f s (loadBody .ldx 0x102)
def execLdShort (k : Short) (s : State) := issueK 0x18 k s (loadBody .load 0x100)

/-! ### Stores -/

/-- Entries in the warp's store buffer: one for each instruction that put stores there (R207). -/
def bufferFull (s : State) : Bool :=
  decide (64 ≤ ((s.warp.storeBuf.map fun id => match s.op? id with | some o => o.since | none => 0).eraseDups).length)

/-- The bytes that a thread stores (R207). -/
def storeBytes (op : Nat) (f : Fields) (w : Warp) (l : Nat) : List Nat :=
  let t := f.tyOf op
  let c := match f.c with | .reg n => n.toNat | _ => 0
  ((List.range f.count).map fun j =>
    let x := if t.width = 64 then (rd f w l (c + 2 * j + 1) ++ rd f w l (c + 2 * j) : Dword).toNat
             else (rd f w l (c + j)).toNat
    (toBytes (t.width / 8) x).map BitVec.toNat).flatten

/-- The page of an address is being switched by an `RMODE`, or its table line worked on by an `XINV`: an access to it waits at the home
(R203; 14_tables R304, R307). See log entry 7 (DEDUCED). -/
def switching (s : State) (ia : Nat) : Bool :=
  s.ops.any fun p => match p.2.kind with
    | .rmode => p.2.lockedPage == some (iaLocal ia / 65536)
    | .xinv => match p.2.todo.head? with
      | some q => p.2.at_ != 0 && q == (iaDie ia, iaPage ia / 32)
      | none => false
    | _ => false

/-- A thread's store has put bytes into the L1: its older stores to them that are on their way are no longer what its loads return (R207). -/
def supersede (s : State) (o : MemOp) (x : Lane) : State :=
  let base := byteKey s x.ia
  let newer (y : Lane) (i : Nat) : Bool := decide (base ≤ byteKey s (y.ia + i)) && decide (byteKey s (y.ia + i) < base + x.size)
  let mark (y : Lane) : Lane :=
    if y.lane = x.lane then { y with fwd := ((List.range y.size).filter (newer y)).foldl (fun m i => Sparse.put m i 1) y.fwd } else y
  { s with ops := s.ops.map fun q =>
      if q.2.kind = .store ∧ o.sameWarp q.2 then (q.1, { q.2 with lanes := q.2.lanes.map mark }) else q }

/-- A store that writes through a software-managed line of the L1 (R204): the bytes that the line holds are those of the store, and no longer
dirty. See log entry 46 (DEDUCED). -/
def writeThrough (s : State) (o : MemOp) (x : Lane) : State :=
  match l1? s o.core x.ia with
  | none => s
  | some l =>
    let held := ((List.range x.size).zip x.args).filter fun q => l1Holds s o.core (x.ia + q.1)
    let at_ (q : Nat × Nat) : Nat := x.ia % 512 + q.1
    setL1 s o.core (l1Key s x.ia) { l with data := held.foldl (fun m q => Memory.write m (at_ q) (BitVec.ofNat 8 q.2)) l.data
                                           dirty := held.foldl (fun m q => Sparse.erase m (at_ q)) l.dirty }

/-- One lane's store within a line: into the L1 on a software-managed page (R202), otherwise on its way home. -/
def storePart (o : MemOp) (s : State) (x : Lane) : State :=
  let e := classOf s o.core x.ia
  let through := e.present && e.cls == 3 && decide (o.f.clsBits 0 2 = 2) && (pteCheck e o.who true).isNone && place s x.ia == .here
  let home := pushStore (if through then
    writeThrough (freezeHits s o.core (l1Key s x.ia) (some (o.gen, x.lane))) o x else s) { o with lanes := [x] }
  if e.present && e.cls == 3 && decide (o.f.clsBits 0 2 ≠ 2) && (pteCheck e o.who true).isNone && place s x.ia == .here && !switching s x.ia then
    let t := l1Place (freezeHits s o.core (l1Key s x.ia) (some (o.gen, x.lane))) o.core x.ia e (o.f.clsBits 0 2 == 1)
    if (l1? t o.core x.ia).isNone then home
    else l1Write (supersede t o x) o.core x.ia e (x.args.map (BitVec.ofNat 8))
      { sl := o.slot == 64, ctx := o.ctx, wix := o.wix, lane := x.lane, user := o.user, tenant := o.tenant, va := x.va, pc := o.pc }
      (o.f.clsBits 0 2 == 1)
  else home

/-- One lane's store. Bytes of FP6 elements may run over the end of a line; each line gets its own. See log entry 29 (DEDUCED). -/
def storeLane (o : MemOp) (s : State) (x : Lane) : State :=
  let k := 512 - x.ia % 512
  if x.size ≤ k then storePart o s x
  else storePart o (storePart o s { x with size := k, args := x.args.take k })
    { x with va := x.va + k, ia := x.ia + k, size := x.size - k, args := x.args.drop k }

/-- Issue a store (R207, R374). -/
def storeBody (op : Nat) (f : Fields) (s : State) : Act :=
  let w := s.warp
  let size := f.count * ((f.tyOf op).width / 8)
  let ls := (execLanes f w).filter w.live
  match operandCheck s w .write size (f.count == 1) (ls.map fun l => (l, vaOf f w l)) with
  | .error e => operandFault .write e
  | .ok xs =>
    if xs.isEmpty then .next s
    else released (releases f.order) f.scope s fun s =>
      if bufferFull s then .wait
      else
        let o := opOf s .store op f
        .next ((xs.map (mkLane size)).foldl (fun s x => storeLane o s { x with args := storeBytes op f w x.lane }) s)

def execSt (f : Fields) (s : State) := issueX 0x101 f s (storeBody 0x101)
def execStShort (k : Short) (s : State) := issueK 0x19 k s (storeBody 0x101)

/-- The register values that an `STX` encodes (R210). -/
def stxValues (f : Fields) (w : Warp) (l : Nat) : List Nat :=
  let t := f.tyOf 0x103
  let c := match f.c with | .reg n => n.toNat | _ => 0
  (List.range f.count).map fun j =>
    if t.width = 32 then (w.reg (c + j) l).toNat
    else (w.reg (c + j / 2) l).toNat / 2 ^ (16 * (j % 2)) % 65536

/-- Issue an `STX`: it waits for the tag and the write check before it retires (R210). -/
def execStx (f : Fields) (s : State) := issueX 0x103 f s fun f s =>
  let w := s.warp
  let ls := (execLanes f w).filter w.live
  match operandCheck s w .write 1 false (ls.map fun l => (l, vaOf f w l)) with
  | .error e => operandFault .write e
  | .ok xs =>
    if xs.isEmpty then .next s
    else released (releases f.order) f.scope s fun s =>
      if bufferFull s then .wait
      else
        let lanes := xs.map fun p => { mkLane 1 p with args := stxValues f w p.1 }
        let parts := legsOf lanes []
        let (id, s) := newOp s { opOf s .stx 0x103 f with lanes, parts, left := parts.length }
        .next (sendLegs (s.setWarp { s.warp with holds := some id }) id parts.length)

/-- What an `STX` lane stores once its tag is known (R210): the bytes at the element address, and the scale; none when a check
fails, with its cause. -/
def stxEncode (s : State) (o : MemOp) (x : Lane) : Except Nat (List Nat × Option Nat) :=
  let own := o.f.tyOf o.op
  let t := lineElem x.info own
  let n := o.f.count
  let ia := if o.at_ = 1 ∧ isMx x.info then x.args.getD 1 0 else x.ia
  let regs := (if o.at_ = 1 ∧ isMx x.info then x.args.drop 2 else x.args)
  let vals := regs.map fun r => ((elemOf own).decode r).1
  if t = .rn30 ∧ !Config.residue s.part then .error 0x06
  else if (ldxBytes x.info own n ia).isNone then .error 0x07
  else if isMx x.info then
    if n ≠ 32 then .error 0x0D
    else
      let (sc, codes) := encodeBlock t .rne false (fun _ => 0) vals
      .ok ((packElems t.elemBits codes).map BitVec.toNat, some sc)
  else .ok ((packElems t.elemBits (vals.map ((elemOf t).encode .rne false 0))).map BitVec.toNat, none)

/-- Put an `STX` lane's stores on their way (R210): the elements, and an MX block's scale. The unused tail of an FP6 page stays
(05 R98). See log entry 36 (DEDUCED). -/
def stxStores (o : MemOp) (s : State) (x : Lane) : State :=
  match stxEncode s o x with
  | .error _ => s
  | .ok (bs, sc) =>
    let mx := o.at_ = 1 ∧ isMx x.info
    let ia := if mx then x.args.getD 1 0 else x.ia
    let st : MemOp := { o with kind := .store, parts := [], left := 0, at_ := 0, stage := 0 }
    if isMx x.info ∧ (lineElem x.info .f32).elemBits = 6 ∧ 65520 ≤ ia % 65536 then s
    else
      let s := storeLane st s { x with ia, size := bs.length, args := bs, got := 0, info := 0 }
      match sc with
      | some c => storeLane st s { x with size := 1, args := [c], got := 0, info := 0 }
      | none => s

/-- The checks of an `STX` lane that its tag asks for (R210), which come before its scale is asked for. -/
def stxCheck (s : State) (o : MemOp) (x : Lane) : Lane :=
  if !x.ok then x else match stxEncode s o x with
    | .error c => { x with ok := false, cause := c }
    | .ok _ => x

/-- The tags and checks of an `STX` are back. -/
def completeStx (s : State) (id : Nat) (o : MemOp) : State :=
  let o : MemOp := { o with lanes := o.lanes.map (stxCheck s o) }
  let s := modWarp (s.dropOp id) o.core o.slot fun w => { w with holds := none }
  match o.worst (s.warpAt o.core o.slot) with
  | some x => faultAt s o x true
  | none => (o.lanes.filter (·.ok)).foldl (stxStores o) s

/-- A response to an `STX`. -/
def respondStx (s : State) (id k : Nat) : State :=
  match s.op? id with
  | none => s
  | some o =>
    let o : MemOp := { o.setPart k { o.part k with done := true } with left := o.left - 1 }
    let s := s.setOp id o
    if o.left ≠ 0 then s
    else
      let o := if o.at_ = 0 then { o with lanes := o.lanes.map (stxCheck s o) } else o
      match scaleRound s o with
      | some o2 =>
        let o2 := { o2 with left := o2.parts.length }
        if o2.parts.isEmpty then completeStx s id o2 else sendLegs (s.setOp id o2) id o2.parts.length
      | none => completeStx s id o

/-! ### Prefetch and cache maintenance -/

/-- `PREF` (R211): one leg for each line; a lane whose translation fails, or that names I/O space, is dropped. -/
def execPref (f : Fields) (s : State) := issueX 0x104 f s fun f s =>
  let w := s.warp
  let tr := (execLanes f w).map fun l => (l, vaOf f w l, translateFor s w .read (vaOf f w l))
  let good : List Lane := tr.filterMap fun p => match p.2.2 with
    | .ok ia => if place s ia = .io then none else some { lane := p.1, va := p.2.1, ia, size := 1 }
    | .error _ => none
  let dropped := (tr.filter fun p => w.live p.1).length - (good.filter fun x => w.live x.lane).length
  let s := countEvent s s.selfCore 0x09 dropped (!w.priv)
  let here (x : Lane) : Bool := f.cls == 0 && l1Hit s s.selfCore ⟨!w.priv, w.tenant.toNat⟩ x.ia 1
  let parts := legsOf (good.filter fun x => !here x) []
  if parts.isEmpty then .next s
  else
    let (id, s) := newOp s { opOf s .pref 0x104 f with lanes := good, parts, left := parts.length }
    .next (sendLegs s id parts.length)

/-- A prefetch's answer: the L1 is filled, or the `PREF` counts as dropped, in each thread (R211). See log entry 34 (DEDUCED). -/
def respondPref (s : State) (id k : Nat) : State :=
  match s.op? id with
  | none => s
  | some o =>
    let p := o.part k
    let bad := (o.lanes.filter fun x => p.lanes.contains x.lane && !x.ok && (s.warpAt o.core o.slot).live x.lane).length
    let s := if o.lanes.any fun x => p.lanes.contains x.lane && !x.ok then countEvent s o.core 0x09 bad o.user
      else if o.f.cls = 0 ∧ mayKeep s p then l1Fill s o.core p.ia p.pte (legSectors o k) p.expiry p.snap false else s
    let o := { o with left := o.left - 1 }
    if o.left = 0 then s.dropOp id else s.setOp id o

/-- The line numbers of the core's L1 that a maintenance instruction acts on, each with its base address, and the thread that
brought it (R212). -/
def maintained (f : Fields) (s : State) (xs : List (Nat × Nat × Option Nat)) : List (Nat × Nat × Nat) :=
  let lines := (s.core s.selfCore).l1
  let w := s.warp
  let base (k : Nat) : Nat := if k < 2 ^ 31 then 0xFF * 2 ^ 56 + k * 512 else (k / 2 ^ 31 - 1) * 2 ^ 56 + k % 2 ^ 31 * 512
  if f.cls = 1 then
    (lines.filter fun p => w.priv || p.2.tenant == 0 || p.2.tenant == w.tenant.toNat).map fun p => (p.1, base p.1, (actor f w).getD 0)
  else
    xs.foldl (fun acc x => match x.2.2 with
      | some ia => let k := l1Key s ia
                   if acc.any (fun q => q.1 == k) || ((l1? s s.selfCore ia).filter (·.there s.now)).isNone then acc else acc ++ [(k, base k, x.1)]
      | none => acc) []

/-- A dirty sector in error of the lines that a write-back would read: the address it was stored to, the thread, the sector (16_events R341). -/
def spoilt (s : State) (ls : List (Nat × Nat × Nat)) : Option (Nat × Nat × Nat) :=
  ls.findSome? fun q => match Sparse.get? (s.core s.selfCore).l1 q.1 with
    | some l => ((List.range 16).find? fun i => l.cls == 3 && l.errs / 2 ^ i % 2 == 1 && !(l.dirtyIn i).isEmpty).map fun i =>
        ((Sparse.get {} l.writer i).va, q.2.2, i)
    | none => none

/-- `CWB`, `CINV`, `CFLUSH` (R212): write back the dirty bytes of software-managed lines, drop lines, or both. -/
def maintain (wb inv : Bool) (f : Fields) (s : State) : Act :=
  let w := s.warp
  let ls := (execLanes f w).filter w.live
  match (if f.cls = 1 then .ok [] else operandCheck s w .read 1 false (ls.map fun l => (l, vaOf f w l))) with
  | .error e => operandFault .read e
  | .ok xs =>
    if ls.isEmpty then .next s
    else if bufferFull s then .wait
    else
      let foreign := xs.find? fun x => match x.2.2 with
        | some ia => match (l1? s s.selfCore ia).filter (·.there s.now) with
          | some l => !w.priv && l.tenant != 0 && l.tenant != w.tenant.toNat
          | none => false
        | none => false
      match foreign with
      | some x => .trap 0x19 (BitVec.ofNat 72 x.2.1) (memInfo x.1 false false false false)
      | none => match if wb then spoilt s (maintained f s xs) else none with
        | some (va, lane, i) => .trap 0x12 (BitVec.ofNat 72 va) (errInfo 2 lane i)
        | none =>
        .next ((maintained f s xs).foldl (fun s q =>
          match Sparse.get? (s.core s.selfCore).l1 q.1 with
          | none => s
          | some l =>
            let s := if wb && l.cls == 3 then
                let s := writeBack s s.selfCore q.2.1 l (some (opOf s .writeBack 0x107 f, q.2.2))
                setL1 s s.selfCore q.1 l.clean
              else s
            if inv then dropL1 s s.selfCore q.1 else s) s)

def execCflush (f : Fields) (s : State) := issueX 0x105 f s (maintain true true)
def execCinv (f : Fields) (s : State) := issueX 0x106 f s (maintain false true)
def execCwb (f : Fields) (s : State) := issueX 0x107 f s (maintain true false)

/-! ### Fences -/

/-- An atomic of the warp has not been answered: its read is no earlier load that has been written (R213, R216). -/
def atomicOut (s : State) : Bool := (opsOf s s.selfCore s.warp.gen).any fun p => p.2.kind.isAtomic

/-- `FENCE` (R213): the waits of its components. -/
def execFence (f : Fields) (s : State) := issueX 0x108 f s fun f s =>
  if (execLanes f s.warp).isEmpty then .next s
  else released (releases f.order) f.scope s fun s =>
    if acquires f.order then
      if s.warp.loads.isEmpty && !atomicOut s then .next (s.setWarp { s.warp with lastAcq := s.now, fetched := none, fetching := none }) else .wait
    else .next s

/-! ### Probing a translation -/

/-- The range fields of a status word (R214), and the IA: none, which is written as 0, also where a range covers the address and the local
address reaches 2^40. See log entry 51 (DESIGN CHOICE). -/
def probeRange (w : Warp) (va : Nat) : Nat × Option Nat :=
  if w.single then (if va < 2 ^ 64 then (1 + 2 * 0b1110, some va) else (0, none))
  else match findRange w.rangeList va with
    | none => (0, none)
    | some (n, r) =>
      let st := 1 + 2 * (8 * r.rd.toNat + 4 * r.wr.toNat + 2 * r.ex.toNat + r.us.toNat) + 32 * n
      let loc := r.loc * 2 ^ 21 + (va - r.lo * 2 ^ 21)
      (st, if 2 ^ 40 ≤ loc then none else some (r.pkg * 2 ^ 56 + loc))

/-- The L1 word of a `PROBE` (R214). -/
def probeL1 (s : State) (c : Nat) (ia : Option Nat) : Nat :=
  match ia.bind fun ia => if place s ia = .io then none else (l1? s c ia).map fun l => (ia, l) with
  | none => 0
  | some (ia, l) =>
    let live (i : Nat) : Bool := l.cls == 3 || decide (s.now < Sparse.get 0 l.lease (32 * i / grain l.cls))
    (sectorsOf (l.valid % 65536)).foldl (fun m i => if live i then m + 2 ^ i else m) 0 +
      65536 * min 0xFFFF (Sparse.get 0 l.lease (unitOf l.cls ia) - s.now)

/-- The page fields of a status word (R214); an entry of tenant 0 differs from no context. See log entry 51 (DESIGN CHOICE). -/
def probePage (s : State) (o : MemOp) (ia : Nat) (e : Pte) : Nat :=
  let hide := o.user && e.tenant != 0 && e.tenant != o.tenant
  let pinned := e.pin || (s.die (iaDie ia)).leases.any fun l => decide (l.first ≤ iaPage ia) && decide (iaPage ia ≤ l.last)
  256 + (if hide then 2 ^ 23
    else 2 ^ 9 * e.present.toNat + 2 ^ 10 * e.writable.toNat + 2 ^ 11 * e.user.toNat + 2 ^ 12 * pinned.toNat +
      2 ^ 13 * e.acc.toNat + 2 ^ 14 * e.dirty.toNat + 2 ^ 15 * e.fmt + 2 ^ 21 * e.cls)

/-- The four result registers of a lane. -/
def probeWrites (f : Fields) (l : Nat) (ia : Option Nat) (status l1 : Nat) : List Write :=
  put64 f l f.d.toNat (BitVec.ofNat 64 (ia.getD 0)) ++ put32 f l (f.d.toNat + 2) (BitVec.ofNat 32 status) ++
  put32 f l (f.d.toNat + 3) (BitVec.ofNat 32 l1)

/-- `PROBE` (R214): without `.WALK`, and for lanes the walker is not asked for, the answer lands 8 cycles after issue; so it is for an address
on an absent die, whose IA is written with PWALK 0. See log entry 51 (DESIGN CHOICE). -/
def execProbe (f : Fields) (s : State) := issueX 0x109 f s fun f s =>
  let w := s.warp
  let c := s.selfCore
  let on := execLanes f w
  let asked (l : Nat) : Option Nat := match (probeRange w (vaOf f w l)).2 with
    | some ia => if f.sub = 1 ∧ place s ia ≠ .io ∧ (place s ia ≠ .here ∨ iaDie ia < Config.dieCount s.part) then some ia else none
    | none => none
  let lanes : List Lane := on.filterMap fun l => (asked l).map fun ia =>
    { lane := l, va := vaOf f w l, ia, size := 1, args := [(probeRange w (vaOf f w l)).1, probeL1 s c (some ia)] }
  let direct := on.filter fun l => (asked l).isNone
  let s := land s (s.cycle + 8) false ((direct.map fun l =>
    let (st, ia) := probeRange w (vaOf f w l)
    probeWrites f l ia st (probeL1 s c ia)).flatten)
  if lanes.isEmpty then .next s
  else
    let parts := legsOf lanes []
    let (id, s) := newOp s { opOf s .probe 0x109 f with lanes, parts, left := parts.length }
    let s := s.setWarp { s.warp with marks := Sparse.put s.warp.marks id { regs := (usesOf 0x109 f false).writeR } }
    .next (sendLegs s id parts.length)

/-- The home answers a walk (R214): a read of the walker that does not set the accessed bit. -/
def serveProbe (s : State) (id k : Nat) (o : MemOp) : State :=
  let p := o.part k
  match place s p.ia with
  | .here =>
    let (e, missed, s) := walk s (iaDie p.ia) (iaPage p.ia)
    let o := o.onLanes p.lanes fun x => { x with got := probePage s o x.ia e }
    sendBack (s.setOp id o) o.core p.ia (if missed then 300 else 0) (.loadResponse id k)
  | .other g =>
    let known := reachable s g
    let word := if known then 256 + (leBytes [Config.outsideByte s.free 0, Config.outsideByte s.free 1] % 2 ^ 14) * 512 else 256
    let o := o.onLanes p.lanes fun x => { x with got := word }
    sendBack { (s.setOp id o) with free := s.free + 1 } o.core p.ia 0 (.loadResponse id k)
  | .io => s

/-- A walk's answer: its lanes are written when the last one is back. -/
def respondProbe (s : State) (id : Nat) : State :=
  match s.op? id with
  | none => s
  | some o =>
    let o := { o with left := o.left - 1 }
    if o.left ≠ 0 then s.setOp id o
    else modWarp (s.dropOp id) o.core o.slot fun w =>
      let w := w.applyAll (o.lanes.map fun x => probeWrites o.f x.lane (some x.ia) (x.args.headD 0 + x.got) (x.args.getD 1 0)).flatten
      { w with marks := Sparse.erase w.marks id }

end Sys2Proof.Machine
end

