-- ==== Sys2Proof/Machine/Atomics.lean ====
section
/-! DEFINITION. Atomics, multi-word compare-and-swap and condition waits (11_atomics R235 to R250), and the weighbridge operations, which
are performed as they are (15_counters R315 to R318). -/

namespace Sys2Proof.Machine

/-! ### Lanes and waits at issue -/

/-- A store of a thread, among these operations, to the grain unit of an address is not yet acknowledged (R238). -/
def storeOut (s : State) (ops : List (Nat × MemOp)) (c lane ia : Nat) : Bool :=
  let cls := (classOf s c ia).cls
  ops.any fun p => p.2.kind.isStore && p.2.counted && p.2.lanes.any fun y =>
    y.lane == lane && l1Key s y.ia == l1Key s ia && unitOf cls y.ia == unitOf cls ia

/-- The same for a thread of the executing warp, with any of its residencies. -/
def ownStoreOut (s : State) (x : Lane) : Bool := storeOut s (ownOps s) s.selfCore x.lane x.ia

/-- The waits of an atomic before it leaves the core (R220, R238). -/
def atomicReady (s : State) (f : Fields) (lanes : List Lane) : Bool :=
  !(lanes.any fun x => x.ok && ownStoreOut s x) && !(f.order == .sc && scOut s)

/-- Grain units that lanes address (R237). -/
def unitCount (s : State) (lanes : List Lane) : Nat :=
  ((lanes.map fun x => (l1Key s x.ia, unitOf (classOf s s.selfCore x.ia).cls x.ia)).eraseDups).length

/-- Count an atomic's accesses, or take them off again (R238). -/
def countLanes (w : Warp) (s : State) (o : MemOp) (up : Bool) : Warp :=
  o.lanes.foldl (fun w x =>
    if !x.ok then w
    else if up then countUp w (targetOf s o.core x.ia) 1 else countDown w (targetOf s o.core x.ia) 1) w

/-- The requests of an operation's legs have left the core now: each has its retransmission timer (R247). See log entry 35 (DEDUCED). -/
def startTimer (s : State) (id : Nat) : State :=
  match s.op? id with
  | none => s
  | some o =>
    let fresh (p : Leg) : Leg := { p with sent := s.cycle, sentTick := s.now, tries := 0 }
    (List.range o.parts.length).foldl (fun s k => armTimer s o.core (o.part k).ia id k) (s.setOp id { o with parts := o.parts.map fresh })

/-- Legs of lanes by home slice, or by line in another package, in order of their lowest lane: a slice performs its lanes in ascending
thread index (R237). -/
def sliceLegs (s : State) : List Lane → List Leg → List Leg
  | [], acc => acc
  | x :: r, acc =>
    let same (p : Leg) : Bool := match place s x.ia with
      | .here => place s p.ia == .here && iaSlice p.ia == iaSlice x.ia
      | _ => l1Key s p.ia == l1Key s x.ia && place s p.ia == place s x.ia
    match acc.findIdx? same with
    | some i => sliceLegs s r (acc.modify i fun p => { p with lanes := p.lanes ++ [x.lane] })
    | none => sliceLegs s r (acc ++ [{ ia := x.ia / 512 * 512, lanes := [x.lane] }])

/-- Send the legs of an atomic: each is performed 6 cycles after it arrives (R375). -/
def sendVisits (s : State) (id : Nat) (o : MemOp) : State :=
  (List.range o.parts.length).foldl (fun s k => sendOut s o.core (o.part k).ia (.atomicAtHome id k) {} 6) s

/-- Issue an instruction that is performed at its home slices lane by lane in one or two visits (R237, R241, R316). `args` are a
lane's operands; `marks` what the result writes. -/
def visitBody (kind : OpKind) (op align : Nat) (acc : Access) (f : Fields) (marks : Marks) (args : Warp → Nat → List Nat)
    (s : State) : Act :=
  let w := s.warp
  let on := execLanes f w
  let live := on.filter w.live
  match operandCheck s w acc align false (live.map fun l => (l, vaOf f w l)) with
  | .error e => operandFault acc e
  | .ok xs =>
    let lanes := xs.map fun p => { mkLane align p with args := args w p.1 }
    let helpers : List Lane := (on.filter fun l => !w.live l).map fun l => { lane := l, va := 0, ia := 0, size := align, ok := false }
    if on.isEmpty then .next s
    else if lanes.isEmpty then .next (land s s.cycle false (helpers.map fun x => helperWrites op f w x.lane).flatten)
    else released (releases f.order) f.scope s fun s =>
      if !atomicReady s f lanes then .wait
      else if !(countsFit s lanes) then .wait
      else
        let two := decide (1 < unitCount s lanes) && !f.one
        let parts := sliceLegs s lanes []
        let o := { opOf s kind op f with
          lanes := lanes ++ helpers, parts, left := parts.length, visit := if two then 2 else 1 }
        let (id, s) := newOp s o
        let w := s.warp
        let s := s.setWarp { (countLanes w s o true) with
          marks := Sparse.put w.marks id marks, holds := some id
          acqs := if acquires f.order then w.acqs ++ [id] else w.acqs }
        .next (startTimer (sendVisits s id o) id)
where
  /-- A helper's results (R241, R316). -/
  helperWrites (op : Nat) (f : Fields) (w : Warp) (l : Nat) : List Write :=
    let u := usesOf op f f.one
    (u.writeR.map fun n => Write.reg n l 0) ++ (u.writeP.map fun p => Write.pred p l false) ++
    (if f.one then (u.writeP.map fun p => putPred f w l p false).flatten else [])
  /-- The counters have room for every lane (R321). -/
  countsFit (s : State) (lanes : List Lane) : Bool :=
    [Target.here, .other, .pkg, .io].all fun t =>
      counterRoom s.warp t (lanes.filter fun x => targetOf s s.selfCore x.ia == t).length

/-- What an instruction's results keep marked. -/
def marksOf (op : Nat) (f : Fields) : Marks :=
  let u := usesOf op f f.one
  { regs := u.writeR, sregs := u.writeS, preds := u.writeP }

def execAtom (f : Fields) (s : State) := issueX 0x140 f s fun f s =>
  let t := f.tyOf 0x140
  visitBody .atom 0x140 (t.width / 8) .both f (marksOf 0x140 f) (fun w l => [srcBits t f w l f.c]) s

/-- Registers from `c` as one number (R240). -/
def regsNat (f : Fields) (w : Warp) (l c n : Nat) : Nat :=
  (List.range n).foldr (fun i x => (rd f w l (c + i)).toNat + 2 ^ 32 * x) 0
def srcNum : Src → Nat
  | .reg n => n.toNat
  | _ => 0

def execAcas (f : Fields) (s : State) := issueX 0x141 f s fun f s =>
  let n := (f.tyOf 0x141).width / 32
  visitBody .acas 0x141 (4 * n) .both f (marksOf 0x141 f)
    (fun w l => [regsNat f w l (srcNum f.c) n, regsNat f w l (srcNum f.c + n) n]) s
def execAcas2 (f : Fields) (s : State) := issueX 0x145 f s fun f s =>
  visitBody .acas2 0x145 16 .both f (marksOf 0x145 f)
    (fun w l => [regsNat f w l (srcNum f.c) 4, regsNat f w l (srcNum f.c + 4) 4]) s

/-- `RED` retires into the store buffer, lane by lane (R238, R241). -/
def execRed (f : Fields) (s : State) := issueX 0x142 f s fun f s =>
  let w := s.warp
  let t := f.tyOf 0x142
  let ls := (execLanes f w).filter w.live
  match operandCheck s w .both (t.width / 8) false (ls.map fun l => (l, vaOf f w l)) with
  | .error e => operandFault .both e
  | .ok xs =>
    if xs.isEmpty then .next s
    else released (releases f.order) f.scope s fun s =>
      if bufferFull s then .wait
      else
        let o := opOf s .red 0x142 f
        .next ((xs.map (mkLane (t.width / 8))).foldl
          (fun s x => pushStore s { o with lanes := [{ x with args := [srcBits t f w x.lane f.c] }] }) s)

/-! ### Weighbridges (15_counters R315 to R317) -/

/-- A weighbridge (R315). -/
structure Bridge where
  expected : Nat
  arrived : Nat
  arms : Nat
  armInit : Nat
  phase : Bool
  overrun : Bool
deriving DecidableEq, Repr

def Bridge.ofNat (x : Nat) : Bridge :=
  { expected := x % 2 ^ 32, arrived := x / 2 ^ 32 % 2 ^ 32, arms := x / 2 ^ 64 % 65536, armInit := x / 2 ^ 80 % 65536,
    phase := x / 2 ^ 96 % 2 = 1, overrun := x / 2 ^ 97 % 2 = 1 }
def Bridge.toNat (b : Bridge) : Nat :=
  b.expected + 2 ^ 32 * b.arrived + 2 ^ 64 * b.arms + 2 ^ 80 * b.armInit + 2 ^ 96 * b.phase.toNat + 2 ^ 97 * b.overrun.toNat
/-- A weighbridge's fields written over the 16 bytes that were there: the must-be-zero bits stay as they are (R316). -/
def Bridge.over (b : Bridge) (x : Nat) : Nat := b.toNat + x / 2 ^ 98 * 2 ^ 98
/-- Must-be-zero bits set, or ARMINIT 0 (R315). -/
def badBridge (x : Nat) : Bool := x / 2 ^ 98 % 2 ^ 30 != 0 || x / 2 ^ 80 % 65536 == 0
/-- The flip test (R315). The flag tells whether it flipped. -/
def Bridge.flip (b : Bridge) : Bridge × Bool :=
  let b := if b.arms = 0 ∧ b.expected < b.arrived then { b with overrun := true } else b
  if b.arms = 0 ∧ b.arrived = b.expected ∧ !b.overrun then
    ({ b with phase := !b.phase, expected := 0, arrived := 0, arms := b.armInit }, true)
  else (b, false)
/-- An arrival of `c` bytes. -/
def Bridge.arrive (b : Bridge) (c : Nat) : Bridge × Bool :=
  Bridge.flip { b with arrived := (b.arrived + c) % 2 ^ 32, overrun := b.overrun || decide (2 ^ 32 ≤ b.arrived + c) }
/-- An announcement of `c` bytes. -/
def Bridge.expect (b : Bridge) (c : Nat) : Bridge × Bool :=
  Bridge.flip (if b.arms = 0 then { b with overrun := true }
    else { b with expected := (b.expected + c) % 2 ^ 32, arms := b.arms - 1,
                  overrun := b.overrun || decide (2 ^ 32 ≤ b.expected + c) })

/-- A weighbridge operation (R317): the bytes after it, and its result words in one number. -/
def bridgeOp (op c x : Nat) : Option Nat × Nat :=
  let b := Bridge.ofNat x
  match op with
  | 0x163 => (some (2 ^ 64 * (c % 65536) + 2 ^ 80 * (c % 65536)), 0)
  | 0x164 => (some ((b.expect c).1.over x), 0)
  | 0x165 => let r := b.arrive c; (some (r.1.over x), b.phase.toNat + 2 * r.2.toNat)
  | _ => (none, (if b.phase.toNat ≠ c % 2 then 1 else 0) + 2 * b.phase.toNat + 4 * b.overrun.toNat + 65536 * b.arms +
      2 ^ 32 * b.expected + 2 ^ 64 * b.arrived)

/-- See log entry 30 (DEDUCED). -/
def wbBody (op : Nat) (acc : Access) (f : Fields) (s : State) : Act :=
  visitBody .wb op 16 acc f (marksOf op f) (fun w l => [(src32 f w l f.c).toNat]) s
def execWbinit (f : Fields) (s : State) := issueX 0x163 f s (wbBody 0x163 .both)
def execWbexpect (f : Fields) (s : State) := issueX 0x164 f s (wbBody 0x164 .both)
def execWbarrive (f : Fields) (s : State) := issueX 0x165 f s (wbBody 0x165 .both)
def execWbtest (f : Fields) (s : State) := issueX 0x167 f s (wbBody 0x167 .read)

/-! ### At the home -/

/-- One lane's operation on the value it finds (R239, R240, R317; 13 R289): what it writes, and what it gets. -/
def laneOp (o : MemOp) (x : Lane) (old : Nat) : Option Nat × Nat :=
  match o.kind with
  | .atom => (some (combineAtom (o.f.subBits 0 4) (o.f.tyOf o.op) old (x.args.headD 0)), old)
  | .wb => bridgeOp o.op (x.args.headD 0) old
  | .depsig => if old = 0 then (none, 2 ^ 32 - 1) else (some (old - 1), old - 1)
  | _ => (if old = x.args.headD 0 then some (x.args.getD 1 0) else none, old)

/-- The layout and operand checks of a weighbridge lane on the bytes it finds (R316 check 5, R317). -/
def laneBad (o : MemOp) (x : Lane) (old : Nat) : Bool :=
  o.kind == .wb && (if o.op = 0x163 then x.args.headD 0 == 0 || decide (65535 < x.args.headD 0) else badBridge old)

/-- Whether an operation writes at the home. -/
def MemOp.writer (o : MemOp) : Bool := !(o.kind == .wb && o.op == 0x167)

/-- Pin or unpin the line of an address for an operation (R237). -/
def pin (s : State) (ia id : Nat) (on : Bool) : State :=
  match sline? s ia with
  | some l => setLine s ia { l with pins := if on then l.pins ++ [id] else l.pins.filter (· != id) }
  | none => s

/-- Free a result-store entry (R247). -/
def freeResult (s : State) (n : Nat) : State :=
  let x := s.slice n
  s.setSlice n { x with results := x.results.filter (· != (s.input.a, s.input.b)) }

/-- Perform the lanes of a leg in ascending thread index with nothing between them (R237). -/
def performLanes (s : State) (o : MemOp) (ls : List Nat) : State × MemOp :=
  ls.foldl (fun (p : State × MemOp) l =>
    match p.2.lanes.find? (·.lane == l) with
    | none => p
    | some x =>
      let (out, got) := laneOp o x (homeNat p.1 x.ia x.size)
      let s := match out with
        | some v => homeWrite p.1 x.ia (toBytes x.size v)
        | none => p.1
      (s, p.2.onLanes [l] fun y => { y with got })) (s, o)

/-- The addresses that the lanes of a leg write when they are performed: a compare-and-swap that fails writes nothing (R240). -/
def written (s : State) (o : MemOp) (ls : List Nat) : List Nat :=
  (ls.foldl (fun (p : State × List Nat) l =>
    match o.lanes.find? (·.lane == l) with
    | none => p
    | some x => match (laneOp o x (homeNat p.1 x.ia x.size)).1 with
      | some v => (homeWrite p.1 x.ia (toBytes x.size v), p.2 ++ [x.ia])
      | none => p) (s, [])).2

/-- Every lane of a leg opens its line at the home: none while one must wait; otherwise the state, the operation with the lanes whose check
failed, and the cycles a miss adds. -/
def openLanes (s : State) (id : Nat) (o : MemOp) (ls : List Nat) (who : Who) (check : Bool) : Option (State × MemOp × Nat) :=
  ls.foldl (fun acc l => acc.bind fun (s, o, extra) =>
    match o.lanes.find? (·.lane == l) with
    | none => some (s, o, extra)
    | some x => match openLine s (x.ia, x.size) id who check false with
      | .error none => none
      | .error (some c) =>
        let rf := (attrs s x.ia).1
        some (walked s x.ia, o.onLanes [l] fun y => { y with ok := false, cause := c, info := (rf.present && !fmtListed rf.fmt).toNat, got := 0 }, extra)
      | .ok (_, more, s) => some (s, o, max extra more)) (some (s, o, 0))

/-- The lanes of a leg on bytes that another package holds, which are outside this machine: checked on a visit that checks, and performed in
ascending order, each on what the one before has left, on a visit that performs. See log entry 14 (DESIGN CHOICE). -/
def performOutside (s : State) (o : MemOp) (ls : List Nat) (check act : Bool) : MemOp :=
  let old (m : Sparse Byte) (x : Lane) : Nat :=
    leBytes ((List.range x.size).map fun i => Sparse.get (outsideAt s (x.ia + i)) m (x.ia + i))
  if check && o.lanes.any fun x => ls.contains x.lane && laneBad o x (old [] x) then
    o.onLanes ls fun x => if laneBad o x (old [] x) then { x with ok := false, cause := 0x02 } else x
  else if !act then o
  else (ls.foldl (fun (a : MemOp × Sparse Byte) l =>
    match a.1.lanes.find? (·.lane == l) with
    | none => a
    | some x =>
      let (out, got) := laneOp o x (old a.2 x)
      let m := match out with
        | some v => ((List.range x.size).zip (toBytes x.size v)).foldl (fun m p => Sparse.put m (x.ia + p.1) p.2) a.2
        | none => a.2
      (a.1.onLanes [l] fun y => { y with got }, m)) (o, [])).1

/-- An atomic's leg reaches its home slice (R236, R237): a check alone on the first of two visits, otherwise check and performance, or
performance alone on the second, which another package that is no longer reached answers as not present (17_platform R357). -/
def visitHome (s : State) (id k : Nat) (o : MemOp) : State :=
  let p := o.part k
  let check := decide (o.visit = 1 ∨ o.stage = 0)
  let act := decide (o.visit = 1 ∨ o.stage = 1)
  let spans := o.spans k
  match place s p.ia with
  | .other g =>
    let status := if check then farStatus s g else if reachable s g then 0 else 0x0A
    if status = 0 ∧ act ∧ o.writer ∧ spans.any fun sp => farLeased s sp.1 sp.2 then s.post (s.cycle + 1) (.atomicAtHome id k)
    else
      let o := if status = 0 then performOutside s o p.lanes check act else failLeg o k status false
      let s := if status = 0 ∧ act ∧ o.writer then spans.foldl (fun s sp => dropFar s sp.1 sp.2) s else s
      sendBack { (s.setOp id o) with free := s.free + 1 } o.core p.ia 0 (.loadResponse id k)
  | _ =>
    let wait (s : State) : State := pendAt s p.ia id k
    if !resultRoom s o p.ia id || spans.any fun sp => lockedFor s sp.1 id then wait s
    else if act && o.writer && spans.any fun sp => blocked s sp id k then
      spans.foldl (fun s sp => invalidate s sp.1 sp.2) (wait s)
    else if act && !o.writer && spans.any fun sp => writeAhead s (homeClass s sp.1) sp id k then wait s
    else
      let who := if check then o.who else ⟨false, 0⟩
      match openLanes s id o p.lanes who (check && o.writer) with
      | none => wait (spans.foldl (fun s sp => askMark s sp.1 id false) s)
      | some (t, o, extra) =>
        let done (s : State) (o : MemOp) : State :=
          sendBack ((keepResult s o p.ia id k).setOp id o) o.core p.ia extra (.loadResponse id k)
        let o := if check then o.onLanes p.lanes fun x =>
            if x.ok && laneBad o x (homeNat t x.ia x.size) then { x with ok := false, cause := 0x02 }
            else if o.op = 0x163 then x else markErr (homeErrs t x.ia) (if extra = 0 then 3 else 6) x
          else o
        let failed := o.lanes.any fun x => p.lanes.contains x.lane && !x.ok
        if failed then done (unpend t p.ia id k) o
        else if act then
          let ws := written t o p.lanes
          if ws.any fun a => markWaits t a id true then wait (ws.foldl (fun s a => askMark s a id true) s)
          else
            let marked := ws.foldl (fun s a => markPage s a true) (unpend t p.ia id k)
            match openLanes marked id o p.lanes ⟨false, 0⟩ false with
            | none => wait marked
            | some (s, o, _) =>
              let (s, o) := performLanes s o p.lanes
              done (if o.visit = 2 then spans.foldl (fun s sp => pin s sp.1 id false) s else s) o
        else done (spans.foldl (fun s sp => pin s sp.1 id true) (unpend t p.ia id k)) o

/-- The results of an operation in one lane (R239 to R241, R317). -/
def visitWrites (o : MemOp) (w : Warp) (x : Lane) : List Write :=
  let f := o.f
  let d := f.d.toNat
  let ok := x.ok && x.got == x.args.headD 0
  let words (n : Nat) : List Write := (List.range n).map fun i => .reg (d + i) x.lane (BitVec.ofNat 32 (x.got / 2 ^ (32 * i)))
  match o.kind with
  | .atom => putTy (f.tyOf o.op) f x.lane d x.got
  | .acas => putTy (f.tyOf o.op) f x.lane d x.got ++ putPred f w x.lane (f.clsBits 0 3) ok
  | .acas2 => words 4 ++ putPred f w x.lane (f.clsBits 0 3) ok
  | .wb => if o.op = 0x165 then words 1 else if o.op = 0x167 then words 4 else []
  | _ => []

/-- A fault of parked threads: they stand at the instruction, and take it as their front's fault (R330, R333). -/
def faultParked (s : State) (o : MemOp) (ls : List Nat) (x : FaultInfo) : State :=
  let s := s.select o.core o.slot
  let w := s.warp
  if s.onSl then takeFault (s.setWarp (w.wake ls)) x
  else
    let trap : Trap := { cause := BitVec.ofNat 8 x.cause, pc := x.pc, addr := x.addr, info := x.info }
    let w := { w with deferred := if x.isDeferred then none else w.deferred, savedDef := w.savedDef || x.isDeferred }
    if w.priv && (s.core o.core).trapvec != 0 && !w.inHandler then
      s.setWarp { ((w.setPcs ls (s.core o.core).trapvec).wake ls) with trap, inHandler := true }
    else
      let m := maskOf ls
      let w := { w with
        trap := w.trapOf s o.core o.slot (Warp.lowest m) trap
        fronts := w.fronts.map (fun f => if (f.lanes &&& m) != 0 && f.wait.isSome then { f with wait := some Park.fault } else f) }
      let r := mkRecord (kindOf x.cause) w.priv 0 o.core w.wix (Warp.lowest m) w.ctx
        (trapArgs x.cause x.isDeferred false m x.pc.toNat x.addr.toNat x.info.toNat x.storeHi 0)
      pushTrap (s.setWarp w) o.core o.slot r

/-- The lanes of an operation's threads that run. -/
def runningLanes (w : Warp) (o : MemOp) : List Nat :=
  let m := (w.fronts.filter fun f => f.wait.isNone).foldl (fun m f => m ||| f.lanes) 0
  (o.lanes.map (·.lane)).filter fun l => w.live l && hasLane m l

/-- An operation fails after its front has gone on, as the second visit of an atomic may (R247): its threads that run stop where they stand,
and TRAPPC names the instruction. See log entry 35 (DEDUCED). -/
def faultLate (s : State) (o : MemOp) (x : FaultInfo) : State :=
  let s := s.select o.core o.slot
  if s.onSl then takeFault s x
  else
    let ls := runningLanes s.warp o
    if ls.isEmpty then s else faultParked (s.setWarp (s.warp.stopLanes (maskOf ls))) o ls x

/-- An atomic's answers are in: a precise fault with nothing performed, the second visit, or the results (R237, R238); one that has been
answered already is passed over (R247). -/
def respondVisit (s : State) (id k : Nat) : State :=
  match s.op? id with
  | none => s
  | some o =>
    let p := o.part k
    if p.done ∨ (s.input.flag ∧ s.input.b ≠ p.sent) then s else
    let o : MemOp := { o.setPart k { p with done := true } with left := o.left - 1 }
    let s := confirm (s.setOp id o) o p.ia id k
    if o.left ≠ 0 then s
    else
      let drop (s : State) : State := modWarp (s.dropOp id) o.core o.slot fun w =>
        { (countLanes w s { o with lanes := o.lanes.map fun x => { x with ok := o.parts.any fun p => p.lanes.contains x.lane } } false) with
          marks := Sparse.erase w.marks id, holds := if w.holds = some id then none else w.holds
          acqs := w.acqs.filter (· != id), lastAck := s.now }
      match o.worst (s.warpAt o.core o.slot) with
      | some x =>
        let s := o.lanes.foldl (fun s y => if o.parts.any fun p => p.lanes.contains y.lane then pin s y.ia id false else s) s
        if o.visit = 1 ∨ o.stage = 0 then faultAt (drop s) o x o.writer else faultLate (drop s) o (laneFault o x o.writer)
      | none =>
        if o.visit = 2 ∧ o.stage = 0 then
          let again (p : Leg) : Leg := { p with done := false }
          let o : MemOp := { o with stage := 1, left := o.parts.length, parts := o.parts.map again }
          let s := modWarp (s.setOp id o) o.core o.slot fun w => { w with holds := if w.holds = some id then none else w.holds }
          startTimer (sendVisits s id o) id
        else
          modWarp (drop s) o.core o.slot fun w =>
            let w := w.applyAll (o.lanes.map (visitWrites o w)).flatten
            if acquires o.f.order then { w with lastAcq := s.now, fetched := none, fetching := none } else w

/-! ### Multi-word compare-and-swap (R242 to R246) -/

/-- Start the `MCAS` of the next thread: read its header (R243), once an own `RED` to it is acknowledged (R207). See log entry 35
(DEDUCED). -/
def mcasStart (s : State) (id : Nat) (o : MemOp) : State :=
  match o.todo with
  | [] => s
  | (l, va) :: r =>
    match translateFor s (s.warpAt o.core o.slot) .both va with
    | .error _ => s
    | .ok ia =>
      let x : Lane := { lane := 0, va, ia, size := 32 }
      let own := s.ops.filter fun p => p.1 != id && o.sameWarp p.2
      if redOf s own l x then (s.setOp id { o with stage := 5 }).post (s.cycle + 1) (.loadResponse id 0)
      else
        let lanes : List Lane := [{ x with fwd := storesOf s own o.core l x }]
        let o : MemOp := { o with todo := r, block := (l, va), lanes, parts := legsOf lanes [], left := 1, stage := 0, visit := 0 }
        sendLegs (s.setOp id o) id 1

/-- `MCAS`: block addresses are checked for every thread, then threads run in ascending index (R242, R243); the release waits until the first
thread's checks are made (R244). -/
def execMcas (f : Fields) (s : State) := issueX 0x143 f s fun f s =>
  let w := s.warp
  let on := execLanes f w
  let live := on.filter w.live
  match operandCheck s w .both 32 false (live.map fun l => (l, vaOf f w l)) with
  | .error e => operandFault .both e
  | .ok xs =>
    let helpers := (on.filter fun l => !w.live l).map fun l => (l, 0)
    if live.isEmpty then .next (land s s.cycle false (helpers.map fun p => Write.reg f.d.toNat p.1 0))
    else if !atomicReady s f (xs.map (mkLane 32)) then .wait
    else
      let o := { opOf s .mcas 0x143 f with todo := xs.map fun p => (p.1, p.2.1), results := helpers }
      let (id, s) := newOp s o
      let s := s.setWarp { s.warp with
        marks := Sparse.put s.warp.marks id { regs := [f.d.toNat] }, holds := some id
        acqs := if acquires f.order then s.warp.acqs ++ [id] else s.warp.acqs }
      .next (mcasStart s id o)

/-- End an `MCAS` instruction with a precise fault (R243, R244): its front stands at it again. See log entry 30 (DEDUCED). -/
def mcasFault (s : State) (id : Nat) (o : MemOp) (x : FaultInfo) : State :=
  let s := modWarp (s.dropOp id) o.core o.slot fun w =>
    { w with marks := Sparse.erase w.marks id, holds := none, acqs := w.acqs.filter (· != id) }
  let s := s.select o.core o.slot
  takeFault (s.setWarp (s.warp.setPcs (lanesOf s.warp.frontMask) (BitVec.ofNat 72 o.pc))) x

def mcasInfo (o : MemOp) (cause va : Nat) (info : Dword) : FaultInfo :=
  { cause, addr := BitVec.ofNat 72 va, info, pc := BitVec.ofNat 72 o.pc }

/-- TRAPINFO of a lane of an `MCAS` that failed its check, or whose data are in error (R195; 16_events R341). -/
def failInfo (o : MemOp) (x : Lane) : Dword :=
  if x.cause = 0x12 then BitVec.ofNat 64 (x.info + 256 * o.block.1) else memInfo o.block.1 true false false (x.info == 1 && x.cause == 0x0A)

/-- Cause 0x10: entry index or 0xF, and reason (R243). -/
def mcasBad (o : MemOp) (index reason : Nat) : FaultInfo := mcasInfo o 0x10 o.block.2 (BitVec.ofNat 64 (index + 16 * reason))

/-- The fields of an entry's 32 bytes (R242): VA, EXPECTED, NEW. -/
def entryVa (x : Nat) : Nat := x % 2 ^ 72
def entryExpected (x : Nat) : Nat := x / 2 ^ 128 % 2 ^ 64
def entryNew (x : Nat) : Nat := x / 2 ^ 192 % 2 ^ 64

/-- Content checks of a block (R243 check 4): header, then entries in ascending order. -/
def blockBad (header : Nat) (entries : List Nat) : Option (Nat × Nat) :=
  if header / 256 % 2 ^ 56 ≠ 0 ∨ header / 2 ^ 128 ≠ 0 then some (0xF, 2)
  else ((List.range entries.length).zip entries).findSome? fun p =>
    if p.2 / 2 ^ 72 % 2 ^ 56 ≠ 0 then some (p.1, 2)
    else if entryVa p.2 % 8 ≠ 0 then some (p.1, 3) else none

/-- The addresses of the entries (R243 checks 5 and 6), or the fault. -/
def mcasTargets (s : State) (o : MemOp) (entries : List Nat) : Except FaultInfo (List (Nat × Nat)) := do
  let w := s.warpAt o.core o.slot
  let ias ← entries.mapM fun e =>
    let va := entryVa e
    match translateFor s w .both va with
    | .error c => Except.error (mcasInfo o c va (memInfo o.block.1 true false false false))
    | .ok ia =>
      if place s ia = .io then .error (mcasInfo o 0x0B va (memInfo o.block.1 true true false false))
      else match place s ia with
        | .other _ => if Config.xpkgMcas s.part then .ok (va, ia)
          else .error (mcasInfo o 0x06 0 (trapWords (encodeExt o.op o.f)))
        | _ => .ok (va, ia)
  let keys := ias.map fun p => (l1Key s p.2) * 512 + p.2 % 512
  match (List.range keys.length).find? fun i => (keys.take i).contains (keys.getD i 0) with
  | some i => .error (mcasBad o i 4)
  | none =>
    let narrow := match o.f.scope with | .pkg | .sys => false | _ => true
    let home (p : Nat × Nat) : Nat := match place s p.2 with | .other g => 4 + g | _ => iaDie p.2
    match (List.range ias.length).find? fun i =>
        let p := ias.getD i (0, 0)
        (decide (4 ≤ home p) && o.f.scope != .sys) || (narrow && home p != home (ias.headD (0, 0))) with
    | some i => .error (mcasBad o i 5)
    | none => .ok ias

/-- Lines of the entries in ascending order (R244). -/
def mcasLines (s : State) (o : MemOp) : List Nat :=
  let ks := o.lanes.foldl (fun (a : List (Nat × Nat)) x => if a.any (·.1 == iaKey s x.ia) then a else a ++ [(iaKey s x.ia, x.ia / 512 * 512)]) []
  (sortOn (·.1) ks).map (·.2)

/-- Send the request of line number `k`, with its own retransmission timer (R244, R247): a lock request, or the commit or unlock. See log entry 35
(DEDUCED). -/
def mcasSend (s : State) (id : Nat) (o : MemOp) (k : Nat) (ev : Instr) : State :=
  let p := o.part k
  let o := o.setPart k { p with done := false, seen := false, sent := s.cycle, sentTick := s.now, tries := 0 }
  armTimer (sendOut (s.setOp id o) o.core p.ia ev { a := k } 6) o.core p.ia id k

/-- The locks are asked for, one line after the other: one leg for each. -/
def mcasLock (s : State) (id : Nat) (o : MemOp) : State :=
  let leg (ia : Nat) : Leg := { ia, lanes := (o.lanes.filter fun x => l1Key s x.ia == l1Key s ia).map (·.lane) }
  mcasSend s id { o with parts := (mcasLines s o).map leg, stage := 2 } 0 (.mcasLockGrant id)

/-- The block is checked: the release is made once for the instruction, after the checks of its first thread (R244, R374), and the locks are asked
for once every own store to the entries' grain units is acknowledged (R238). See log entry 35 (DEDUCED). -/
def mcasGo (s : State) (id : Nat) (o : MemOp) : State :=
  let own := s.ops.filter fun p => o.sameWarp p.2
  let again : State := (s.setOp id { o with stage := 4 }).post (s.cycle + 1) (.loadResponse id 0)
  match if releases o.f.order && !o.freed then releaseAt (s.select o.core o.slot) o.f.scope else .go with
  | .wait => again
  | .raise x => mcasFault s id o { x with pc := BitVec.ofNat 72 o.pc }
  | .go => if o.lanes.any fun x => storeOut s own o.core o.block.1 x.ia then again else mcasLock s id { o with freed := true }

/-- Read the entries, once an own `RED` to them is acknowledged (R207, R243). -/
def mcasEntries (s : State) (id : Nat) (o : MemOp) : State :=
  let own := s.ops.filter fun p => p.1 != id && o.sameWarp p.2
  if o.lanes.any fun x => redOf s own o.block.1 x then (s.setOp id { o with stage := 6 }).post (s.cycle + 1) (.loadResponse id 0)
  else
    let lanes := o.lanes.map fun x => { x with fwd := storesOf s own o.core o.block.1 x }
    let parts := legsOf lanes []
    sendLegs (s.setOp id { o with lanes, parts, left := parts.length, stage := 1 }) id parts.length

/-- The block is read: check its contents and its targets, then lock (R243, R244). `stage` 0 has the header, 1 the entries. -/
def mcasRead (s : State) (id : Nat) (o : MemOp) : State :=
  match o.lanes.find? fun x => !x.ok with
  | some x => mcasFault s id o (mcasInfo o x.cause x.va (failInfo o x))
  | none =>
    if o.stage = 0 then
      let header := (o.lanes.headD { lane := 0, va := 0, ia := 0, size := 0 }).got
      let n := header % 256
      if n = 0 ∨ 8 < n then mcasFault s id o (mcasBad o 0xF 1)
      else
        let w := s.warpAt o.core o.slot
        let tr := (List.range n).map fun i =>
          let va := (o.block.2 + 32 + 32 * i) % 2 ^ 72
          (i, va, translateFor s w .both va)
        match tr.find? fun p => match p.2.2 with | .error _ => true | .ok _ => false with
        | some p =>
          let c := match p.2.2 with | .error c => c | .ok _ => 0
          mcasFault s id o (mcasInfo o c p.2.1 (memInfo o.block.1 true false false false))
        | none =>
          let lanes : List Lane := tr.filterMap fun p => match p.2.2 with
            | .ok ia => some { lane := p.1, va := p.2.1, ia, size := 32, args := [header] }
            | .error _ => none
          match lanes.find? fun x => place s x.ia == .io with
          | some x => mcasFault s id o (mcasInfo o 0x0B x.va (memInfo o.block.1 true true false false))
          | none => mcasEntries s id { o with lanes }
    else
      let entries := o.lanes.map (·.got)
      let header := match o.lanes.head? with | some x => x.args.headD 0 | none => 0
      match blockBad header entries with
      | some (i, r) => mcasFault s id o (mcasBad o i r)
      | none =>
        match mcasTargets s o entries with
        | .error x => mcasFault s id o x
        | .ok ias =>
          let lanes : List Lane := ((List.range entries.length).zip (entries.zip ias)).map fun p =>
            { lane := p.1, va := p.2.2.1, ia := p.2.2.2, size := 8, args := [entryExpected p.2.1, entryNew p.2.1] }
          mcasGo s id { o with lanes, parts := [], left := 0, at_ := 0 }

/-- Unlock every line of this package that an operation holds, or waits for (R244). -/
def unlockAll (s : State) (id : Nat) (lines : List Nat) : State :=
  (lines.filter fun ia => place s ia == .here).foldl (fun s ia =>
    let n := iaSlice ia
    let x := s.slice n
    let s := s.setSlice n { x with pend := x.pend.filter fun q => q.1 != id }
    match sline? s ia with
    | some l => setLine s ia { l with lock := if l.lock = some id then none else l.lock, lockQ := l.lockQ.filter (· != id) }
    | none => s) s

/-- Lock request number `k` at its line: it queues, takes the lock, waits for leases and copies, is checked, and gets its words (R244); the answer
goes back to the core. -/
def mcasAtHome (s : State) (id k : Nat) : State :=
  match s.op? id with
  | none => s
  | some o =>
    let p := o.part k
    let ia := p.ia
    let mine := o.lanes.filter fun x => p.lanes.contains x.lane
    let answer (s : State) (o : MemOp) : State := sendBack (s.setOp id o) o.core ia 0 (.loadResponse id k)
    let first (o : MemOp) : MemOp := { o with at_ := if o.at_ = 0 then s.cycle else o.at_ }
    match place s ia with
    | .here =>
      let sp : Nat × Nat := match mine.head? with | some x => (x.ia, 8) | none => (ia, 8)
      let s := match sline? s ia with
        | some l => if l.lock = some id ∨ l.lockQ.contains id then s else setLine s ia { l with lockQ := l.lockQ ++ [id] }
        | none => s
      let free := match sline? s ia with
        | some l => l.lock = some id || (l.lock.isNone && l.lockQ.head? == some id)
        | none => true
      if !resultRoom s o ia id || !free ||
         (mine.any fun x => writeAhead s (homeClass s x.ia) (x.ia, 8) id k) then pendAt s ia id k
      else
        let s := match sline? s ia with
          | some l => setLine s ia { l with lock := some id, lockQ := l.lockQ.filter (· != id) }
          | none => s
        let o := first o
        let s := s.setOp id o
        if (mine.any fun x => blocked s (x.ia, 8) id k) || (match sline? s ia with | some l => l.held != 0 | none => false) then
          invalidate (pendAt s ia id k) ia 512
        else match openLine s sp id o.who true false with
          | .error none => pendAt (askMark s ia id false) ia id k
          | .error (some c) =>
            let rf := (attrs s ia).1
            answer (walked (unpend s ia id k) ia)
              (o.onLanes p.lanes fun x => { x with ok := false, cause := c, info := (rf.present && !fmtListed rf.fmt).toNat })
          | .ok (_, _, s) =>
            let s := match sline? s ia with
              | some l => setLine (unpend s ia id k) ia { l with lock := some id }
              | none => s
            let s := mine.foldl (fun s x => match openLine s (x.ia, 8) id ⟨false, 0⟩ false false with
              | .ok (_, _, t) => t
              | .error _ => s) s
            let o := o.onLanes p.lanes fun x => markErr (homeErrs s x.ia) 3 { x with got := homeNat s x.ia 8 }
            answer (keepResult s o ia id k) o
    | .other g =>
      let status := farStatus s g
      if status = 0 ∧ mine.any fun x => farLeased s x.ia 8 then s.postWith { at_ := s.cycle + 1, ev := .mcasLockGrant id, data := { a := k } }
      else
        let o := o.onLanes p.lanes fun x =>
          if status = 0 then { x with got := leBytes ((List.range 8).map fun i => outsideAt s (x.ia + i)) }
          else { x with ok := false, cause := status }
        answer { s with free := s.free + 1 } (first o)
    | .io => s

/-- The mask of entries that differed (R243). -/
def mcasMask (o : MemOp) : Nat := o.lanes.foldl (fun m x => if x.got = x.args.headD 0 then m else m + 2 ^ x.lane) 0

/-- The locks are all granted, or a check has failed: the commit, or the unlock, goes to the home of every line that has been asked for (R244). -/
def mcasEnd (s : State) (id : Nat) (o : MemOp) (n : Nat) : State :=
  let o := { o with stage := 3, parts := o.parts.take n, left := n }
  (List.range n).foldl (fun s k => match s.op? id with | some o => mcasSend s id o k (.atomicAtHome id k) | none => s) (s.setOp id o)

/-- An entry whose package has been fenced since its lock was granted is answered as not present: nothing is performed (17_platform R357). -/
def mcasFenced (s : State) (o : MemOp) : MemOp :=
  { o with lanes := o.lanes.map fun x => match place s x.ia with
      | .other g => if x.ok && s.io.fenced.getLsbD g then { x with ok := false, cause := 0x0A } else x
      | _ => x }

/-- The commit or the unlock reaches the home of line `k`; when it has reached them all, all writes are performed at one instant, and every
line is unlocked (R244, R245); it comes again in the next cycle while D of a page, or a result store, must wait (R247, R302). See log entry 35
(DEDUCED). -/
def mcasCommit (s : State) (id k : Nat) (o : MemOp) : State :=
  let o := o.setPart k { o.part k with seen := true }
  if !o.parts.all (·.seen) then s.setOp id o
  else
    let o := mcasFenced s o
    let writes := mcasMask o = 0 ∧ o.lanes.all (·.ok)
    let lines := o.parts.map (·.ia)
    if (writes ∧ o.lanes.any fun x => place s x.ia == .here && markWaits s x.ia id true) ∨
       lines.any (fun ia => place s ia == .here && !resultRoom s o ia id) then
      (o.lanes.foldl (fun s x => if place s x.ia = .here then askMark s x.ia id true else s) (s.setOp id o)).post (s.cycle + 1) (.atomicAtHome id k)
    else
      let s := if writes then o.lanes.foldl (fun s x => match place s x.ia with
          | .here => match openLine s (x.ia, 8) id ⟨false, 0⟩ false true with
            | .ok (_, _, t) => homeWrite t x.ia (toBytes 8 (x.args.getD 1 0))
            | .error _ => s
          | .other _ => dropFar s x.ia 8
          | .io => s) s
        else s
      let s := sample (unlockAll s id lines) o.core 2 (s.cycle - o.at_)
      (List.range o.parts.length).foldl (fun s j =>
        let ia := (o.part j).ia
        sendBack (if place s ia = .here then keepResult s o ia id (16 + j) else s) o.core ia 0 (.loadResponse id j)) (s.setOp id o)

/-- The thread's `MCAS` is over: the observed words go to the block, and the next thread begins, or the results are written
(R242 to R244). -/
def mcasDone (s : State) (id : Nat) (o : MemOp) : State :=
  match o.lanes.find? fun x => !x.ok with
  | some x => mcasFault s id o (mcasInfo o x.cause x.va (failInfo o x))
  | none =>
    let mask := mcasMask o
    let w := s.warpAt o.core o.slot
    let s := countEvent s o.core (if mask = 0 then 0x10 else 0x0F) 1 o.user
    let s := (o.lanes.filter fun x => x.got ≠ x.args.headD 0).foldl (fun s x =>
      let va := (o.block.2 + 48 + 32 * x.lane) % 2 ^ 72
      match translateFor s w .write va with
      | .ok ia =>
        let st : MemOp := { o with kind := .store, parts := [], stage := 0, at_ := 0, left := 0, todo := [], results := [], lanes := [], f := {}, op := 0x101 }
        storeLane st s { lane := o.block.1, va, ia, size := 8, args := (toBytes 8 x.got).map BitVec.toNat }
      | .error _ => s) s
    let o : MemOp := { o with results := o.results ++ [(o.block.1, mask)] }
    if o.todo.isEmpty then
      modWarp (s.dropOp id) o.core o.slot fun w =>
        let w := w.applyAll (o.results.map fun p => Write.reg o.f.d.toNat p.1 (BitVec.ofNat 32 p.2))
        { w with marks := Sparse.erase w.marks id, holds := none, acqs := w.acqs.filter (· != id), lastAck := s.now
                 lastAcq := if acquires o.f.order then s.now else w.lastAcq
                 fetched := if acquires o.f.order then none else w.fetched
                 fetching := if acquires o.f.order then none else w.fetching }
    else mcasStart s id o

/-- A response to an `MCAS`, by its stage; one that has come already is passed over (R247). -/
def respondMcas (s : State) (id k : Nat) : State :=
  match s.op? id with
  | none => s
  | some o =>
    let p := o.part k
    let old := p.done ∨ (s.input.flag ∧ s.input.b ≠ p.sent)
    match o.stage with
    | 0 | 1 =>
      let o : MemOp := { o.setPart k { p with done := true } with left := o.left - 1 }
      let s := s.setOp id o
      if o.left = 0 then mcasRead s id { o with lanes := o.lanes.map (viewed s o) } else s
    | 2 =>
      if old then s
      else
        let o := o.setPart k { p with done := true }
        let s := confirm (s.setOp id o) o p.ia id k
        if o.lanes.any fun x => !x.ok then mcasEnd s id o (k + 1)
        else if k + 1 < o.parts.length then mcasSend s id o (k + 1) (.mcasLockGrant id)
        else mcasEnd s id o o.parts.length
    | 3 =>
      if old then s
      else
        let o : MemOp := { o.setPart k { p with done := true } with left := o.left - 1 }
        let s := confirm (s.setOp id o) o p.ia id (16 + k)
        if o.left = 0 then mcasDone s id o else s
    | 4 => mcasGo s id o
    | 5 => mcasStart s id o
    | _ => mcasEntries s id o

/-! ### Condition waits (R248 to R250) -/

/-- The condition of a wait (R248). -/
def waitCond (t : Ty) (cmp word value mask : Nat) : Bool :=
  match cmp with
  | 0 => word == value
  | 1 => word != value
  | 2 => decide (intOf t value ≤ intOf t word)
  | 3 => decide (intOf t word < intOf t value)
  | _ => Nat.land word mask == value

/-- Threads of one instruction with equal address and operands share a request (R248): one leg for each. -/
def groupsOf : List Lane → List Leg → List Lane → List Leg
  | [], acc, _ => acc
  | x :: r, acc, all =>
    let same (p : Leg) : Bool := match all.find? fun y => p.lanes.headD 99 == y.lane with
      | some y => y.ia == x.ia && y.args == x.args
      | none => false
    match acc.findIdx? same with
    | some i => groupsOf r (acc.modify i fun p => { p with lanes := p.lanes ++ [x.lane] }) all
    | none => groupsOf r (acc ++ [{ ia := x.ia, lanes := [x.lane] }]) all

/-- The operands of a `WAITC` in a lane: value and mask. -/
def waitArgs (f : Fields) (w : Warp) (l : Nat) : List Nat :=
  let t := f.tyOf 0x144
  let n := t.width / 32
  if f.subBits 0 3 = 4 then [regsNat f w l (srcNum f.c) n, regsNat f w l (srcNum f.c + n) n]
  else [srcBits t f w l f.c, 0]

/-- `WAITC` (R248): every executing live thread parks at the instruction, the other threads of the front go on (R69), and the requests go home. A
helper wakes with its leader; one whose leader does not execute has its 0 at once. -/
def execWaitc (f : Fields) (s : State) := issueX 0x144 f s fun f s =>
  let w := s.warp
  let t := f.tyOf 0x144
  let on := execLanes f w
  let live := on.filter w.live
  match operandCheck s w .read (t.width / 8) false (live.map fun l => (l, vaOf f w l)) with
  | .error e => operandFault .read e
  | .ok xs =>
    let alone (l : Nat) : Bool := match w.leader l with | some j => !live.contains j | none => true
    let helpers := on.filter fun l => !w.live l
    let s := land s s.cycle false ((helpers.filter alone).map fun l => putTy t f l f.d.toNat 0).flatten
    if live.isEmpty then .next s
    else
      let lanes := xs.map fun p => { mkLane (t.width / 8) p with args := waitArgs f w p.1 }
      if !atomicReady s f lanes then .wait
      else
        let groups := groupsOf lanes [] lanes
        let two := decide (1 < (legsOf lanes []).length)
        let parts := if two then legsOf lanes [] else groups
        let o := { opOf s .waitc 0x144 f with
          lanes, parts, left := parts.length, visit := if two then 2 else 1, stage := if two then 0 else 1
          results := (helpers.filter fun l => !alone l).map fun l => (l, (w.leader l).getD l) }
        let (id, s) := newOp s o
        let w := s.warp
        let rest := (lanesOf w.frontMask).filter fun l => !live.contains l
        let s := s.setWarp ((w.setPcs rest (w.pc + BitVec.ofNat 72 (if f.lit.isSome then 20 else 12))).park (maskOf live) .waitc).switch
        .jump (startTimer (sendVisits s id o) id)

/-- The lowest index that an entry may take in a wait table, if it has room (R249, R308). -/
def freeWait (x : Slice) : Option Nat := (List.range 256).find? fun i => (Sparse.get? x.waits i).isNone

/-- A condition request at its home (R248, R249): answered with the word, entered, or refused, which its origin learns of (R247); the first
of two visits only checks. `WBWAIT` tests a weighbridge's PHASE (15 R318), and a resumed system call the done flag (13 R284). See log entry 35 (DEDUCED). -/
def waitHome (s : State) (id k : Nat) (o : MemOp) : State :=
  let p := o.part k
  let x := (o.lanes.find? fun x => p.lanes.contains x.lane).getD { lane := 0, va := 0, ia := p.ia, size := 4 }
  let t := o.f.tyOf o.op
  match place s p.ia with
  | .other g =>
    let status := farStatus s g
    let word := leBytes ((List.range x.size).map fun i => outsideAt s (x.ia + i))
    let bad := o.kind == .wbwait && badBridge word
    let holds := if o.kind = .wbwait then decide (word / 2 ^ 96 % 2 ≠ x.args.headD 0 % 2)
      else waitCond t (o.f.subBits 0 3) word (x.args.headD 0) (x.args.getD 1 0)
    let o := if status ≠ 0 then failLeg o k status false
      else if bad then o.onLanes p.lanes fun y => { y with ok := false, cause := 0x02 }
      else o.onLanes p.lanes fun y => { y with got := word, info := holds.toNat }
    let first := o.kind == .wbwait && !p.seen
    let s := { (s.setOp id (o.setPart k { p with via := true })) with free := s.free + 1 }
    if status ≠ 0 ∨ bad ∨ (o.stage = 0 ∧ o.kind = .waitc) ∨ holds then sendBack s o.core p.ia 0 (.loadResponse id k)
    else
      let s := s.postWith { at_ := s.cycle + (s.core o.core).pollint.toNat, ev := .waitcPoll id, data := { a := k } }
      if first then sendBack s o.core p.ia 0 (.loadResponse id k) else s
  | _ =>
    if lockedFor s p.ia id || !resultRoom s o p.ia id then pendAt s p.ia id k
    else match openLine s (p.ia, x.size) id o.who false false with
      | .error none => pendAt (askMark s p.ia id false) p.ia id k
      | .error (some c) =>
        let rf := (attrs s p.ia).1
        sendBack ((walked (unpend s p.ia id k) p.ia).setOp id (failLeg o k c (rf.present && !fmtListed rf.fmt))) o.core p.ia 0
          (.loadResponse id k)
      | .ok (_, extra, s) =>
        let s := keepResult (unpend s p.ia id k) o p.ia id k
        let o := o.setPart k { p with via := true }
        if o.kind ≠ .saved ∧ !(markErr (homeErrs s x.ia) 3 x).ok then
          sendBack (s.setOp id (o.onLanes p.lanes fun y => markErr (homeErrs s y.ia) 3 y)) o.core p.ia extra (.loadResponse id k)
        else if o.kind = .waitc ∧ o.stage = 0 then sendBack (s.setOp id o) o.core p.ia extra (.loadResponse id k)
        else if o.kind = .wbwait ∧ badBridge (homeNat s x.ia 16) then
          sendBack (s.setOp id (o.onLanes p.lanes fun y => { y with ok := false, cause := 0x02 })) o.core p.ia extra (.loadResponse id k)
        else
          let wide := o.kind == .waitc
          let word := if wide then homeNat s x.ia x.size
            else if o.kind = .saved then homeNat s x.ia 1 % 2 else (homeNat s x.ia 16) / 2 ^ 96 % 2
          let holds := if wide then waitCond t (o.f.subBits 0 3) word (x.args.headD 0) (x.args.getD 1 0)
            else word != x.args.headD 0 % 2
          let o := o.onLanes p.lanes fun y => { y with got := word, info := holds.toNat }
          let s := s.setOp id o
          if holds then sendBack s o.core p.ia extra (.loadResponse id k)
          else
            let n := iaSlice p.ia
            let z := s.slice n
            match freeWait z with
            | some i =>
              let e : WaitEnt :=
                { ia := if wide || o.kind == .saved then x.ia else x.ia + 12, width := if wide then 8 * x.size else 8
                  signed := t.signed, cmp := if wide then o.f.subBits 0 3 else 1
                  value := if wide then x.args.headD 0 else x.args.headD 0 % 2, mask := if wide then x.args.getD 1 0 else 1
                  lanes := maskOf p.lanes, core := o.core, slot := o.slot, ctx := o.ctx, acq := acquires o.f.order
                  scope := o.f.scope.code, op := id }
              let s := s.setSlice n { z with waits := Sparse.put z.waits i e }
              if o.kind = .wbwait ∧ !p.seen then sendBack s o.core p.ia extra (.loadResponse id k) else s
            | none =>
              let s := s.setSlice n { z with overflow := z.overflow + 1 }
              let s := s.postWith { at_ := s.cycle + inward s o.core n + (s.core o.core).pollint.toNat, ev := .waitcPoll id, data := { a := k } }
              if o.kind = .wbwait ∧ !p.seen then sendBack s o.core p.ia extra (.loadResponse id k) else s

/-- Take the entries of an operation out of every wait table (R250). -/
def cancelWaits (s : State) (id : Nat) : State :=
  { s with slices := s.slices.map fun p => (p.1, { p.2 with waits := p.2.waits.filter fun e => e.2.op != id,
                                                            pend := p.2.pend.filter fun q => q.1 != id }) }

/-- A poll of a refused request (R249). See log entry 35 (DEDUCED). -/
def pollWait (s : State) (id : Nat) : State :=
  match s.op? id with
  | none => s
  | some o =>
    if !here s o then s.dropOp id
    else
      let k := s.input.a
      let s := countEvent s o.core 0x12 1 o.user
      let p := { o.part k with via := false, sent := s.cycle, sentTick := s.now, tries := 0 }
      sendOut (armTimer (s.setOp id (o.setPart k p)) o.core p.ia id k) o.core p.ia (.atomicAtHome id k) {} 6

/-- A wait-table entry is looked at after a write, on the word as that write left it (R248, R308): it wakes its threads when its
condition holds. See log entry 35 (DEDUCED). -/
def wakeEntry (s : State) (n i : Nat) : State :=
  let z := s.slice n
  match Sparse.get? z.waits i with
  | none => s
  | some e =>
    let word := if e.width = 8 then s.input.a % 2 else s.input.a
    let t : Ty := if e.width = 64 then (if e.signed then .s64 else .z64) else if e.signed then .s32 else .z32
    if !waitCond t e.cmp word e.value e.mask then s
    else
      let s := s.setSlice n { z with waits := Sparse.erase z.waits i }
      match s.op? e.op with
      | none => s
      | some o =>
        let ls := lanesOf e.lanes
        match (List.range o.parts.length).find? fun k => (o.part k).lanes == ls with
        | none => s
        | some k => sendBack (s.setOp e.op (o.onLanes ls fun x => { x with got := word, info := 1 })) o.core e.ia 0 (.loadResponse e.op k)

/-- Wake the threads of a group that have their word (R248): they go on after the instruction. -/
def wakeWaitc (s : State) (o : MemOp) (p : Leg) : State :=
  let t := o.f.tyOf o.op
  let len := if o.f.lit.isSome then 20 else 12
  let helpers := (o.results.filter fun q => p.lanes.contains q.2).map (·.1)
  modWarp s o.core o.slot fun w =>
    let w := w.applyAll ((o.lanes.filter fun x => p.lanes.contains x.lane).map fun x => putTy t o.f x.lane o.f.d.toNat x.got).flatten
    let w := w.applyAll (helpers.map fun l => putTy t o.f l o.f.d.toNat 0).flatten
    let w := (w.setPcs p.lanes (BitVec.ofNat 72 (o.pc + len))).wake p.lanes
    if acquires o.f.order then { w with lastAcq := s.now, fetched := none, fetching := none } else w

/-- A `WAITC` answer: a precise fault of every thread that is still parked, the second visit, or a wake (R241, R248), which waits while a copy
in flight holds the destination (04_registers R86). -/
def respondWaitc (s : State) (id k : Nat) : State :=
  match s.op? id with
  | none => s
  | some o =>
    let p := o.part k
    if p.done ∨ (s.input.flag ∧ s.input.b ≠ p.sent) then s
    else if o.stage = 1 ∧ copyHolds s (s.warpAt o.core o.slot) (usesOf 0x144 o.f o.one).writeR then s.post (s.cycle + 1) (.loadResponse id k)
    else
    let woken (l : Nat) : Bool := o.parts.any fun q => q.done && q.lanes.contains l
    let parked := (o.lanes.map (·.lane)).filter fun l => !woken l
    let o : MemOp := { o.setPart k { p with done := true } with left := o.left - 1 }
    let s := confirm s o p.ia id k
    match (if o.stage = 0 ∧ o.left ≠ 0 then none else o.worst (s.warpAt o.core o.slot)) with
    | some x => faultParked (cancelWaits (s.dropOp id) id) o (if o.stage = 0 then o.lanes.map (·.lane) else parked) (laneFault o x false)
    | none =>
      if o.stage = 0 then
        if o.left ≠ 0 then s.setOp id o
        else
          let parts := groupsOf o.lanes [] o.lanes
          let o : MemOp := { o with stage := 1, parts, left := parts.length }
          startTimer (sendVisits (s.setOp id o) id o) id
      else wakeWaitc (if o.left = 0 then s.dropOp id else s.setOp id o) o (o.part k)

/-! ### `WBWAIT` (15_counters R318) -/

def execWbwait (f : Fields) (s : State) := issueX 0x166 f s fun f s =>
  let w := s.warp
  let live := w.active.filter w.live
  match operandCheck s w .read 16 false (live.map fun l => (l, vaOf f w l)) with
  | .error e => operandFault .read e
  | .ok xs =>
    let lanes := xs.map fun p => { mkLane 16 p with args := [(src32 f w p.1 f.c).toNat % 2] }
    if !atomicReady s f lanes then .wait
    else
      let parts := groupsOf lanes [] lanes
      let o := { opOf s .wbwait 0x166 f with lanes, parts, left := parts.length }
      let (id, s) := newOp s o
      .jump (sendVisits (s.setWarp { s.warp with holds := some id }) id o)

/-- Threads of a `WBWAIT` wake, unless a deferred fault of their context is pending (R233, R318). -/
def wakeWb (s : State) (o : MemOp) (p : Leg) : State :=
  let w := s.warpAt o.core o.slot
  match w.deferred.or (areaDeferred s w) with
  | some d => faultParked s o p.lanes { deferredInfo w d with pc := BitVec.ofNat 72 o.pc }
  | none =>
    let s := p.lanes.foldl (fun s l => sample s o.core 6 (s.cycle - ((s.warpAt o.core o.slot).thread l).waitAt)) s
    let len := if o.f.lit.isSome then 20 else 12
    modWarp s o.core o.slot fun w =>
      let w := (w.setPcs p.lanes (BitVec.ofNat 72 (o.pc + len))).wake p.lanes
      if acquires o.f.order then { w with lastAcq := s.now, fetched := none, fetching := none } else w

/-- An answer to a `WBWAIT`: when every request has been answered the front parks; a flip wakes, and a poll whose check fails is the fault of the
threads that are still parked (R249, R318). -/
def respondWbwait (s : State) (id k : Nat) : State :=
  match s.op? id with
  | none => s
  | some o =>
    let p := o.part k
    let s := confirm s o p.ia id k
    let holds := o.lanes.any fun x => p.lanes.contains x.lane && x.ok && x.info == 1
    if o.stage = 1 then
      match o.worst (s.warpAt o.core o.slot) with
      | some x => faultParked (cancelWaits (s.dropOp id) id) o ((o.parts.filter fun q => !q.done).map (·.lanes)).flatten (laneFault o x false)
      | none =>
        if !holds || p.done then s
        else
          let o := o.setPart k { p with done := true }
          let s := if o.parts.all (·.done) then s.dropOp id else s.setOp id o
          wakeWb s o p
    else
      let o : MemOp := { o.setPart k { p with seen := true, done := holds } with left := if p.seen then o.left else o.left - 1 }
      if o.left ≠ 0 then s.setOp id o
      else
        let s := modWarp s o.core o.slot fun w => { w with holds := none }
        match o.worst (s.warpAt o.core o.slot) with
        | some x => faultAt (cancelWaits (s.dropOp id) id) o x false
        | none =>
          let s := modWarp s o.core o.slot fun w =>
            let w := o.lanes.foldl (fun w x =>
              w.setThread x.lane { w.thread x.lane with phase := x.args.headD 0 == 1, waitAt := s.cycle }) w
            (w.park (maskOf (o.lanes.map (·.lane))) .wbwait).switch
          let o : MemOp := { o with stage := 1 }
          let s := if o.parts.all (·.done) then s.dropOp id else s.setOp id o
          (o.parts.filter (·.done)).foldl (fun s p => wakeWb s o p) s

/-! ### Retransmission (R247) -/

/-- A request of an operation that has no answer: its leg, the cycle and tick at which it was sent, and how often it has been sent again. A
`RED` has one, of its lane; the request of a wait that a slice has taken is answered. -/
structure Asked where
  ia : Nat
  sent : Nat
  tick : Nat
  tries : Nat
deriving DecidableEq, Repr

/-- Request number `k` of an operation, if it is out (R247). -/
def MemOp.asked (o : MemOp) (k : Nat) : Option Asked :=
  if o.kind = .red then (o.lanes.head?).bind fun x => if o.stage = 3 then none else some ⟨x.ia, o.since, o.tick, o.tries⟩
  else (o.parts[k]?).bind fun p => if p.done ∨ (o.kind = .waitc ∧ p.via) then none else some ⟨p.ia, p.sent, p.sentTick, p.tries⟩

/-- The event by which a request that is sent again reaches its home. -/
def MemOp.request (o : MemOp) (id k : Nat) : Instr :=
  if o.kind = .red then .storePerformed id else if o.kind = .mcas ∧ o.stage = 2 then .mcasLockGrant id else .atomicAtHome id k

/-- One more request has been sent. -/
def MemOp.tried (o : MemOp) (k : Nat) : MemOp :=
  if o.kind = .red then { o with tries := o.tries + 1 } else o.setPart k { o.part k with tries := (o.part k).tries + 1 }

/-- A request that was sent again reaches its home (R247): the slice answers it from the result that it keeps, and performs nothing; while it
keeps none the first copy waits there, or its result has been confirmed. -/
def copyAtHome (s : State) (id k : Nat) : State :=
  match s.op? id with
  | none => s
  | some o =>
    match o.asked k with
    | none => s
    | some q =>
      let key := if o.kind = .mcas ∧ o.stage = 3 then 16 + k else k
      if q.sent ≠ s.input.b ∨ place s q.ia ≠ .here ∨ !(s.slice (iaSlice q.ia)).results.contains (id, key) then s
      else sendBack s o.core q.ia 0 (if o.kind = .red then .storeAcknowledgement id else .loadResponse id k) { a := k, b := q.sent, flag := true }

/-- A `RED` that is given up fails as a store does, with cause 0x12 (R194, R247); it has waited no lease of which it tells. -/
def giveUpRed (s : State) (id : Nat) (o : MemOp) : State :=
  let s := (cancelWaits s id).setOp id { o with failed := true, at_ := 0, lanes := o.lanes.map fun x => { x with cause := 0x12 } }
  if !here s o && o.left ≠ 0 then lateAcked s id else storeAcked s id

/-- An instruction is given up after 8 times (R247; 16_events R341): cause 0x12, structure 7, at the address of the request. See log entry 35
(DEDUCED). -/
def giveUp (s : State) (id : Nat) (o : MemOp) (k : Nat) : State :=
  let mine (x : Lane) : Bool := x.ok && (o.part k).lanes.contains x.lane
  let x := ((o.lanes.find? mine).or (o.lanes.find? (·.ok))).getD { lane := 0, va := 0, ia := 0, size := 0 }
  let info : FaultInfo := { cause := 0x12, addr := BitVec.ofNat 72 x.va, pc := BitVec.ofNat 72 o.pc
                            info := errInfo 7 (if o.kind = .mcas then o.block.1 else x.lane) 0 }
  let t := cancelWaits (s.dropOp id) id
  match o.kind with
  | .red => giveUpRed s id o
  | .mcas =>
    let t := unlockAll t id (o.parts.map (·.ia))
    mcasFault (if o.at_ = 0 then t else sample t o.core 2 (t.cycle - o.at_)) id o info
  | .waitc => faultParked t o ((o.lanes.map (·.lane)).filter fun l => !(o.parts.any fun q => q.done && q.lanes.contains l)) info
  | _ =>
    let t := o.lanes.foldl (fun s y => pin s y.ia id false) t
    let t := modWarp t o.core o.slot fun w =>
      { (countLanes w t o false) with marks := Sparse.erase w.marks id, holds := none, acqs := w.acqs.filter (· != id) }
    if o.visit = 2 ∧ o.stage = 1 then faultLate t o info
    else
      let t := t.select o.core o.slot
      takeFault (t.setWarp (t.warp.setPcs (lanesOf t.warp.frontMask) (BitVec.ofNat 72 o.pc))) info

/-- The retransmission interval of a request has passed without an answer (R247): the same request goes to its home again, or after 8 times the
instruction is given up. A timer of a request that has been answered is none. See log entry 35 (DEDUCED). -/
def retransmit (s : State) (id : Nat) : State :=
  match s.op? id with
  | none => s
  | some o =>
    let k := s.input.a
    if o.kind ≠ .red ∧ !here s o then s.dropOp id
    else match o.asked k with
      | none => s
      | some q =>
        let far := match place s q.ia with | .other _ => true | _ => false
        let timer (s : State) (at_ : Nat) : State :=
          s.postWith { at_, ev := .retransmissionTimeout id, data := { a := k, b := q.sent } }
        if q.sent ≠ s.input.b then s
        else if !(if far then decide (q.tick + 250000 * (q.tries + 1) ≤ s.now) else decide (q.sent + 16384 * (q.tries + 1) ≤ s.cycle)) then
          timer s (if far then s.cycle + 1000 else q.sent + 16384 * (q.tries + 1))
        else if q.tries < 8 then
          let s := (countEvent s o.core 0x11 1 o.user).setOp id (o.tried k)
          timer (sendOut s o.core q.ia (o.request id k) { a := k, b := q.sent, flag := true } 6) (s.cycle + (if far then 1000 else 16384))
        else giveUp s id o k

end Sys2Proof.Machine
end

