-- ==== Sys2Proof/Machine/Keccak.lean ====
section
/-! DEFINITION. SHAKE256 (FIPS 202), which the boot ROM and the security block use (17_platform R344 to R346). -/

namespace Sys2Proof.Machine

/-- Rotation of each lane in ρ, by x + 5y. -/
def rhoOffsets : List Nat :=
  [0, 1, 62, 28, 27, 36, 44, 6, 55, 20, 3, 10, 43, 25, 39, 41, 45, 15, 21, 8, 18, 2, 61, 56, 14]

/-- Round constants of ι. -/
def iotaWords : List (BitVec 64) :=
  [0x0000000000000001, 0x0000000000008082, 0x800000000000808A, 0x8000000080008000, 0x000000000000808B, 0x0000000080000001,
   0x8000000080008081, 0x8000000000008009, 0x000000000000008A, 0x0000000000000088, 0x0000000080008009, 0x000000008000000A] ++
  [0x000000008000808B, 0x800000000000008B, 0x8000000000008089, 0x8000000000008003, 0x8000000000008002, 0x8000000000000080,
   0x000000000000800A, 0x800000008000000A, 0x8000000080008081, 0x8000000000008080, 0x0000000080000001, 0x8000000080008008]

/-- Lane (x, y) of a state of 25 lanes. -/
def laneAt (a : List (BitVec 64)) (x y : Nat) : BitVec 64 := a.getD (x % 5 + 5 * (y % 5)) 0

/-- A state from a rule for each lane. -/
def keccakMap (g : Nat → Nat → BitVec 64) : List (BitVec 64) := (List.range 25).map fun i => g (i % 5) (i / 5)

/-- One round of Keccak-f[1600]. -/
def keccakRound (a : List (BitVec 64)) (rc : BitVec 64) : List (BitVec 64) :=
  let col := (List.range 5).map fun x => (List.range 5).foldl (fun s y => s ^^^ laneAt a x y) 0
  let par (x : Nat) : BitVec 64 := col.getD ((x + 4) % 5) 0 ^^^ (col.getD ((x + 1) % 5) 0).rotateLeft 1
  let b := keccakMap fun x y => laneAt a x y ^^^ par x
  let c := keccakMap fun x y =>
    let i := (x + 3 * y) % 5
    (laneAt b i x).rotateLeft (rhoOffsets.getD (i + 5 * x) 0)
  keccakMap fun x y =>
    let v := laneAt c x y ^^^ (~~~ laneAt c (x + 1) y &&& laneAt c (x + 2) y)
    if x = 0 ∧ y = 0 then v ^^^ rc else v

def keccakF (a : List (BitVec 64)) : List (BitVec 64) := iotaWords.foldl keccakRound a

/-- Absorb a block of 136 bytes. -/
def absorb (a : List (BitVec 64)) (block : List Byte) : List (BitVec 64) :=
  keccakF ((List.range 25).map fun i =>
    a.getD i 0 ^^^ (if i < 17 then BitVec.ofNat 64 (leBytes ((block.drop (8 * i)).take 8)) else 0))

/-- Absorb whole blocks. -/
def absorbAll : Nat → List (BitVec 64) → List Byte → List (BitVec 64)
  | 0, a, _ => a
  | n + 1, a, bs => if bs.isEmpty then a else absorbAll n (absorb a (bs.take 136)) (bs.drop 136)

/-- The padding of SHAKE after `n` bytes of message. -/
def shakePad (n : Nat) : List Byte :=
  let k := 136 - n % 136
  if k = 1 then [0x9F] else 0x1F :: (List.replicate (k - 2) 0 ++ [0x80])

/-- The first `n` bytes, at most 136, of SHAKE256. See log entry 15 (DESIGN CHOICE). -/
def shake256 (msg : List Byte) (n : Nat) : List Byte :=
  let bs := msg ++ shakePad msg.length
  let a := absorbAll (bs.length / 136) (List.replicate 25 0) bs
  ((a.map fun x => toBytes 8 x.toNat).flatten).take n

end Sys2Proof.Machine
end

