-- ==== Sys2Proof/Machine/Control.lean ====
section
/-! DEFINITION. Control flow, reconvergence and team-call (08_control_and_teams R162 to R185). -/

namespace Sys2Proof.Machine

/-! ### Where a front goes -/

namespace Warp

/-- Give every lane of the current front a new program counter (R165). Fronts of distinct addresses take its place in
ascending order of address, the lowest current (R34). -/
def retarget (w : Warp) (g : Nat → Va) : Warp :=
  match w.cur, w.front? with
  | some i, some f =>
    let ls := lanesOf f.lanes
    let w := ls.foldl (fun w l => w.setThread l { w.thread l with pc := g l }) w
    let parts := sortOn (fun m => (w.thread (lowest m)).pc.toNat) (w.groupLanes ls [])
    w.replaceFront i (parts.map fun m => { f with lanes := m })
  | _, _ => w

/-- Live lanes of the current front. -/
def frontLanes (w : Warp) : List Nat := lanesOf w.frontMask

/-- The front is inside a `SOLO` section (R170). -/
def inSolo (w : Warp) : Bool := w.frontLanes.any fun l => (w.thread l).solo.isSome

/-- The lowest free reconvergence entry (R309). -/
def freeEntry (w : Warp) : Option Nat := (List.range 32).find? fun i => (Sparse.get? w.entries i).isNone

end Warp

/-- A label target (R164). -/
def labelVa (pc : Va) (off : Nat) : Va := pc + (BitVec.ofNat 32 off).signExtend 72
/-- A register target (R164). -/
def registerVa (pc : Va) (x : Dword) : Va := (pc >>> 64).setWidth 8 ++ x

/-- Length of an extended instruction in bytes (R57). -/
def lenX (f : Fields) : Nat := if f.lit.isSome then 20 else 12

/-- Branch or call (R165): lanes whose guard is true go to their target, the others on. -/
def branchBody (len : Nat) (link : Bool) (tgt : Fields → Warp → Nat → Va) (f : Fields) (s : State) : Act :=
  let w := s.warp
  let pc := w.pc
  let next := pc + BitVec.ofNat 72 len
  let s := if link then
      land s (s.cycle + 4) false ((w.active.filter (guardOf f w)).map fun l =>
        [Write.reg 0 l (next.setWidth 32), .reg 1 l ((next >>> 32).setWidth 32)]).flatten
    else s
  .jump (s.setWarp (s.warp.retarget fun l => if guardOf f w l then tgt f w l else next))

def toLabel (f : Fields) (w : Warp) (_ : Nat) : Va := labelVa w.pc f.loWord
def toRegister (f : Fields) (w : Warp) (l : Nat) : Va :=
  registerVa w.pc (src64 false f w l f.a + (src32 f w l f.b).signExtend 64)
def toLink (_ : Fields) (w : Warp) (l : Nat) : Va := registerVa w.pc (w.pair 0 l)

def execBra (f : Fields) (s : State) := issueX 0x0C0 f s (branchBody (lenX f) false toLabel)
def execBrx (f : Fields) (s : State) := issueX 0x0C1 f s (branchBody (lenX f) false toRegister)
def execCall (f : Fields) (s : State) := issueX 0x0C2 f s (branchBody (lenX f) true toLabel)
def execCallx (f : Fields) (s : State) := issueX 0x0C3 f s (branchBody (lenX f) true toRegister)
def execRet (f : Fields) (s : State) := issueX 0x0C4 f s (branchBody (lenX f) false toLink)
def execRetShort (k : Short) (s : State) := issueK 0x13 k s (branchBody 4 false toLink)
/-- `SBRA` (R62). -/
def execSbra (k : ShortBranch) (s : State) : Host.Outcome State Fault Refusal :=
  let f := k.ext.2
  issue 0x0C0 [k.word] f s (branchBody 4 false toLabel f)

/-! ### The reconvergence stack -/

/-- `SPLIT` (R167). -/
def execSplit (f : Fields) (s : State) := issueX 0x0C5 f s fun f s =>
  let w := s.warp
  match w.freeEntry, w.cur, w.front? with
  | some e, some i, some fr =>
    let pc := w.pc
    let ls := w.frontLanes
    let taken := ls.filter fun l => guardOf f w l && srcPred w l f.a
    let rest := ls.filter fun l => !taken.contains l
    let entry : REntry := { join := labelVa pc f.hiWord, mask := fr.lanes, team := w.team, link := w.entry }
    let set (ls : List Nat) (pc : Va) (w : Warp) : Warp :=
      ls.foldl (fun w l => w.setThread l { w.thread l with pc, entry := some e }) w
    let w := set taken (labelVa pc f.loWord) (set rest (pc + 20) { w with entries := Sparse.put w.entries e entry })
    .jump (s.setWarp (w.replaceFront i (([maskOf rest, maskOf taken].filter (· != 0)).map fun m => { fr with lanes := m })))
  | _, _, _ => .trap 0x0E 0 1

namespace Warp

/-- Lanes of an entry whose threads are live (R168). -/
def memberLanes (w : Warp) (e : REntry) : List Nat := (lanesOf e.mask).filter w.live

/-- The merging threads form one ready front at the lowest of their positions (R34, R168 step 3). -/
def joinFronts (w : Warp) (m : Mask) : Warp :=
  let hit (p : Front × Bool) : Bool := p.1.wait == some .join && p.1.lanes &&& m != 0
  let l := w.marked
  let i := l.findIdx? hit
  let l := ((List.range l.length).zip l).map fun p =>
    if hit p.2 then (if some p.1 = i then (({ lanes := m } : Front), p.2.2) else ({ p.2.1 with lanes := p.2.1.lanes &&& ~~~ m }, p.2.2))
    else p.2
  (w.unmark l).settle

/-- Complete an entry if every live member is parked at its `JOIN` (R168). An entry without live members is freed.
See log entry 32 (DEDUCED). -/
def joinEntry (now : Nat) (w : Warp) (i : Nat) : Warp :=
  match Sparse.get? w.entries i with
  | none => w
  | some e =>
    let ls := w.memberLanes e
    if ls.isEmpty then { w with entries := Sparse.erase w.entries i }
    else if ls.all fun l => (w.thread l).entry == some i && hasLane (w.parkedFor .join) l then
      let w := ls.foldl (fun w l => w.setThread l { w.thread l with entry := e.link }) w
      { (w.joinFronts (maskOf ls)) with entries := Sparse.erase w.entries i, lastAcq := now, fetched := none, fetching := none }
    else w

/-- Look at every entry. See log entry 32 (DEDUCED). -/
def joinAll (now : Nat) (w : Warp) : Warp := (w.entries.map (·.1)).foldl (fun w i => w.joinEntry now i) w

/-! ### Single-thread sections (R170) -/

/-- Let the next thread of a section run, or end the section when every live member has arrived: the restored front stands at the end of the
list, as woken threads do. See log entry 32 (DEDUCED). -/
def soloNext (w : Warp) (i : Nat) : Warp :=
  match Sparse.get? w.solos i with
  | none => w
  | some x =>
    let left := (lanesOf (x.members &&& ~~~ x.arrived)).filter w.live
    match left with
    | l :: _ =>
      let go (f : Front) : Front := if f.lanes == laneBit l && f.wait == some .soloTurn then { f with wait := none } else f
      { w with fronts := w.fronts.map go }.settle
    | [] =>
      let ls := (lanesOf x.members).filter w.live
      let w := (lanesOf x.members).foldl (fun w l => w.setThread l { w.thread l with solo := none }) w
      { w with solos := Sparse.erase w.solos i }.wake (ls.filter fun l => hasLane (w.parkedFor .soloe) l)

end Warp

/-! ### Members of a group and their teams (R174, R175) -/

/-- The resident warps of a group: slot and warp. -/
def groupWarps (s : State) (c ctx : Nat) : List (Nat × Warp) :=
  (s.core c).warps.filter fun p => p.2.ctx == ctx && !p.2.single

/-- Live threads of a group's resident warps: slot, lane, thread. See log entry 32 (DEDUCED). -/
def residents (s : State) (c ctx : Nat) : List (Nat × Nat × Thread) :=
  ((groupWarps s c ctx).map fun p => (p.2.threads.filter fun t => t.2.life == .live).map fun t => (p.1, t.1, t.2)).flatten

/-- Live threads of its evicted warps, and of those that a save of the group has saved already (R48, R55). -/
def awayThreads (s : State) (ctx : Nat) : List Thread :=
  match s.group? ctx with
  | some g => ((g.away.map fun p => p.2.map (·.2)).flatten).filter fun t => t.life == .live
  | none => []

/-- A thread of a core is parked for a reason. -/
def isParked (s : State) (c slot lane : Nat) (why : Park) : Bool := hasLane ((s.warpAt c slot).parkedFor why) lane

/-- Team identity (R309). -/
def teamId (frame callee : Nat) : Byte := BitVec.ofNat 8 (128 + 8 * frame + callee)

/-- Wake threads of a group after a barrier: an acquire of group scope among them (R183). -/
def wakeMembers (s : State) (c : Nat) (ms : List (Nat × Nat × Thread)) : State :=
  ((ms.map (·.1)).eraseDups).foldl (fun s k =>
    modWarp s c k fun w =>
      { (w.wake ((ms.filter fun m => m.1 == k).map (·.2.1))) with lastAcq := s.now, fetched := none, fetching := none }) s

/-- Every member of `ms` is parked for `why` by the instruction at one address, or at `TRET` (R175): the parked ones, if there are any. -/
def arrived (s : State) (c : Nat) (ms : List (Nat × Nat × Thread)) (why : Park) : List (Nat × Nat × Thread) :=
  let at_ := ms.filter fun m => isParked s c m.1 m.2.1 why
  match at_ with
  | [] => []
  | a :: _ =>
    if ms.all fun m => (isParked s c m.1 m.2.1 why && m.2.2.waitPc == a.2.2.waitPc) || isParked s c m.1 m.2.1 .tret then at_ else []

/-- Complete the group's `BAR` if it is present (R175, R183). See log entry 32 (DEDUCED). -/
def barDone (s : State) (c ctx : Nat) : State :=
  if (awayThreads s ctx).isEmpty then wakeMembers s c (arrived s c (residents s c ctx) .bar) else s

/-- Complete the `TBAR` of a team if it is present. See log entry 32 (DEDUCED). -/
def tbarDone (s : State) (c ctx : Nat) (team : Byte) : State :=
  if (awayThreads s ctx).any fun t => t.team == team then s
  else wakeMembers s c (arrived s c ((residents s c ctx).filter fun m => m.2.2.team == team) .tbar)

/-- Threads that returned from a frame and are alive. -/
def returners (s : State) (c ctx i : Nat) : List (Nat × Nat × Thread) :=
  (residents s c ctx).filter fun m => m.2.2.team.toNat / 8 == 16 + i

/-- The parent team resumes (R180). -/
def frameResume (s : State) (c ctx i : Nat) (f : Frame) : State :=
  let ms := returners s c ctx i
  ((ms.map (·.1)).eraseDups).foldl (fun s k =>
    modWarp s c k fun w =>
      let ls := (ms.filter fun m => m.1 == k).map (·.2.1)
      let w := ls.foldl (fun w l =>
        let t := w.thread l
        let rank := BitVec.ofNat 10 (Sparse.get t.rank.toNat f.ranks (w.wix * 32 + l))
        let w := w.setThread l { t with entry := Sparse.get none f.wentry w.wix, team := f.pteam, rank, pc := f.ret }
        (w.setReg f.d l (t.retval.setWidth 32)).setReg (f.d + 1) l ((t.retval >>> 32).setWidth 32)) w
      { (w.wake ls) with lastAcq := s.now, fetched := none, fetching := none }) s

/-- A copy in flight holds the pair that a returned thread of a frame is to write (04_registers R86). -/
def pairHeld (s : State) (c d : Nat) (ms : List (Nat × Nat × Thread)) : Bool := ms.any fun m => copyHolds s (s.warpAt c m.1) [d, d + 1]

/-- Look at one frame (R180, R181): clear the bits of sub-teams that have returned, and resume or free when none is outstanding. Members parked
at different `TRET`s of one sub-team have returned, and the parent waits for returned threads that are evicted or saved. See log entry 32
(DEDUCED). -/
def frameCheck (s : State) (c ctx i : Nat) : State :=
  match s.group? ctx with
  | none => s
  | some g =>
    match Sparse.get? g.frames i with
    | none => s
    | some f =>
      let back (j : Nat) : Bool :=
        let id := teamId i j
        ((residents s c ctx).all fun m => m.2.2.team != id || isParked s c m.1 m.2.1 .tret) &&
        !((awayThreads s ctx).any fun t => t.team == id) && g.frames.all fun p => p.2.pteam != id
      let outst := (List.range 8).foldl (fun m j => if f.outst.getLsbD j && back j then m - 2 ^ j else m) f.outst.toNat
      let away := (awayThreads s ctx).any fun t => t.team.toNat / 8 == 16 + i
      if outst ≠ 0 ∨ away ∨ pairHeld s c f.d (returners s c ctx i) then s.setGroup ctx { g with frames := Sparse.put g.frames i { f with outst := BitVec.ofNat 8 outst } }
      else frameResume (s.setGroup ctx { g with frames := Sparse.erase g.frames i }) c ctx i f

/-- Look at every frame, the frames inside it first: 16 rounds reach through every nesting. -/
def framesCheck (s : State) (c ctx : Nat) : State :=
  match s.group? ctx with
  | none => s
  | some g => (List.range 16).foldl (fun s _ => (g.frames.map (·.1)).foldl (fun s i => frameCheck s c ctx i) s) s

/-- What an arrival, a return or an exit may complete in its group (R171, R175, R181). -/
def groupCheck (s : State) (c ctx : Nat) : State :=
  let s := barDone (framesCheck s c ctx) c ctx
  (((residents s c ctx).map fun m => m.2.2.team).eraseDups).foldl (fun s t => tbarDone s c ctx t) s

/-- The same for the executing warp's group. -/
def groupCheckHere (s : State) : State := groupCheck s s.selfCore s.warp.ctx

/-! ### Joining, and single-thread sections -/

/-- Park the live lanes of the front at the next instruction, and switch (R35, R37); the address at which they wait is kept (R175). -/
def parkFront (w : Warp) (len : Nat) (why : Park) : Warp :=
  let pc := w.pc
  let w' := (lanesOf w.frontMask).foldl (fun w l => w.setThread l { w.thread l with waitPc := pc }) w
  ((w'.advance len).park w.frontMask why).switch

/-- `JOIN` (R168, R169). -/
def joinBody (len : Nat) (s : State) : Act :=
  let w := s.warp
  match w.entry.bind fun i => Sparse.get? w.entries i with
  | none => .trap 0x0F 0 1
  | some e =>
    if e.join ≠ w.pc ∨ e.team ≠ w.team then .trap 0x0F 0 1
    else released true .warp s fun s => .jump (s.setWarp ((parkFront s.warp len .join).joinAll s.now))

def execJoin (f : Fields) (s : State) := issueX 0x0C6 f s fun f s => joinBody (lenX f) s
def execJoinShort (k : Short) (s : State) := issueK 0x16 k s fun _ s => joinBody 4 s

/-- `SOLO` (R170). -/
def execSolo (f : Fields) (s : State) := issueX 0x0D0 f s fun f s =>
  let w := s.warp
  if w.inSolo then .trap 0x02 0 (trapWords (encodeExt 0x0D0 f))
  else match w.cur with
    | none => .wait
    | some i =>
      let ls := w.frontLanes
      let id := (w.solos.foldl (fun m p => max m (p.1 + 1)) 0)
      let w' := w.advance (lenX f)
      let w' := ls.foldl (fun w l => w.setThread l { w.thread l with solo := some id }) w'
      let fronts := ls.map fun l => ({ lanes := laneBit l, wait := if some l = ls.head? then none else some .soloTurn } : Front)
      let w' := { w' with solos := Sparse.put w'.solos id { members := w.frontMask, entry := w.entry } }
      .jump (s.setWarp (w'.replaceFront i fronts).switch)

/-- `SOLOE` (R169, R170). -/
def execSoloe (f : Fields) (s : State) := issueX 0x0D1 f s fun f s =>
  let w := s.warp
  let m := w.frontMask
  match (w.thread (Warp.lowest m)).solo with
  | none => .trap 0x02 0 (trapWords (encodeExt 0x0D1 f))
  | some i =>
    match Sparse.get? w.solos i with
    | none => .trap 0x02 0 (trapWords (encodeExt 0x0D1 f))
    | some x =>
      if x.entry ≠ w.entry then .trap 0x0F 0 1
      else
        let w := parkFront w (lenX f) .soloe
        .jump (s.setWarp ({ w with solos := Sparse.put w.solos i { x with arrived := x.arrived ||| m } }.soloNext i))

/-! ### Exit, yield, sleep, no-operation -/

/-- Threads end (R171): they leave their front, the member masks and the sections they are in. See log entry 32 (DEDUCED). -/
def endThreads (w : Warp) (ls : List Nat) : Warp :=
  let m := maskOf ls
  let w := ls.foldl (fun w l => w.setThread l { w.thread l with life := .exited }) w
  { w with
    fronts := w.fronts.map fun f => { f with lanes := f.lanes &&& ~~~ m }
    entries := w.entries.map fun p => (p.1, { p.2 with mask := p.2.mask &&& ~~~ m }) }

/-- The holder of a warp's quarter is none (R45, R366). -/
def dropHold (s : State) (c k : Nat) : State :=
  let x := s.core c
  let q := quarterOf k
  let y : Quarter := Sparse.get {} x.quarters q
  if k < 64 ∧ y.holder = some k then s.setCore c { x with quarters := Sparse.put x.quarters q { y with holder := none } } else s

/-- Threads of the front exit (R171). -/
def exitNow (len : Nat) (ls : List Nat) (s : State) : Act :=
  let w := s.warp
  let solos := (ls.filterMap fun l => (w.thread l).solo).eraseDups
  let w := (endThreads (w.advance len) ls).switch
  let w := solos.foldl (fun w i => w.soloNext i) (w.joinAll s.now)
  let s := s.setWarp w
  let s := if w.liveLanes.isEmpty then dropHold s s.selfCore s.selfSlot else s
  .jump (groupCheckHere s)

/-- `EXIT` (R171): a switch point when a thread exits. One that would leave its warp no live thread first waits as a `.sys` release
does (R233). -/
def exitBody (len : Nat) (f : Fields) (s : State) : Act :=
  let w := s.warp
  let ls := w.frontLanes.filter (guardOf f w)
  if ls.isEmpty then .next s
  else released (w.liveLanes.all fun l => ls.contains l) .sys s (exitNow len ls)

def execExit (f : Fields) (s : State) := issueX 0x0C7 f s fun f s => exitBody (lenX f) f s
def execExitShort (k : Short) (s : State) := issueK 0x14 k s fun f s => exitBody 4 f s

/-- `YIELD` (R45, R172). -/
def yieldBody (len : Nat) (f : Fields) (s : State) : Act :=
  let w := s.warp
  if w.frontLanes.any (guardOf f w) then
    .jump (dropHold (s.setWarp { (w.advance len).switch with stamp := s.cycle }) s.selfCore s.selfSlot)
  else .next s

def execYield (f : Fields) (s : State) := issueX 0x0C8 f s fun f s => yieldBody (lenX f) f s
def execYieldShort (k : Short) (s : State) := issueK 0x15 k s fun f s => yieldBody 4 f s

def execNop (f : Fields) (s : State) := issueX 0x0C9 f s fun _ s => .next s
def execNopShort (k : Short) (s : State) := issueK 0x00 k s fun _ s => .next s

/-- `SLEEP` (R173). -/
def execSleep (f : Fields) (s : State) := issueX 0x0CA f s fun f s =>
  let w := s.warp
  let on := w.frontLanes.filter (guardOf f w)
  if on.isEmpty then .next s
  else
    let ls := on.filter fun l => src32 f w l f.a != 0
    let w' := ls.foldl (fun w' l =>
      w'.setThread l { w'.thread l with deadline := BitVec.ofNat 64 (s.now + (src32 f w l f.a).toNat) }) (w.advance (lenX f))
    .jump (s.setWarp (w'.park (maskOf ls) .sleep).switch)

/-! ### Team-call -/

/-- The live members of the executing front's team, leader first: slot, lane, thread in ascending rank; none while one of them is
evicted or saved. -/
def teamMembers (s : State) (team : Byte) : Option (List (Nat × Nat × Thread)) :=
  if (awayThreads s s.warp.ctx).any fun t => t.team == team then none
  else some (sortOn (fun m => m.2.2.rank.toNat) ((residents s s.selfCore s.warp.ctx).filter fun m => m.2.2.team == team))

/-- A warp stands at a team-call: its current front is there, outside a `SOLO` section, passes the checks of its own issue, has made its
release, and holds these lanes (R82, R170, R178, R374). -/
def standsAt (s : State) (f : Fields) (k : Nat) (pc : Va) (ls : List Nat) : Bool :=
  let t := s.select s.selfCore k
  let w := t.warp
  w.pc == pc && !w.inSolo && mayIssue t w 0x0CB && (w.held || passes t w 0x0CB f) && ls.all (fun l => hasLane w.frontMask l) && releaseAt t .group == .go

/-- The shares of a team of `k` (R177). -/
def shares (k : Nat) (min1 : Bool) (ws : List Nat) : List Nat :=
  let W := ws.foldl (· + ·) 0
  let s := ws.map fun w => k * w / W
  let f := ws.map fun w => k * w % W
  let left := k - s.foldl (· + ·) 0
  let order := sortOn (fun i => W - f.getD i 0) (List.range ws.length)
  let s := (order.take left).foldl (fun s j => s.modify j (· + 1)) s
  if min1 && decide (ws.length ≤ k) then
    (List.range ws.length).foldl (fun s i =>
      if 0 < ws.getD i 0 ∧ s.getD i 0 = 0 then
        let j := ((List.range s.length).foldl (fun b x => if s.getD b 0 < s.getD x 0 then x else b) 0)
        (s.modify j (· - 1)).set i 1
      else s) s
  else s

/-- The callee of each member, in ascending rank: callee index and rank in it (R177). -/
def assign : List Nat → Nat → List (Nat × Nat)
  | [], _ => []
  | n :: r, i => ((List.range n).map fun k => (i, k)) ++ assign r (i + 1)

/-- The reads of a callee table (R373): one for each 32-byte unit, in order of address. -/
def unitLegs : List Lane → List (Nat × Leg) → List Leg
  | [], acc => acc.map (·.2)
  | x :: r, acc =>
    let u := x.ia / 32
    match acc.findIdx? fun p => p.1 == u with
    | some i => unitLegs r (acc.modify i fun p => (p.1, { p.2 with lanes := p.2.lanes ++ [x.lane] }))
    | none => unitLegs r (acc ++ [(u, { ia := x.ia / 512 * 512, lanes := [x.lane] })])

/-- Free the warps that a team-call holds. -/
def freeHolds (s : State) (c id : Nat) : State :=
  let free (p : Nat × Warp) : Nat × Warp := if p.2.holds = some id then (p.1, { p.2 with holds := none }) else p
  s.setCore c { s.core c with warps := (s.core c).warps.map free }

/-- `TCALL` at its front (R176, R178): it waits until its team is present; then its leader's warp reads the table. -/
def execTcall (f : Fields) (s : State) := issueX 0x0CB f s fun f s =>
  let w := s.warp
  let n := f.sub.toNat
  let pc := w.pc
  let outside := (w.liveLanes.filter fun l => (w.thread l).team == w.team && !hasLane w.frontMask l)
  if w.inSolo then .trap 0x02 0 (trapWords (encodeExt 0x0CB f))
  else if !outside.isEmpty then .trap 0x02 0 (BitVec.ofNat 64 (maskOf outside).toNat)
  else released true .group s fun s =>
    match teamMembers s w.team with
    | none => .wait
    | some ms =>
      let lead := ms.headD (s.selfSlot, 0, {})
      let slots := (ms.map (·.1)).eraseDups
      let here (k : Nat) : Bool := k == s.selfSlot || standsAt s f k pc ((ms.filter fun m => m.1 == k).map (·.2.1))
      if lead.1 ≠ s.selfSlot ∨ !(slots.all here) then .wait
      else
        let va := vaOf f w lead.2.1
        if va % 16 ≠ 0 then operandFault .read (0x07, va, lead.2.1, false)
        else
          let tr := (List.range n).map fun i => (i, (va + 16 * i) % 2 ^ 72, translateFor s w .read ((va + 16 * i) % 2 ^ 72))
          let bad := tr.findSome? fun p => match p.2.2 with
            | .error c => some (c, p.2.1, lead.2.1, false)
            | .ok ia => if place s ia = .io then some (0x0B, p.2.1, lead.2.1, true) else none
          match bad with
          | some e => operandFault .read e
          | none =>
            let lanes : List Lane := tr.filterMap fun p => match p.2.2 with
              | .ok ia => let x : Lane := { lane := p.1, va := p.2.1, ia, size := 16 }
                          some { x with fwd := storesOf s (ownOps s) s.selfCore lead.2.1 x }
              | .error _ => none
            let o := { opOf s .tcall 0x0CB f with lanes, block := (lead.2.1, va), todo := [] }
            if lanes.any (redOf s (ownOps s) lead.2.1) then .wait else
            let hit (x : Lane) : Bool := place s x.ia != .io && l1Hit s s.selfCore o.who x.ia 16
            let keeps (p : Leg) : Leg := { p with l1 := true, pte := classOf s s.selfCore p.ia }
            let parts := (unitLegs (lanes.filter hit) []).map keeps ++ unitLegs (lanes.filter fun x => !hit x) []
            let (id, s) := newOp s { o with parts, left := parts.length }
            let s := slots.foldl (fun s k => modWarp s s.selfCore k fun w => { w with holds := some id }) s
            .jump ((List.range parts.length).foldl (fun s k =>
              let p := parts.getD k { ia := 0, lanes := [] }
              if p.l1 then l1Touch (s.post (s.cycle + 14) (.loadResponse id k)) s.selfCore p.ia false else sendLeg s id k) s)

/-- The table of a team-call is read (R177, R178): the members enter their callees; a warp that was held at its release has issued already
(R374). See log entry 32 (DEDUCED). -/
def tcallEnter (s : State) (id : Nat) (o : MemOp) : State :=
  let s := (freeHolds (s.dropOp id) o.core id).select o.core o.slot
  let lanes := o.lanes.map Lane.withFwd
  let fault (cause : Nat) (addr : Va) (info : Dword) : State :=
    takeFault s { cause, addr, info, pc := BitVec.ofNat 72 o.pc }
  match lanes.find? fun x => !x.ok with
  | some x => takeFault s (laneFault { o with block := (0, 0) } { x with lane := o.block.1 } false)
  | none =>
    let ws := lanes.map fun x => x.got / 2 ^ 80 % 65536
    let w0 := s.warp
    if (lanes.any fun x => x.got / 2 ^ 96 != 0 || x.got / 2 ^ 72 % 256 != 0) || ws.foldl (· + ·) 0 == 0 then
      fault 0x02 (BitVec.ofNat 72 o.block.2) (trapWords (encodeExt 0x0CB o.f))
    else match s.group? o.ctx, teamMembers s w0.team with
      | some g, some ms =>
        match (List.range 16).find? fun i => (Sparse.get? g.frames i).isNone with
        | none => fault 0x0E 0 0
        | some i =>
          let sh := shares ms.length (o.f.clsBits 0 1 = 1) ws
          let asg := ms.zip (assign sh 0)
          let entered := ((List.range 8).filter fun j => 0 < sh.getD j 0).foldl (fun m j => m + 2 ^ j) 0
          let team := w0.team
          let slots := (ms.map (·.1)).eraseDups
          let held := slots.filter fun k => (s.warpAt o.core k).held
          let frame : Frame :=
            { pframe := if team = 0 then none else some (team.toNat / 8 % 16), pteam := team
              ret := BitVec.ofNat 72 (o.pc + lenX o.f), n := o.f.sub.toNat, entered := BitVec.ofNat 8 entered
              outst := BitVec.ofNat 8 entered
              wentry := slots.foldl (fun m k => let w := s.warpAt o.core k; Sparse.put m w.wix w.entry) []
              d := o.f.d.toNat
              ranks := ms.foldl (fun m x => Sparse.put m ((s.warpAt o.core x.1).wix * 32 + x.2.1) x.2.2.rank.toNat) [] }
          let s := s.setGroup o.ctx { g with frames := Sparse.put g.frames i frame }
          let s := slots.foldl (fun s k => modWarp s o.core k fun w =>
            let mine := asg.filter fun p => p.1.1 == k
            let w := mine.foldl (fun w p =>
              let l := p.1.2.1
              let entryVa := (lanes.getD p.2.1 { lane := 0, va := 0, ia := 0, size := 0 }).got
              w.setThread l { w.thread l with team := teamId i p.2.1, rank := BitVec.ofNat 10 p.2.2, pc := BitVec.ofNat 72 entryVa }) w
            let fronts := ((List.range 8).map fun j => maskOf ((mine.filter fun p => p.2.1 == j).map (·.1.2.1))).filter (· != 0)
            let w := match w.cur, w.front? with
              | some c, some f => w.replaceFront c (fronts.map fun m => { f with lanes := m })
              | _, _ => w
            { w with lastAcq := s.now, fetched := none, fetching := none, held := false
                     nextIssue := if k = o.slot ∨ w.held then w.nextIssue else s.cycle + o.f.stall.toNat + 1 }) s
          (slots.filter fun k => k != o.slot && !held.contains k).foldl (fun s k => countEvent s o.core 0x02 1 (!(s.warpAt o.core k).priv)) s
      | _, _ => s

/-- A table read of a team-call is answered; the members enter in the cycle after the last (R373). -/
def respondTcall (s : State) (id k : Nat) : State :=
  match s.op? id with
  | none => s
  | some o =>
    if o.stage = 1 then tcallEnter s id o
    else
      match legBack s id k o with
      | (s, none) => s
      | (s, some o) =>
        if o.left ≠ 0 then s.setOp id o
        else (s.setOp id { o with stage := 1 }).post (s.cycle + 1) (.loadResponse id 0)

/-- `TRET` (R169, R180, R374). -/
def execTret (f : Fields) (s : State) := issueX 0x0CC f s fun f s =>
  let w := s.warp
  if w.inSolo then .trap 0x02 0 (trapWords (encodeExt 0x0CC f))
  else if w.team = 0 then .trap 0x0F 0 0
  else
    let frame := (s.group? w.ctx).bind fun g => Sparse.get? g.frames (w.team.toNat / 8 % 16)
    let recorded := match frame with
      | some fr => Sparse.get none fr.wentry w.wix
      | none => none
    if w.entry ≠ recorded then .trap 0x0F 0 1
    else released true .group s fun s =>
      let w := s.warp
      let w' := w.frontLanes.foldl (fun w' l => w'.setThread l { w'.thread l with retval := src64 false f w l f.a }) w
      .jump (groupCheckHere (s.setWarp (parkFront w' (lenX f) .tret)))

/-! ### Group and team barriers (R183) -/

def barBody (len : Nat) (words : Dword) (why : Park) (s : State) : Act :=
  if s.warp.inSolo then .trap 0x02 0 words
  else released true .group s fun s => .jump (groupCheckHere (s.setWarp (parkFront s.warp len why)))

def execBar (f : Fields) (s : State) := issueX 0x160 f s fun f s => barBody (lenX f) (trapWords (encodeExt 0x160 f)) .bar s
def execBarShort (k : Short) (s : State) := issueK 0x17 k s fun _ s => barBody 4 (trapWords [k.word 0x17]) .bar s
def execTbar (f : Fields) (s : State) := issueX 0x161 f s fun f s => barBody (lenX f) (trapWords (encodeExt 0x161 f)) .tbar s

/-! ### Safe points and idempotent regions -/

/-- `SAFEPT` (R184, R337): when a save of the group is asked for, the warp is saved after it. -/
def execSafept (f : Fields) (s : State) := issueX 0x0CD f s fun f s =>
  if saveAsked s then .next (s.setWarp { s.warp with saving := some (f.lit.getD 0) }) else .next s

/-- `IDEMB` (R185). -/
def execIdemb (f : Fields) (s : State) := issueX 0x0CE f s fun f s =>
  let w := s.warp
  if (w.liveLanes.any fun l => !hasLane w.frontMask l) || w.team != 0 || w.entry.isSome then
    .trap 0x02 0 (trapWords (encodeExt 0x0CE f))
  else .next (s.setWarp { w with region := some w.pc })

/-- `IDEME` (R185). -/
def execIdeme (f : Fields) (s : State) := issueX 0x0CF f s fun _ s => .next (s.setWarp { s.warp with region := none })

end Sys2Proof.Machine
end

