-- ==== Sys2Proof/Machine/Save.lean ====
section
/-! DEFINITION. The context save area and how a warp is saved and loaded; freeing a warp's slot and a group's resources
(10_ordering R232, R233; 11_atomics R246, R250; 14_tables R311 to R313; 16_events R337 to R339). -/

namespace Sys2Proof.Machine

/-! ### Fields of the save area -/

/-- Park reasons by number in a thread record (R313). Log entry 12. -/
def Park.code : Park → Nat
  | .syscall => 1
  | .svpop => 2
  | .ctxsv => 3
  | .tret => 4
  | .join => 5
  | .soloe => 6
  | .soloTurn => 7
  | .waitc => 8
  | .sleep => 9
  | .bar => 10
  | .tbar => 11
  | .gbar => 12
  | .wbwait => 13
  | .saved => 14
  | .fault => 15
/-- See log entry 12 (DESIGN CHOICE). -/
def Park.ofCode : Nat → Option Park
  | 1 => some .syscall
  | 2 => some .svpop
  | 3 => some .ctxsv
  | 4 => some .tret
  | 5 => some .join
  | 6 => some .soloe
  | 7 => some .soloTurn
  | 8 => some .waitc
  | 9 => some .sleep
  | 10 => some .bar
  | 11 => some .tbar
  | 12 => some .gbar
  | 13 => some .wbwait
  | 14 => some .saved
  | 15 => some .fault
  | _ => none

/-- Why a lane waits, if it does. -/
def Warp.waitOf (w : Warp) (l : Nat) : Option Park := (w.fronts.find? fun f => hasLane f.lanes l).bind (·.wait)

/-- STATE of a thread record (R313). -/
def stateByte (w : Warp) (l : Nat) : Nat :=
  match (w.thread l).life with
  | .absent => if w.helper l then 4 else 0
  | .exited => if w.helper l then 4 else 3
  | .live => match w.waitOf l with
    | none => 1
    | some p => 2 + 8 * p.code

/-- A current entry in six bits (R309). -/
def entryBits : Option Nat → Nat
  | none => 0
  | some i => 32 + i % 32
def entryOfBits (x : Nat) : Option Nat := if x / 32 % 2 = 1 then some (x % 32) else none

/-- RESULT of a resumed thread that still waits for its system call, and whether it is done, as the area it came from holds them (R284). -/
def savedResult (s : State) (w : Warp) (l : Nat) : Nat × Nat :=
  match w.savedAt, w.waitOf l with
  | some a, some .saved => let r := a + 0x400 + 64 * l; (homeNat s (r + 31) 8, homeNat s (r + 39) 1 % 2)
  | _, _ => (0, 0)

/-- A thread record (R313). See log entry 12 (DESIGN CHOICE). -/
def threadRecord (s : State) (w : Warp) (l : Nat) : List Byte :=
  let t := w.thread l
  let r := savedResult s w l
  toBytes 9 t.pc.toNat ++ toBytes 1 t.preds.toNat ++ toBytes 1 (stateByte w l) ++ toBytes 1 (entryBits t.entry) ++
  toBytes 1 t.team.toNat ++ toBytes 2 t.rank.toNat ++ toBytes 8 t.deadline.toNat ++ toBytes 8 t.retval.toNat ++
  toBytes 8 r.1 ++ toBytes 1 (r.2 + 2 * t.inCall.toNat + 4 * t.phase.toNat) ++ toBytes 2 t.rpair.toNat ++ toBytes 22 0

/-- A reconvergence entry in 32 bytes (R309, R312). Log entry 12. -/
def entryBytes : Option REntry → List Byte
  | none => toBytes 32 0
  | some e => toBytes 32 (1 + 2 ^ 8 * e.join.toNat + 2 ^ 80 * e.mask.toNat + 2 ^ 112 * e.team.toNat + 2 ^ 120 * entryBits e.link)
def entryOfNat (x : Nat) : Option REntry :=
  if x % 2 = 1 then
    some { join := BitVec.ofNat 72 (x / 2 ^ 8), mask := BitVec.ofNat 32 (x / 2 ^ 80), team := BitVec.ofNat 8 (x / 2 ^ 112),
           link := entryOfBits (x / 2 ^ 120 % 64) }
  else none

/-- A team frame in 256 bytes (R309, R311). Log entry 12. -/
def frameBytes : Option Frame → List Byte
  | none => toBytes 256 0
  | some f =>
    toBytes 1 1 ++ toBytes 1 (match f.pframe with | some i => 16 + i % 16 | none => 0) ++ toBytes 1 f.pteam.toNat ++
    toBytes 9 f.ret.toNat ++ toBytes 1 f.n ++ toBytes 1 f.entered.toNat ++ toBytes 1 f.outst.toNat ++ toBytes 1 0 ++
    ((List.range 32).map fun k => toBytes 1 (entryBits (Sparse.get none f.wentry k))).flatten ++ toBytes 208 0
def frameOfNat (x : Nat) (ghost : Option Frame) : Option Frame :=
  if x % 256 = 0 then none
  else
    let p := x / 2 ^ 8 % 256
    some { pframe := if p / 16 % 2 = 1 then some (p % 16) else none, pteam := BitVec.ofNat 8 (x / 2 ^ 16)
           ret := BitVec.ofNat 72 (x / 2 ^ 24), n := x / 2 ^ 96 % 256, entered := BitVec.ofNat 8 (x / 2 ^ 104)
           outst := BitVec.ofNat 8 (x / 2 ^ 112)
           wentry := (List.range 32).map fun k => (k, entryOfBits (x / 2 ^ (128 + 8 * k) % 64))
           d := match ghost with | some g => g.d | none => 0
           ranks := match ghost with | some g => g.ranks | none => [] }

/-- STATUS of a warp (04_registers R88). -/
def statusWord (w : Warp) : Nat := w.priv.toNat + 2 * w.chk.toNat + 4 * (if w.single then w.ie.toNat else 0)

/-- The four counters as a save leaves them: what an earlier save still waits for is added, also where that save was made to another area
(R232). -/
def savedCounters (s : State) (w : Warp) : List Byte :=
  let old (i : Nat) : Nat := match w.savedAt with
    | some a => homeNat s (a + 0x40 + 8 * i) 8
    | none => 0
  toBytes 8 (old 0 + w.unack.here) ++ toBytes 8 (old 1 + w.unack.other) ++ toBytes 8 (old 2 + w.unack.pkg) ++
  toBytes 8 (old 3 + w.unack.io)

/-- The deferred fault as a save leaves it. -/
def savedDeferred (s : State) (w : Warp) : List Byte :=
  match w.deferred.or (areaDeferred s w) with
  | some d => toBytes 8 (d.cause + 2 ^ 63) ++ toBytes 16 d.addr ++ toBytes 16 d.pc ++ toBytes 8 0
  | none => toBytes 48 0

/-- The fixed part of a warp area, 0x0000 to 0x0FFF (R312). A uniform register in error is saved as 0 (16_events R342). -/
def warpHead (s : State) (w : Warp) (live : Nat) (grow : Bool) : List Byte :=
  toBytes 8 (statusWord w) ++ toBytes 8 w.trap.cause.toNat ++ toBytes 16 w.trap.pc.toNat ++ toBytes 16 w.trap.addr.toNat ++
  toBytes 8 w.trap.info.toNat ++ toBytes 8 w.tenant.toNat ++ savedCounters s w ++ savedDeferred s w ++
  toBytes 8 w.blocks ++ toBytes 8 live ++
  toBytes 16 (match w.region with | some r => r.toNat + 2 ^ 127 | none => 0) ++ toBytes 8 (min 64 w.storeBuf.length) ++
  toBytes 8 grow.toNat ++ toBytes 64 0 ++
  (w.rangeList.map fun r => toBytes 8 r.base.toNat ++ toBytes 8 r.lim.toNat ++ toBytes 8 r.map.toNat).flatten ++ toBytes 64 0 ++
  ((List.range 64).map fun n => toBytes 4 (if w.sregErrs.contains n then 0 else (w.sreg n).toNat)).flatten ++
  toBytes 48 ((List.range 64).foldr (fun b x => w.tag b % 64 + 64 * x) 0) ++ toBytes 208 0 ++
  ((List.range 32).map (threadRecord s w)).flatten ++
  ((List.range 32).map fun i => entryBytes (Sparse.get? w.entries i)).flatten

/-- A register block, lane by lane (R312). A word in error is saved as 0 (16_events R342). -/
def blockBytes8 (w : Warp) (b : Nat) : List Byte :=
  (lanes32.map fun l => ((List.range 8).map fun i => toBytes 4 (if w.regErrs.contains ((8 * b + i) * 32 + l) then 0 else (w.reg (8 * b + i) l).toNat)).flatten).flatten

/-- Write bytes of a save at their homes, line by line. A line that fails its check keeps what it has. See log entry 8 (DESIGN CHOICE). -/
def areaWrite (s : State) (ia : Nat) (bs : List Byte) : State := go s (bs.length / 512 + 2) ia bs
where
  go (s : State) : Nat → Nat → List Byte → State
    | 0, _, _ => s
    | n + 1, ia, bs =>
      if bs.isEmpty then s
      else
        let k := 512 - ia % 512
        let s := match hwWrite s ia ⟨false, 0⟩ (bs.take k) with
          | .ok t => t
          | .error _ => s
        go s n (ia + k) (bs.drop k)

/-- The stores of the store buffer in order of issue, one of each thread: PC, address, length, and up to 32 bytes of data (R312). Those for
which the 64 places are too few stay with the saved context. Log entry 12. -/
def bufferBytes (s : State) (w : Warp) : List Byte :=
  ((w.storeBuf.take 64).map fun id => match s.op? id with
    | some o =>
      let x := o.lanes.headD { lane := 0, va := 0, ia := 0, size := 0 }
      toBytes 12 o.pc ++ toBytes 9 x.va ++ toBytes 1 x.lane ++ toBytes 2 x.size ++ toBytes 8 x.ia ++ toBytes 32 (leBytes (x.args.map (BitVec.ofNat 8)))
    | none => toBytes 64 0).flatten

/-- A store as its entry in a save area tells it. Log entry 12. -/
def savedStore (x : Nat) (o : MemOp) : MemOp :=
  let y := o.lanes.headD { lane := 0, va := 0, ia := 0, size := 0 }
  let size := x / 2 ^ 176 % 2 ^ 16
  let lane := { y with va := x / 2 ^ 96 % 2 ^ 72, lane := x / 2 ^ 168 % 256, size, ia := x / 2 ^ 192 % 2 ^ 64
                       args := ((toBytes (min size 32) (x / 2 ^ 256)).map BitVec.toNat) ++ y.args.drop 32 }
  { o with pc := x % 2 ^ 72, lanes := lane :: o.lanes.drop 1 }

/-- Write a warp's area: the blocks of `live` that it holds (R85, R184, R312). -/
def writeWarp (s : State) (w : Warp) (area : Nat) (live : Nat) (grow : Bool) : State :=
  let a := warpAreaAt area w.wix
  let s := areaWrite s a (warpHead s w live grow)
  let s := areaWrite s (a + 0x1000) (bufferBytes s w)
  ((List.range w.blocks).filter fun b => live / 2 ^ b % 2 = 1).foldl (fun s b => areaWrite s (a + 0x2000 + 1024 * b) (blockBytes8 w b)) s

/-- The group header (R312). -/
def headerBytes (g : Group) (ctx : Nat) (mask : Mask) (idem resident ended : Bool) : List Byte :=
  toBytes 8 ctx ++ toBytes 4 g.sett.arg ++ toBytes 1 g.index ++ toBytes 1 g.sett.warps ++ toBytes 2 g.sett.threads ++
  toBytes 2 g.sett.regs ++ toBytes 1 g.sett.accs ++ toBytes 1 g.sett.ctl ++ toBytes 2 g.sett.tenant ++ toBytes 1 g.sett.lmask ++
  toBytes 1 g.sett.gang ++ toBytes 8 (g.sett.doneVa % 2 ^ 64) ++ toBytes 1 (g.sett.doneVa / 2 ^ 64) ++ toBytes 7 0 ++
  toBytes 8 g.doneIa ++ toBytes 16 0 ++
  toBytes 2 (g.frames.foldl (fun m p => m + 2 ^ p.1) 0) ++ toBytes 1 idem.toNat ++ toBytes 1 0 ++ toBytes 4 mask.toNat ++
  toBytes 1 (resident.toNat + 2 * ended.toNat) ++ toBytes 439 0

/-- The header of slot `n` of a group (R311). -/
def slotBytes (k : Core) (g : Group) (n : Nat) : List Byte :=
  match Sparse.get? g.slots n with
  | none => toBytes 16 0
  | some p =>
    let a : Acc := Sparse.get {} k.accs p
    let owner := match a.owner with
      | some slot => 256 * (Sparse.get {} k.warps slot : Warp).wix + 2 ^ 15
      | none => 0
    toBytes 16 (p + 16 * a.residue.toNat + owner)

/-- Cells of a slot, row-major; one in error is saved as 0 (16_events R342). -/
def cellBytes (a : Acc) : List Byte :=
  ((List.range 2048).map fun i => toBytes 4 (if a.errs.contains i then 0 else (Sparse.get 0 a.cells i).toNat)).flatten

/-- Write slots of a group by name. -/
def writeSlots (s : State) (g : Group) (names : List Nat) : State :=
  names.foldl (fun s n =>
    let k := s.core g.core
    let s := areaWrite s (g.saveArea + 0x1200 + 16 * n) (slotBytes k g n)
    match Sparse.get? g.slots n with
    | some p => areaWrite s (g.saveArea + 0x2000 + 8192 * n) (cellBytes (Sparse.get {} k.accs p))
    | none => s) s

/-- Write a group's header and frames, and 0 in what is reserved beside them, and in the slot headers of a group that is discarded (R311). -/
def writeHeader (s : State) (ctx : Nat) (g : Group) (mask : Mask) (idem resident : Bool) : State :=
  let s := areaWrite s g.saveArea (headerBytes g ctx mask idem resident false)
  let s := areaWrite s (g.saveArea + 0x200) (((List.range 16).map fun i => frameBytes (Sparse.get? g.frames i)).flatten)
  let accs := if idem then 0 else min 16 g.sett.accs
  areaWrite s (g.saveArea + 0x1200 + 16 * accs) (toBytes (0xE00 - 16 * accs) 0)

/-- The bytes that the save of a warp writes, with the header, the frames and the slots `names`: address and length. -/
def saveParts (g : Group) (w : Warp) (names : List Nat) : List (Nat × Nat) :=
  [(g.saveArea, 0x2000), (warpAreaAt g.saveArea w.wix, 0x2000 + 1024 * w.blocks)] ++ names.map fun n => (g.saveArea + 0x2000 + 8192 * n, 8192)

/-- A save can write its bytes now: no lease, copy or lock at their homes keeps it waiting (09 R199, 11 R244). See log entry 8
(DESIGN CHOICE). -/
def partsOpen (s : State) (ps : List (Nat × Nat)) : Bool := ps.all fun p => !hwBlocked s p.1 p.2
def askParts (s : State) (ps : List (Nat × Nat)) : State := ps.foldl (fun s p => hwAsk s p.1 p.2) s

/-! ### The waits of a save (R246, R250, R274, R338) -/

/-- Waits of a warp whose threads have their word already, and have not gone on yet (R250, R284). -/
def wokenWaits (s : State) (c gen : Nat) : Bool :=
  (opsOf s c gen).any fun p => (p.2.kind == .waitc || p.2.kind == .wbwait || p.2.kind == .saved) &&
    p.2.parts.any fun l => !l.done && l.lanes.any fun j => p.2.lanes.any fun x => x.lane == j && x.info == 1

/-- Nothing that a save waits for is in flight, the record of a stopped front among it (R330, log entry 11); a copy of KIND 1 keeps
registers marked until it ends (R274), and a `RED` that has left the core is one of the atomics (R246). -/
def drained (s : State) (c slot : Nat) : Bool :=
  let w := s.warpAt c slot
  w.pend.isEmpty && w.marks.isEmpty && w.loads.isEmpty && w.holds.isNone && !wokenWaits s c w.gen &&
  !((opsOf s c w.gen).any fun p => p.2.kind == .svdone || (p.2.kind == .red && (p.2.stage == 1 || p.2.stage == 2))) &&
  !((s.core c).loopq.any fun l => l.slot == slot && l.gen == w.gen) && !((s.core c).awaiting.any fun p => p.2.1 == slot)

/-- Cancel the condition waits of a warp (R250, R318), and forget its prefetches. -/
def cancelAll (s : State) (c gen : Nat) : State :=
  ((opsOf s c gen).filter fun p => p.2.kind == .waitc || p.2.kind == .wbwait || p.2.kind == .saved || p.2.kind == .pref).foldl
    (fun s p => (cancelWaits s p.1).dropOp p.1) s

/-! ### Freeing -/

/-- Release the slots that a warp owns and clear them (R89). -/
def freeOwned (s : State) (c slot : Nat) : State :=
  let k := s.core c
  let clear (p : Nat × Acc) : Nat × Acc := if p.2.owner = some slot then (p.1, { p.2 with cells := [], errs := [], stopped := none, owner := none }) else p
  s.setCore c { k with accs := k.accs.map clear }

/-- Take a warp out of its slot; of one that is ended, a record that waits for its stores is written (R330, R339). -/
def removeWarp (s : State) (c slot : Nat) : State :=
  let s := dropHold s c slot
  let wait := (s.core c).awaiting.filter fun p => p.2.1 == slot
  let s := s.setCore c { s.core c with awaiting := (s.core c).awaiting.filter fun p => p.2.1 != slot }
  let s := wait.foldl (fun s p => enterTrap s c slot p.2.2) s
  let k := s.core c
  s.setCore c { k with warps := Sparse.erase k.warps slot }

/-- Give a group's physical slots back to the core, cleared (R89). -/
def freeSlots (s : State) (g : Group) : State :=
  let k := s.core g.core
  let mine := g.slots.map (·.2)
  let clear (p : Nat × Acc) : Nat × Acc := if mine.contains p.1 then (p.1, {}) else p
  s.setCore g.core { k with accs := k.accs.map clear }

/-- Remove the lease-table entries of a context on every die (R305). -/
def dropLeases (s : State) (ctx : Nat) : State :=
  { s with dies := s.dies.map fun p => (p.1, { p.2 with leases := p.2.leases.filter fun e => e.ctx != ctx }) }

/-- Wake a thread that asked for the save of a group with an outcome (R337): it goes on after the instruction. -/
def wakeAsker (s : State) (a : Asker) (code : Nat) : State :=
  if isParked s a.core a.slot a.lane .ctxsv then
    modWarp s a.core a.slot fun w =>
      ((w.setPcs [a.lane] ((w.thread a.lane).pc + BitVec.ofNat 72 a.len)).setReg a.reg a.lane (BitVec.ofNat 32 code)).wake [a.lane]
  else s

/-- An outcome that waits for a copy to leave its register (04_registers R86), as an operation of the asker's warp. -/
def heldAnswer (s : State) (a : Asker) (code : Nat) : MemOp :=
  let w := s.warpAt a.core a.slot
  { kind := .svdone, core := a.core, slot := a.slot, gen := w.gen, ctx := w.ctx, wix := w.wix, user := false, tenant := 0, pc := 0, f := {}
    lanes := [{ lane := a.lane, va := 0, ia := 0, size := 4, args := [a.reg, a.len], got := code }], visit := 1, since := s.cycle, tick := s.now }

/-- Answer the threads that asked for the save of a group. -/
def answerAskers (s : State) (g : Group) (code : Nat) : State :=
  g.askers.foldl (fun s a =>
    if copyHolds s (s.warpAt a.core a.slot) [a.reg] then
      let id := s.nextId
      (({ s with nextId := id + 1 } : State).setOp id (heldAnswer s a code)).post (s.cycle + 1) (.loadResponse id 0)
    else wakeAsker s a code) s

/-! ### Saving -/

/-- Keep what the area has no field for. See log entry 28 (DEDUCED). -/
def keepGhost (s : State) (ctx : Nat) (g : Group) (w : Warp) : State :=
  let x : Ghost := Sparse.get {} s.ghosts ctx
  { s with ghosts := Sparse.put s.ghosts ctx { x with area := g.saveArea, frames := g.frames, warps := Sparse.put x.warps w.wix w } }

/-- Stores already sent report to the save area from now on, those that reported to an earlier area among them (R232). -/
def redirectStores (s : State) (c : Nat) (w : Warp) (area : Nat) : State :=
  let mine (o : MemOp) : Bool := o.core == c && o.gen == w.gen && ((o.kind.isStore && o.stage != 0) || o.kind == .copy)
  let before (o : MemOp) : Bool := o.ctx == w.ctx && o.wix == w.wix && (o.kind.isStore || o.kind == .copy) && w.savedAt == some o.left
  { s with ops := s.ops.map fun p =>
      if p.2.counted && (mine p.2 || before p.2) then (p.1, { p.2 with left := area }) else p }

/-- A save has replaced words in error by 0 (16_events R342): registers of the blocks it saves, uniform registers, cells. -/
def losesData (s : State) (g : Group) (w : Warp) (live : Nat) (names : List Nat) : Bool :=
  !w.sregErrs.isEmpty || (w.regErrs.any fun n => live / 2 ^ (n / 256) % 2 = 1) ||
  names.any fun n => match Sparse.get? g.slots n with
    | some p => !(Sparse.get {} (s.core g.core).accs p : Acc).errs.isEmpty
    | none => false

/-- Slots that a warp of a group owns, by name. -/
def ownedNames (s : State) (g : Group) (slot : Nat) : List Nat :=
  (g.slots.filter fun q => (Sparse.get {} (s.core g.core).accs q.2 : Acc).owner = some slot).map (·.1)

/-- Save one warp, whose waits are over (R232, R312, R338), with the slots that it owns: its area is written, and its slot and registers
are freed. The group's teams and barriers go on counting its threads (R48, R55). -/
def saveWarp (s : State) (c slot : Nat) (live : Nat) (grow : Bool) : State :=
  let w := s.warpAt c slot
  match s.group? w.ctx with
  | none => removeWarp s c slot
  | some g =>
    let names := ownedNames s g slot
    let g' := { g with
      away := Sparse.put g.away w.wix w.threads, slotsSaved := g.slotsSaved ++ names
      lost := g.lost || losesData s g w live names }
    let s := writeSlots (cancelAll s c w.gen) g names
    let s := writeWarp s w g.saveArea live grow
    let s := redirectStores (keepGhost s w.ctx g w) c w (warpAreaAt g.saveArea w.wix)
    let mine := (g.slots.filter fun q => names.contains q.1).map (·.2)
    let x := s.core c
    let free (p : Nat × Acc) : Nat × Acc := if mine.contains p.1 then (p.1, { p.2 with owner := none }) else p
    removeWarp ((s.setCore c { x with accs := x.accs.map free }).setGroup w.ctx g') c slot

/-- The warps a save area holds, as a mask with one more. -/
def withWarp (m : Mask) (k : Nat) : Mask := m ||| laneBit k

/-- A warp of a group that is to be saved, in a slot: none when it must go on first, otherwise the blocks to save and whether
it is blocked in `REGGROW` (R337). -/
def saveMask (w : Warp) : Option (Nat × Bool) :=
  match w.saving with
  | some m => some (m.toNat, false)
  | none => if w.grow.isSome || w.debugStop || w.front?.isNone then some (2 ^ 64 - 1, w.grow.isSome) else none

/-- The last warp of a group has left its core saved or evicted, and none is resident: the rest is saved, RESIDENT is cleared, the group's
resources are freed and its askers wake (R49, R337, R338). -/
def finishSave (s : State) (ctx : Nat) : State :=
  match s.group? ctx with
  | none => s
  | some g =>
    let names := (g.slots.map (·.1)).filter fun n => !(g.slotsSaved.contains n)
    let parts := saveParts g {} names
    if !(groupWarps s g.core ctx).isEmpty ∨ (g.saved = 0 ∧ g.evicted = 0) then s
    else if !partsOpen s parts then askParts s parts
    else
      let lost := g.lost || losesData s g {} 0 names
      let s := writeHeader (writeSlots s g names) ctx g (g.saved ||| g.evicted) false false
      let s := answerAskers (freeSlots s g) g (if lost then 2 else 0)
      { s with groups := Sparse.erase s.groups ctx }

/-- Save what can be saved of a group now. -/
def saveGroup (s : State) (ctx : Nat) : State :=
  match s.group? ctx with
  | none => s
  | some g =>
    let c := g.core
    (groupWarps s c ctx).foldl (fun s p =>
      let w := s.warpAt c p.1
      match saveMask w, s.group? ctx with
      | some (m, grow), some g =>
        let parts := saveParts g w (ownedNames s g p.1)
        if w.liveLanes.isEmpty || !drained s c p.1 then s
        else if !partsOpen s parts then askParts s parts
        else saveWarp (s.setGroup ctx { g with saved := withWarp g.saved w.wix }) c p.1 m grow
      | _, _ => s) s

/-- Every resident warp has a region entry when the save is asked for: the group is discarded (R185, R337). -/
def allIdempotent (s : State) (ctx : Nat) : Bool :=
  match s.group? ctx with
  | some g => (groupWarps s g.core ctx).all fun p => p.2.region.isSome
  | none => false

/-- A discarded warp as it restarts (R185): the predicates of every thread are 0. -/
def restarted (g : Group) (w : Warp) : Warp :=
  let pc := w.region.getD 0
  let ts := w.threads.map fun p => (p.1, if p.2.life = .live then
    ({ life := .live, pc, rank := BitVec.ofNat 10 (w.wix * 32 + p.1) } : Thread) else { p.2 with preds := 0 })
  let lanes := maskOf (w.liveLanes)
  { ctx := w.ctx, wix := w.wix, prio := w.prio, blocks := (g.sett.regs + 7) / 8, threads := ts,
    fronts := if lanes = 0 then [] else [{ lanes }], priv := w.priv, chk := w.chk, tenant := w.tenant, ranges := w.ranges,
    region := w.region, unack := w.unack, savedAt := w.savedAt, deferred := w.deferred, savedDef := w.savedDef }

/-- Discard a group as idempotent (R185): once the waits of each warp are over and its stores have left the core, the header and the region
entries are kept. An evicted warp that has a region entry restarts there too; one that has none resumes as it was saved. See log entry 28
(DEDUCED). -/
def discardGroup (s : State) (ctx : Nat) : State :=
  match s.group? ctx with
  | none => s
  | some g =>
    let c := g.core
    let ws := groupWarps s c ctx
    let g' := { g with frames := [], slots := [], slotsSaved := [] }
    let parts := (ws.map fun p => saveParts g p.2 []).flatten
    let idle (p : Nat × Warp) : Bool := drained s c p.1 && p.2.storeBuf.isEmpty
    if !(ws.all idle) then s
    else if !partsOpen s parts then askParts s parts
    else
      let s := ws.foldl (fun s p =>
        if p.2.liveLanes.isEmpty then removeWarp s c p.1
        else
          let w := restarted g p.2
          let s := writeWarp (cancelAll s c p.2.gen) w g.saveArea 0 false
          removeWarp (redirectStores (keepGhost s ctx g' w) c p.2 (warpAreaAt g.saveArea w.wix)) c p.1) s
      let ghost : Ghost := Sparse.get {} s.ghosts ctx
      let s := ((List.range 32).filter fun k => g.evicted.getLsbD k).foldl (fun s k =>
        match Sparse.get? ghost.warps k with
        | some w => if w.region.isSome then
            let w := { restarted g w with
              unack := {}, savedDef := false, savedAt := some (warpAreaAt ghost.area k), storeBuf := w.storeBuf }
            keepGhost (redirectStores (writeWarp s w g.saveArea 0 false) c w (warpAreaAt g.saveArea k)) ctx g' w
          else s
        | none => s) s
      let mask := (ws.filter fun p => !p.2.liveLanes.isEmpty).foldl (fun m p => withWarp m p.2.wix) g.evicted
      let s := writeHeader s ctx g' mask true false
      { (answerAskers (freeSlots s g) g 3) with groups := Sparse.erase s.groups ctx }

/-! ### Loading (R338) -/

/-- Free warp slots of a quarter. -/
def freeIn (used : List Nat) (q : Nat) : List Nat := ((List.range 16).map (16 * q + ·)).filter fun i => !used.contains i

/-- The slots that `n` warps take in order (R39): `prev` is the quarter of the warp before them. -/
def takeSlots : Nat → List Nat → Option Nat → List Nat
  | 0, _, _ => []
  | n + 1, used, prev =>
    let q := match prev with
      | none => (List.range 4).foldl (fun b q => if (freeIn used b).length < (freeIn used q).length then q else b) 0
      | some p => (((List.range 4).map fun i => (p + 1 + i) % 4).find? fun q => !(freeIn used q).isEmpty).getD 0
    match freeIn used q with
    | [] => []
    | k :: _ => k :: takeSlots n (k :: used) (some q)

/-- Read a thread record (R313). A helper is an exited thread, or an absent one by its `$tid`. See log entry 12 (DESIGN CHOICE). -/
def readThread (g : Group) (wix l x : Nat) : Thread × Option Park :=
  let st := x / 2 ^ 80 % 256
  let absent := g.sett.threads ≤ wix * 32 + l
  let life : Life := match st % 8 with
    | 1 | 2 => .live
    | 3 => .exited
    | 4 => if absent then .absent else .exited
    | _ => .absent
  let flags := x / 2 ^ 312 % 256
  ({ life, pc := BitVec.ofNat 72 x, preds := BitVec.ofNat 7 (x / 2 ^ 72), entry := entryOfBits (x / 2 ^ 88 % 64),
     team := BitVec.ofNat 8 (x / 2 ^ 96), rank := BitVec.ofNat 10 (x / 2 ^ 104), deadline := BitVec.ofNat 64 (x / 2 ^ 120),
     retval := BitVec.ofNat 64 (x / 2 ^ 184), rpair := BitVec.ofNat 9 (x / 2 ^ 320),
     inCall := flags / 2 % 2 = 1, phase := flags / 4 % 2 = 1 },
   if st % 8 = 2 then Park.ofCode (st / 8) else none)

/-- Fronts of a loaded warp (R34): one for each distinct PC, entry and team, and one for each reason to wait.
See log entry 12 (DESIGN CHOICE). -/
def loadFronts (w : Warp) (waits : List (Nat × Option Park)) : Warp :=
  let readyLs := (waits.filter fun p => p.2.isNone).map (·.1)
  let kinds := ((waits.filterMap (·.2)).eraseDups)
  let parked := (kinds.map fun k =>
    (w.groupLanes ((waits.filter fun p => p.2 == some k).map (·.1)) []).map fun m => ({ lanes := m, wait := some k } : Front)).flatten
  let fronts := sortOn (fun f : Front => Warp.lowest f.lanes) (((w.groupLanes readyLs []).map fun m => ({ lanes := m } : Front)) ++ parked)
  { w with fronts, cur := none }.settle

/-- What a resumed thread does that was parked when its warp was saved: condition waits, `CTXSV.REQ` and a system call whose result
is there go on; a system call without its result waits on the flag in the area (R250, R284). See log entry 12 (DESIGN CHOICE). -/
def resumeWait (done : Bool) : Option Park → Option Park
  | some .waitc | some .wbwait | some .ctxsv => none
  | some .syscall | some .saved => if done then none else some .saved
  | x => x

/-- Read a warp area (R232, R312, R338): the warp, and its saved stores, each entry as the area tells it. See log entry 28 (DEDUCED). -/
def readWarp (s : State) (g : Group) (ctx area k : Nat) : Warp × List (Nat × MemOp) :=
  let a := warpAreaAt area k
  let get (o n : Nat) : Nat := homeNat s (a + o) n
  let ghost : Option Warp := (Sparse.get? s.ghosts ctx).bind fun x => Sparse.get? x.warps k
  let live := get 0x98 8
  let blocks := get 0x90 8 % 128
  let status := get 0 8
  let ths := lanes32.map fun l => (l, homeNat s (a + 0x400 + 64 * l) 64)
  let recs := ths.map fun p => (p.1, readThread g k p.1 p.2, p.2 / 2 ^ 312 % 2 == 1, p.2 / 2 ^ 248 % 2 ^ 64)
  let regs := ((List.range blocks).filter fun b => live / 2 ^ b % 2 = 1).foldl (fun m b =>
    lanes32.foldl (fun m l => (List.range 8).foldl (fun m i =>
      Sparse.set 0 m ((8 * b + i) * 32 + l) (BitVec.ofNat 32 (homeNat s (a + 0x2000 + 1024 * b + 32 * l + 4 * i) 4))) m) m) ([] : Sparse Word)
  let tagBits := get 0x300 48
  let rangeAt (n : Nat) : RangeReg :=
    ⟨BitVec.ofNat 64 (get (0x100 + 24 * n) 8), BitVec.ofNat 64 (get (0x108 + 24 * n) 8), BitVec.ofNat 64 (get (0x110 + 24 * n) 8)⟩
  let tags := ((List.range blocks).filter fun b => live / 2 ^ b % 2 = 1 ∧ tagBits / 64 ^ b % 64 ≠ 0).map fun b => (b, tagBits / 64 ^ b % 64)
  let w : Warp :=
    { gen := s.nextId, ctx, wix := k, prio := g.sett.ctl % 4, stamp := s.cycle, regs, blocks, tags
      sregs := (List.range 64).foldl (fun m n => Sparse.set 0 m n (BitVec.ofNat 32 (get (0x200 + 4 * n) 4))) []
      threads := recs.filterMap fun r => if r.2.1.1.life = .absent ∧ r.2.1.1.preds = 0 then none else some (r.1, r.2.1.1)
      entries := (List.range 32).filterMap fun i => (entryOfNat (get (0xC00 + 32 * i) 32)).map fun e => (i, e)
      priv := status % 2 = 1, chk := status / 2 % 2 = 1
      trap := { cause := BitVec.ofNat 8 (get 8 8), pc := BitVec.ofNat 72 (get 16 16), addr := BitVec.ofNat 72 (get 32 16),
                info := BitVec.ofNat 64 (get 48 8) }
      tenant := BitVec.ofNat 16 (get 56 8)
      ranges := (List.range 8).map fun n => (n, rangeAt n)
      nextIssue := s.cycle + 1, lastAcq := s.now, savedAt := some a
      deferred := if 2 ^ 63 ≤ get 0x60 8 then some { cause := get 0x60 8 % 256, addr := get 0x68 16, pc := get 0x78 16 } else none
      savedDef := decide (2 ^ 63 ≤ get 0x60 8)
      region := if get 0xA0 16 / 2 ^ 127 = 1 then some (BitVec.ofNat 72 (get 0xA0 16)) else none
      solos := match ghost with | some x => x.solos | none => []
      inHandler := match ghost with | some x => x.inHandler | none => false
      debugStop := match ghost with | some x => x.debugStop | none => false }
  let w := match ghost with
    | some x => { w with threads := w.threads.map fun p =>
        let t := x.thread p.1
        (p.1, { p.2 with solo := t.solo, waitPc := t.waitPc, callAt := t.callAt }) }
    | none => w
  let w := recs.foldl (fun w r =>
    if r.2.2.1 ∧ (r.2.1.2 = some .syscall ∨ r.2.1.2 = some .saved) then
      let n := r.2.1.1.rpair.toNat
      (((w.setReg n r.1 (BitVec.ofNat 32 r.2.2.2)).setReg (n + 1) r.1 (BitVec.ofNat 32 (r.2.2.2 / 2 ^ 32))).setThread r.1
        { w.thread r.1 with inCall := false })
    else w) w
  let waits := (recs.filter fun r => r.2.1.1.life = .live).map fun r => (r.1, resumeWait r.2.2.1 r.2.1.2)
  let buf := match ghost with | some x => x.storeBuf | none => []
  let told := min 64 (get 0xB0 8)
  let kept := buf.take told ++ (if told = 64 then buf.drop 64 else [])
  let stores := ((List.range kept.length).zip kept).filterMap fun p =>
    (s.op? p.2).map fun o => (p.2, if p.1 < told then savedStore (get (0x1000 + 64 * p.1) 64) o else o)
  (loadFronts w waits, stores)

/-- Put a loaded warp into a slot: its saved stores are reissued in order (R232), and a thread whose system call has no result yet
waits on the flag of its record (R284). -/
def placeLoaded (s : State) (c slot : Nat) (w : Warp) (buf : List (Nat × MemOp)) : State :=
  let s := ({ s with nextId := s.nextId + 1 } : State).setWarpAt c slot w
  let s := buf.foldl (fun s p =>
    pushStore (s.dropOp p.1) { p.2 with gen := w.gen, core := c, slot, tick := s.now, left := 0, stage := 0 }) s
  (lanesOf (w.parkedFor .saved)).foldl (fun s l =>
    let ia := w.savedAt.getD 0 + 0x400 + 64 * l + 39
    let o : MemOp := { kind := .saved, core := c, slot, gen := w.gen, ctx := w.ctx, wix := w.wix, user := false, tenant := 0, pc := 0,
                       f := {}, lanes := [{ lane := l, va := 0, ia, size := 1, args := [0] }], parts := [{ ia, lanes := [l] }], left := 1,
                       since := s.cycle, tick := s.now }
    let (id, s) := newOp s o
    sendVisits s id o) s

/-- A resumed system call has its result (R284, 15 R327): it is written to the result pair, once no copy holds it (04_registers R86), and the thread goes on. -/
def savedWake (s : State) (c slot lane : Nat) : State :=
  let w := s.warpAt c slot
  let n := (w.thread lane).rpair.toNat
  if !hasLane (w.parkedFor .saved) lane then s
  else if copyHolds s w [n, n + 1] then s.post (s.cycle + 1) (.savedSyscallWake c slot lane)
  else
    let a := w.savedAt.getD 0 + 0x400 + 64 * lane
    let x := homeNat s (a + 31) 8
    let s := sample s c 4 (s.cycle - (w.thread lane).callAt)
    let w := (w.setReg n lane (BitVec.ofNat 32 x)).setReg (n + 1) lane (BitVec.ofNat 32 (x / 2 ^ 32))
    s.setWarpAt c slot { ((w.setThread lane { w.thread lane with inCall := false }).wake [lane]) with lastAcq := s.now, fetched := none, fetching := none }

end Sys2Proof.Machine
end

