-- ==== Sys2Proof/Machine/Tasks.lean ====
section
/-! DEFINITION. Setts, the queue banks and the dispatcher: pushing, leases, placement and launch, the end of a group, spill, donation
and the gang barrier (02_execution_model R31, R39; 13_queues R285, R286, R290 to R295; 15_counters R320). -/

namespace Sys2Proof.Machine

/-! ### Setts and cards -/

/-- A field of a little-endian structure: `n` bytes at offset `b`. -/
def fieldAt (x b n : Nat) : Nat := x / 2 ^ (8 * b) % 2 ^ (8 * n)

/-- The fields of a sett or job card (R285). -/
def settOf (x : Nat) : Sett :=
  { rlist := fieldAt x 56 8, doneVa := fieldAt x 40 9, depcnt := fieldAt x 36 4, tenant := fieldAt x 34 2, recs := fieldAt x 24 9,
    arg := fieldAt x 20 4, lmask := fieldAt x 19 1, gang := fieldAt x 16 1, accs := fieldAt x 15 1, regs := fieldAt x 13 2,
    warps := fieldAt x 12 1, threads := fieldAt x 10 2, ctl := fieldAt x 9 1, entry := fieldAt x 0 9 }

def Sett.prio (f : Sett) : Nat := f.ctl % 4
def Sett.super (f : Sett) : Bool := f.ctl / 4 % 2 == 1
def Sett.cls (f : Sett) : Nat := f.ctl / 8 % 4
/-- Warps that have a thread which is not absent (R31). -/
def Sett.present (f : Sett) : Nat := (f.threads + 31) / 32
/-- Register blocks of one warp (R46). -/
def Sett.blocks (f : Sett) : Nat := (f.regs + 7) / 8

/-- The byte offset of the first field outside its limits (R285, R286 check 1). -/
def settLimit (x : Nat) (card sl : Bool) : Option Nat :=
  let f := settOf x
  let checks : List (Nat × Bool) := [
    (0, f.entry % 4 == 0), (9, decide (f.ctl < 16)), (10, decide (1 ≤ f.threads) && decide (f.threads ≤ 32 * f.warps)),
    (12, decide (1 ≤ f.warps) && decide (f.warps ≤ 32)), (13, decide (1 ≤ f.regs) && decide (f.regs ≤ 512)),
    (15, decide (f.accs ≤ 16)), (16, decide (1 ≤ f.gang) && decide (f.gang ≤ if card then 1 else 64)),
    (17, fieldAt x 17 2 == 0), (20, !card || decide (1 ≤ f.arg)),
    (24, if card then f.recs % 4 == 0 else fieldAt x 24 8 == 0), (32, card || fieldAt x 32 1 == 0), (33, fieldAt x 33 1 == 0),
    (40, f.doneVa % 8 == 0), (49, fieldAt x 49 7 == 0), (56, !(sl && f.rlist == 0))]
  (checks.find? fun c => !c.2).map (·.1)

/-- A package byte that R190 or R3 forbids in a MAP. -/
def pkgForbidden (s : State) (p : Nat) : Bool :=
  (decide (0xC0 ≤ p) && decide (p ≤ 0xFD)) || (!Config.dusel s.part && p != 0xFF && p != 0xFE && p != s.pkg)

/-- A range register value with a reserved bit set, or a package that is forbidden (R300): `k` is 0 for a base, 1 for a limit, 2 for
a map. -/
def rangeBad (s : State) (k : Nat) (v : Dword) : Bool :=
  let x := v.toNat
  if k = 0 then x / 2 ^ 51 % 256 != 0
  else if k = 1 then x / 2 ^ 51 != 0
  else x / 2 ^ 19 % 2 ^ 37 != 0 || pkgForbidden s (x / 2 ^ 56)

/-- A range list's 24 values (R285). -/
def listValues (bs : List Byte) : List Dword := (List.range 24).map fun i => BitVec.ofNat 64 (leBytes ((bs.drop (8 * i)).take 8))
def listRanges (vs : List Dword) : List RangeReg :=
  (List.range 8).map fun n => ⟨vs.getD (3 * n) 0, vs.getD (3 * n + 1) 0, vs.getD (3 * n + 2) 0⟩
/-- The first value of a list that R300 refuses. See log entry 26 (DEDUCED). -/
def listBad (s : State) (vs : List Dword) : Option Nat :=
  (List.range 24).find? fun i => rangeBad s (i % 3) (vs.getD i 0)

/-- An address in each page that `n` bytes touch. -/
def spanPages (ia n : Nat) : List Nat :=
  (List.range ((ia % 65536 + n + 65535) / 65536)).map fun i => if i = 0 then ia else ia / 65536 * 65536 + 65536 * i

/-- The checks of R193 for bytes that the hardware itself reads at their home for `w`, 0x08 on an absent die (01_package R20): the cause and
the failing address.
See log entry 8 (DESIGN CHOICE). -/
def hwCheck (s : State) (ia n : Nat) (w : Who) (write : Bool) : Option (Nat × Nat) :=
  (spanPages ia n).findSome? fun a =>
    if place s a ≠ .here then some (0x0A, a)
    else if Config.dieCount s.part ≤ iaDie a then some (0x08, a)
    else match pteCheck (attrs s a).1 w write with
      | some c => some (c, a)
      | none => none

/-- The walks of such a read: the pages that are present are accessed (R193). See log entry 8 (DESIGN CHOICE). -/
def hwSeen (s : State) (ia n : Nat) : State := (spanPages ia n).foldl hwTouch s

/-- Such a walk is still to set A of a page, which must wait for the leases and copies of its entry (R302). See log entry 9 (DESIGN CHOICE). -/
def seenWaits (s : State) (a : Nat) : Bool :=
  place s a == .here && decide (iaDie a < Config.dieCount s.part) && (sline? s a).isNone && markWaits s a s.nextId false
def hwReadWaits (s : State) (ia n : Nat) : Bool := (spanPages ia n).any (seenWaits s)
/-- What such a read waits for is asked to go (R200, R302). -/
def hwReadAsk (s : State) (ia n : Nat) : State := ((spanPages ia n).filter (seenWaits s)).foldl (fun s a => askMark s a s.nextId false) s

/-- The sector of an address is in error at its home (16_events R341): the structure, a slice or HBM4. -/
def sectorErr (s : State) (a : Nat) : Option Nat :=
  let e := pteAt s (iaDie a) (iaPage a)
  let inHbm : Option Nat := if e.present && s.hbmErrs.contains (hbmAddr (iaDie a) e a / 32) then some 6 else none
  match sline? s a with
  | some l => if l.valid &&& sectorBit a = 0 then inHbm else if l.errs / 2 ^ (a % 512 / 32) % 2 = 1 then some 3 else none
  | none => inHbm

/-- The first sector in error among `n` bytes (16_events R341): the address. Only sectors that some structure reports are looked at. -/
def hwErr (s : State) (ia n : Nat) : Option Nat :=
  let base := ia - iaLocal ia
  let slices := (s.slices.map fun p => (p.2.lines.filter fun q => q.2.errs != 0).map fun q =>
    (sectorsOf q.2.errs).map fun i => base + 512 * q.1 + 32 * i).flatten.flatten
  let inHbm := ((spanPages ia n).map fun a =>
    let f := hbmAddr (iaDie a) (pteAt s (iaDie a) (iaPage a)) (a / 65536 * 65536)
    (s.hbmErrs.filter fun e => decide (f ≤ 32 * e) && decide (32 * e < f + 65536)).map fun e => a / 65536 * 65536 + (32 * e - f)).flatten
  (slices ++ inHbm).find? fun a => decide (ia < a + 32) && decide (a < ia + n) && (sectorErr s a).isSome

/-- The bytes, or what the check finds: a failed page, or a sector in error (16_events R341). See log entry 8 (DESIGN CHOICE). -/
def hwRead (s : State) (ia n : Nat) (w : Who) : Except (Nat × Nat) (List Byte) :=
  match hwCheck s ia n w false with
  | some e => .error e
  | none => match hwErr s ia n with
    | some a => .error (0x12, a)
    | none => .ok (homeBytes s ia n)

/-- What TRAPINFO says of such a failure beside its other fields: the structure and the sector (16_events R341), or RFMT (05_number_formats
R92). -/
def hwInfo (s : State) (cause a : Nat) : Nat :=
  if cause = 0x12 then (sectorErr s a).getD 3 + 65536 * (a % 512 / 32) else if rfmtAt s a cause then 2 ^ 63 else 0

/-- What a check of a push finds: the cause, and the byte offset of the field with what TRAPINFO says beside it. -/
abbrev SettErr := Nat × Nat

/-- Check a sett or card against the pushing warp (R286): the ranges of the group and the intermediate address of DONE.
See log entry 26 (DEDUCED). -/
def settCheck (s : State) (w : Warp) (x : Nat) (card : Bool) : Except SettErr (List RangeReg × Nat) :=
  let f := settOf x
  let user := !w.priv && !w.single
  let own := if w.single then 0 else w.tenant.toNat
  match settLimit x card w.single with
  | some o => .error (0x02, o)
  | none =>
    if user ∧ f.super then .error (0x03, 9)
    else if user ∧ f.rlist ≠ 0 then .error (0x03, 56)
    else if user ∧ f.tenant ≠ own then .error (0x19, 34)
    else
      let ranges : Except SettErr (List RangeReg) :=
        if f.rlist = 0 then .ok w.rangeList
        else match hwRead s f.rlist 192 ⟨false, 0⟩ with
          | .error (c, a) => .error (c, hwInfo s c a + (if c = 0x12 then 0 else 56))
          | .ok bs => let vs := listValues bs
                      if (listBad s vs).isSome then .error (0x02, 56) else .ok (listRanges vs)
      match ranges with
      | .error e => .error e
      | .ok rs =>
        if f.doneVa = 0 then .ok (rs, 0)
        else match translate rs (!f.super) .write f.doneVa with
          | .error c => .error (c, 40)
          | .ok ia => if place s ia = .here ∧ Config.dieCount s.part ≤ iaDie ia then .error (0x08, 40) else .ok (rs, ia)

/-! ### The bank (R291) -/

/-- Bank order: priority, then age stamp, then cluster number. -/
def Entry.before (a b : Entry) : Bool :=
  decide (b.sett.prio < a.sett.prio) || (a.sett.prio == b.sett.prio && (decide (a.stamp < b.stamp) ||
    (a.stamp == b.stamp && decide (a.cluster ≤ b.cluster))))

/-- Entries that the bank's 512 places hold: those in order, those set aside, and the gang that is being placed, which may have to return
(01_package R18, R276, R294). See log entry 27 (DEDUCED). -/
def Cluster.used (x : Cluster) : Nat := x.bank.length + x.aside.length + (if x.placing.isSome then 1 else 0)

/-- Put an entry at its place, after those it equals. -/
def bankInsert (e : Entry) : List Entry → List Entry
  | [] => [e]
  | x :: r => if x.before e then x :: bankInsert e r else e :: x :: r

/-- Put an entry at the head of its priority. -/
def bankHead (e : Entry) : List Entry → List Entry
  | [] => [e]
  | x :: r => if e.sett.prio < x.sett.prio then x :: bankHead e r else e :: x :: r

/-- Push an entry. -/
def pushEntry (s : State) (g : Nat) (e : Entry) : State :=
  let x := s.cluster g
  s.setCluster g { x with bank := bankInsert e x.bank }

/-- The newest and the oldest entry of a list by stamp. -/
def newest : List Entry → Option Entry
  | [] => none
  | e :: r => match newest r with
    | some m => if m.stamp < e.stamp ∨ (m.stamp = e.stamp ∧ m.cluster < e.cluster) then some e else some m
    | none => some e
def oldest : List Entry → Option Entry
  | [] => none
  | e :: r => match oldest r with
    | some m => if m.stamp < e.stamp ∨ (m.stamp = e.stamp ∧ m.cluster < e.cluster) then some m else some e
    | none => some e

/-- Take the lease-table entries of a prepared lease out (R292). See log entry 26 (DEDUCED). -/
def leaseName (n i : Nat) : Nat := 2 ^ 64 + 64 * n + i
def dropLease (s : State) (e : Entry) : State :=
  match e.lease with
  | some n => (List.range 64).foldl (fun s i => dropLeases s (leaseName n i)) s
  | none => s

/-- How many entries the spill engine moves to the tip ring (R291): until the bank's places in use are 448, as far as the ring has room. See
log entry 27 (DEDUCED). -/
def Cluster.spills (x : Cluster) : Nat :=
  min (x.used - 448) (min x.bank.length (match x.desc with | some d => 2 ^ d.tipLog - x.tips.length | none => 0))

/-- The places of the tip ring that the next `n` spilled entries take (R278): the ring is first in, first out. -/
def Cluster.tipSpan (x : Cluster) (n : Nat) : List Nat :=
  match x.desc with
  | some d => (List.range n).map fun i => d.tipIa + 256 * ((x.tipAt + i) % 2 ^ d.tipLog)
  | none => []

/-- The 256 bytes of each spilled entry are written at their home (R276, R291): in the device's own layout, so that their values are free. See
log entry 13 (DESIGN CHOICE). -/
def tipBytes (s : State) (g n : Nat) : State :=
  let s := ((s.cluster g).tipSpan n).foldl (fun s ia =>
    let t : State := { s with free := s.free + 1 }
    match hwWrite t ia ⟨false, 0⟩ ((List.range 256).map (Config.outsideByte s.free)) with
    | .ok u => u
    | .error _ => t) s
  let x := s.cluster g
  s.setCluster g { x with tipAt := x.tipAt + n }

/-- SPILL (R291): the newest entries go to the tip ring. See log entry 13 (DESIGN CHOICE). -/
def spillBank (s : State) (g : Nat) : State := let n := (s.cluster g).spills; go (tipBytes s g n) n
where
  go (s : State) : Nat → State
    | 0 => s
    | n + 1 =>
      match newest (s.cluster g).bank with
      | none => s
      | some e =>
        let s := dropLease s e
        let x := s.cluster g
        go (s.setCluster g { x with bank := x.bank.erase e, tips := x.tips ++ [{ e with lease := none }] }) n

def execSpill (g : Nat) (s : State) : Host.Outcome State Fault Refusal := .next (spillBank s g)

/-- How many entries come back from the ring (R291): until 128 stand in the bank, and not so many that its places in use pass 448. See log entry
27 (DEDUCED). -/
def Cluster.refills (x : Cluster) : Nat := min (128 - x.bank.length) (448 - x.used)

/-- REFILL (R291): the oldest entries of the ring come back. See log entry 13 (DESIGN CHOICE). -/
def refillBank (s : State) (g : Nat) : State := go s (s.cluster g).refills
where
  go (s : State) : Nat → State
    | 0 => s
    | n + 1 =>
      let x := s.cluster g
      match x.tips with
      | [] => s
      | e :: r => go (pushEntry (s.setCluster g { x with tips := r }) g e) n

def execRefill (g : Nat) (s : State) : Host.Outcome State Fault Refusal := .next (refillBank s g)

/-- The spill engine has work, or the refill has (R291). -/
def wantsSpill (x : Cluster) : Bool := x.running && decide (0 < x.spills)
def wantsRefill (x : Cluster) : Bool := x.running && decide (0 < x.refills) && !x.tips.isEmpty
/-- A spill can write its bytes now: no lease, copy or lock keeps it waiting (09_memory_spaces R199, R302). -/
def tipsOpen (s : State) (x : Cluster) : Bool := (x.tipSpan x.spills).all fun ia => !hwBlocked s ia 256
def tipsAsk (s : State) (x : Cluster) : State := (x.tipSpan x.spills).foldl (fun s ia => hwAsk s ia 256) s

/-! ### Room (R31, R293) -/

/-- Cores that clusters have reserved for the gang that they place, with what each group needs. -/
def reservations (s : State) (c : Nat) : List Sett :=
  (s.clusters.map fun p => match p.2.placing with
    | some e => (p.2.reserved.filter (· == c)).map fun _ => e.sett
    | none => []).flatten

/-- Free warp slots, register blocks and accumulator slots of a core, without what is reserved. -/
def freeSlotsOn (s : State) (c : Nat) : Nat :=
  64 - ((s.core c).warps.filter fun p => p.1 != 64).length - ((reservations s c).map Sett.present).foldl (· + ·) 0
def freeBlocksOn (s : State) (c : Nat) : Nat :=
  2048 - (((s.core c).warps.filter fun p => p.1 != 64).map fun p => p.2.blocks).foldl (· + ·) 0 -
    ((reservations s c).map fun f => f.present * f.blocks).foldl (· + ·) 0
/-- Physical accumulator slots that no group has. -/
def freeAccs (k : Core) : List Nat := (List.range 16).filter fun p => (Sparse.get {} k.accs p : Acc).group.isNone
def freeAccsOn (s : State) (c : Nat) : Nat := (freeAccs (s.core c)).length - ((reservations s c).map (·.accs)).foldl (· + ·) 0

/-- Queues of the core are in use (R277). -/
def coreOn (s : State) (c : Nat) : Bool := (s.core c).svqbase.getLsbD 0

/-- The core's die sleeps (17_platform R359). -/
def asleep (s : State) (c : Nat) : Bool := (s.die (c / 48)).asleep

/-- A core has room for a group (R31); none on a die that sleeps (17_platform R359). -/
def roomFor (s : State) (c : Nat) (f : Sett) : Bool :=
  coreOn s c && !asleep s c && decide (f.present ≤ freeSlotsOn s c) && decide (f.present * f.blocks ≤ freeBlocksOn s c) &&
  decide (f.accs ≤ freeAccsOn s c)

/-- The core of a cluster with room that has the most free warp slots, the lower on a tie. See log entry 27 (DEDUCED). -/
def coreIn (s : State) (f : Sett) (g : Nat) : Option Nat :=
  ((List.range 4).map (4 * g + ·)).foldl (fun b c =>
    if !roomFor s c f then b
    else match b with
      | none => some c
      | some m => if freeSlotsOn s m < freeSlotsOn s c then some c else some m) none

/-- The clusters that a dispatcher searches, in order (R293). See log entry 27 (DEDUCED). -/
def searchOrder (s : State) (g cls : Nat) : List Nat :=
  let d := g / 12
  let die := (List.range 12).map fun i => 12 * d + (g % 12 + i) % 12
  let dies := (List.range (Config.dieCount s.part - 1)).map fun i => (d + 1 + i) % Config.dieCount s.part
  die ++ if cls = 1 then (dies.map fun e => (List.range 12).map (12 * e + ·)).flatten else []

/-- Reserve cores for `n` groups (R293): none when one of them is refused. See log entry 27 (DEDUCED). -/
def reserve (s : State) (g : Nat) (f : Sett) : Nat → Option State
  | 0 => some s
  | n + 1 =>
    match (searchOrder s g f.cls).findSome? (coreIn s f) with
    | none => none
    | some c =>
      let x := s.cluster g
      reserve (s.setCluster g { x with reserved := x.reserved ++ [c] }) g f n

/-! ### Leases (R292, R305) -/

/-- The pages of one range that lie in this package, as intervals: die, which may be absent, first, last. See log entry 26 (DEDUCED). -/
def rangePages (s : State) (r : RangeReg) : List (Nat × Nat × Nat) :=
  if !r.v || decide (r.hi < r.lo) || place s (r.pkg * 2 ^ 56) != .here then []
  else
    let a := r.loc * 32
    let b := min (2 ^ 24 - 1) ((r.loc + (r.hi - r.lo)) * 32 + 31)
    (List.range 4).filterMap fun d =>
      let lo := max a (d * 2 ^ 22)
      let hi := min b (d * 2 ^ 22 + 2 ^ 22 - 1)
      if lo ≤ hi then some (d, lo % 2 ^ 22, hi % 2 ^ 22) else none

/-- The lease-table entries of a set of ranges: die, entry. -/
def leaseEntries (s : State) (rs : List RangeReg) (lmask name : Nat) : List (Nat × LeaseEnt) :=
  (((List.range 8).filter fun n => lmask / 2 ^ n % 2 = 1).map fun n =>
    ((rangePages s (rs.getD n {})).filter fun p => decide (p.1 < Config.dieCount s.part)).map fun p =>
      (p.1, ({ ctx := name, first := p.2.1, last := p.2.2 } : LeaseEnt))).flatten

/-- Every die's table takes the entries (R305). -/
def leaseRoom (s : State) (es : List (Nat × LeaseEnt)) : Bool :=
  (List.range 4).all fun d => decide ((s.die d).leases.length + (es.filter fun e => e.1 == d).length ≤ 256)

/-- Add entries to the lease tables. -/
def addLeases (s : State) (es : List (Nat × LeaseEnt)) : State :=
  es.foldl (fun s e => s.setDie e.1 { s.die e.1 with leases := (s.die e.1).leases ++ [e.2] }) s

/-- Check every page of a range by R193 for the range's permissions, 0x08 on an absent die (01_package R20): the first failing page's IA and
cause. A walk sets the accessed bit (R193). See log entry 26 (DEDUCED). -/
def checkPages (s : State) (w : Who) (wr : Bool) (d : Nat) : Nat → Nat → Except (Nat × Nat) State
  | _, 0 => .ok s
  | p, n + 1 =>
    let ia := 0xFF * 2 ^ 56 + d * 2 ^ 38 + p * 65536
    if Config.dieCount s.part ≤ d then .error (ia, 0x08)
    else
      let (e, _, t) := walk s d p
      match pteCheck e w wr with
      | some c => .error (ia, c)
      | none => checkPages (markPage t ia false) w wr d (p + 1) n

/-- Check the pages of the selected ranges (R292 step 1): the range, the failing IA and the cause. -/
def checkRanges (s : State) (w : Who) (rs : List RangeReg) (lmask : Nat) : Except (Nat × Nat × Nat) State :=
  ((List.range 8).filter fun n => lmask / 2 ^ n % 2 = 1).foldl (fun acc n =>
    (rangePages s (rs.getD n {})).foldl (fun acc p =>
      match acc with
      | .error e => .error e
      | .ok s => match checkPages s w (rs.getD n {}).wr p.1 p.2.1 (p.2.2 + 1 - p.2.1) with
        | .error (ia, c) => .error (n, ia, c)
        | .ok t => .ok t) acc) (.ok s)

/-- A page of the selected ranges must wait for its accessed bit (R302). See log entry 9 (DESIGN CHOICE). -/
def rangesWait (s : State) (rs : List RangeReg) (lmask : Nat) : Bool :=
  ((List.range 8).filter fun n => lmask / 2 ^ n % 2 = 1).any fun n => (rangePages s (rs.getD n {})).any fun p =>
    (List.range (p.2.2 + 1 - p.2.1)).any fun i => markWaits s (0xFF * 2 ^ 56 + p.1 * 2 ^ 38 + (p.2.1 + i) * 65536) s.nextId false

/-- While the accessed bit of a page of the selected ranges waits, the copies of its entry's line are invalidated (R200, R302). -/
def askRanges (s : State) (rs : List RangeReg) (lmask : Nat) : State :=
  ((List.range 8).filter fun n => lmask / 2 ^ n % 2 = 1).foldl (fun s n => (rangePages s (rs.getD n {})).foldl (fun s p =>
    (List.range (p.2.2 + 1 - p.2.1)).foldl (fun s i => askMark s (0xFF * 2 ^ 56 + p.1 * 2 ^ 38 + (p.2.1 + i) * 65536) s.nextId false) s) s) s

/-- How many sets of lease entries an entry of the bank needs: one for each group. -/
def Entry.sets (e : Entry) : Nat := if e.chunk then 1 else e.sett.gang
def Entry.who (e : Entry) : Who := ⟨!e.sett.super, e.sett.tenant⟩

/-- The lease-table entries that a bank entry needs, under a lease number. -/
def Entry.leaseSet (s : State) (e : Entry) (n : Nat) : List (Nat × LeaseEnt) :=
  ((List.range e.sets).map fun i => leaseEntries s e.ranges e.sett.lmask (leaseName n i)).flatten

/-- The lowest-numbered enabled core of a cluster (R292). -/
def lowestOn (s : State) (g : Nat) : Nat := (((List.range 4).map (4 * g + ·)).find? (coreOn s)).getD (4 * g)

/-! ### The head of the bank -/

/-- Cut the card that heads a priority (R291): its next chunk, of max(1, ceil(r/8)) of the r records left, stands before it, once the bank
has a place for both. See log entry 27 (DEDUCED). -/
def cutAt (x : Cluster) (prio : Nat) : Cluster := { x with bank := go x.bank }
where
  go : List Entry → List Entry
    | [] => []
    | e :: r =>
      if e.sett.prio ≠ prio then e :: go r
      else if !e.card || e.chunk then e :: r
      else
        let left := e.upTo - e.next
        let n := max 1 ((left + 7) / 8)
        let chunk := { e with chunk := true, upTo := min e.upTo (e.next + n) }
        let rest := { e with next := e.next + n }
        if rest.upTo ≤ rest.next then chunk :: r
        else if x.used < 512 then chunk :: rest :: r
        else e :: r

/-- Cut the cards that head their priorities, the highest first. -/
def cutHead (x : Cluster) : Cluster := [3, 2, 1, 0].foldl cutAt x

/-- A head that is a card still waits for a place for its chunk. -/
def uncut (e : Entry) : Bool := e.card && !e.chunk

/-- Replace the head of the bank. -/
def setHead (x : Cluster) (e : Entry) : Cluster :=
  match x.bank with
  | [] => x
  | _ :: r => { x with bank := e :: r }
def dropHead (x : Cluster) : Cluster := { x with bank := x.bank.drop 1 }

/-- LEASE_PREPARATION (R292 step 1) of the entry at the head of the bank. -/
def prepareLease (s : State) (g : Nat) : State :=
  let x := cutHead (s.cluster g)
  match x.bank with
  | [] => s
  | e :: _ =>
    let n := s.nextId
    let es := e.leaseSet s n
    if !leaseRoom s es then s
    else if rangesWait s e.ranges e.sett.lmask then askRanges s e.ranges e.sett.lmask
    else
      let s := addLeases ({ s with nextId := n + 1 }.setCluster g x) es
      match checkRanges s e.who e.ranges e.sett.lmask with
      | .ok s => s.setCluster g (setHead (s.cluster g) { e with lease := some n })
      | .error (_, ia, c) =>
        let s := dropLease s { e with lease := some n }
        let y := s.cluster g
        let s := s.setCluster g { (dropHead y) with aside := y.aside ++ [e] }
        let k := lowestOn s g
        pushReport s k (mkRecord 6 false 0 k 0 0 (g * 2 ^ 58) [ia, c, e.src])

def execLeasePreparation (g : Nat) (s : State) : Host.Outcome State Fault Refusal := .next (prepareLease s g)

/-- An `SVDONE` of a kind-6 record (R284): the entry set aside first stands in the bank again. See log entry 11 (DEDUCED). -/
def prepareAgain (s : State) (g : Nat) : State :=
  let x := s.cluster g
  match x.aside with
  | [] => s
  | e :: r => pushEntry (s.setCluster g { x with aside := r }) g e

/-! ### Launch (R28, R31, R39, R85, R290, R292 step 3) -/

/-- A warp as it starts. -/
def startWarp (s : State) (ctx wix : Nat) (f : Sett) (ranges : List RangeReg) (chk : Bool) : Warp :=
  let live := lanes32.filter fun l => decide (wix * 32 + l < f.threads)
  { gen := s.nextId, ctx, wix, prio := f.prio, stamp := s.cycle, blocks := f.blocks
    threads := live.map fun l =>
      (l, ({ life := .live, pc := BitVec.ofNat 72 f.entry, rank := BitVec.ofNat 10 (wix * 32 + l) } : Thread))
    fronts := [{ lanes := maskOf live }], cur := some 0, priv := f.super, chk, tenant := BitVec.ofNat 16 f.tenant
    ranges := ((List.range 8).zip ranges), nextIssue := s.cycle + 1, lastAcq := s.now }

/-- The record of a chunk's group (R285), read through the group's ranges when it is launched. A record that cannot be read is a free value
(log entry 4). -/
def recordOf (s : State) (e : Entry) (i : Nat) : Nat × State :=
  let va := (e.sett.recs + 4 * i) % 2 ^ 72
  let free : Nat × State := ((Config.freeWord s.free).toNat % 2 ^ 32, { s with free := s.free + 1 })
  match translate e.ranges (!e.sett.super) .read va with
  | .error _ => free
  | .ok ia => match hwRead s ia 4 e.who with
    | .ok bs => (leBytes bs, hwSeen s ia 4)
    | .error _ => free

/-- Launch one group on a core that has room: its context, and the state. See log entry 27 (DEDUCED). -/
def launchGroup (s : State) (g c : Nat) (e : Entry) (index arg : Nat) (gang : Option Nat) : Nat × State :=
  let x := s.cluster g
  let ctx := g * 2 ^ 58 + x.launches.toNat
  let f := { e.sett with arg }
  let k := s.core c
  let phys := (freeAccs k).take f.accs
  let accs := phys.foldl (fun m p => Sparse.put m p { (Sparse.get {} m p : Acc) with group := some ctx }) k.accs
  let s := (s.setCluster g { x with launches := x.launches + 1 }).setCore c { k with accs }
  let s := s.setGroup ctx
    { core := c, gang := gang.getD ctx, index, sett := f, doneIa := e.doneIa, slots := (List.range phys.length).zip phys }
  let slots := takeSlots f.present ((k.warps.filter fun p => p.1 != 64).map (·.1)) none
  let s := ((List.range f.present).zip slots).foldl (fun s p =>
    let w := startWarp s ctx p.1 f e.ranges k.chkdef
    { (s.setWarpAt c p.2 w) with nextId := s.nextId + 1 }) s
  let s := match e.lease with
    | some n =>
      let i := if e.chunk then 0 else index
      let rename (l : LeaseEnt) : LeaseEnt := if l.ctx = leaseName n i then { l with ctx } else l
      { s with dies := s.dies.map fun p => (p.1, { p.2 with leases := p.2.leases.map rename }) }
    | none => s
  (ctx, s)

/-- Note that groups have been launched: one in 16 cycles (R279). -/
def paced (s : State) (g n : Nat) : State :=
  let x := s.cluster g
  s.setCluster g { x with readyAt := s.cycle + 16 * n }

/-- GROUP_LAUNCH (R293): a gang of one group on its own cluster. A chunk launches its groups one by one in record order. -/
def launchHere (s : State) (g : Nat) : State :=
  let s := s.setCluster g (cutHead (s.cluster g))
  match (s.cluster g).bank with
  | [] => s
  | e :: _ =>
    match (if uncut e then none else coreIn s e.sett g) with
    | none => s
    | some c =>
      let (arg, s) := if e.chunk then recordOf s e e.next else (e.sett.arg, s)
      let (ctx, s) := launchGroup s g c e 0 arg none
      let s := { s with gangs := Sparse.put s.gangs ctx { size := 1, cls := e.sett.cls, members := [(ctx, c / 48)] } }
      let y := s.cluster g
      let e' := { e with next := e.next + 1, lease := none }
      paced (s.setCluster g (if e.chunk ∧ e'.next < e'.upTo then setHead y e' else dropHead y)) g 1

def execGroupLaunch (g : Nat) (s : State) : Host.Outcome State Fault Refusal := .next (launchHere s g)

/-- Release the reservations of a gang and requeue it at the head of its priority (R293, R294). -/
def requeueGang (s : State) (g : Nat) : State :=
  let x := s.cluster g
  match x.placing with
  | none => s
  | some e => s.setCluster g { x with placing := none, reserved := [], bank := bankHead e x.bank }

/-- GANG_REQUEUE (R294). -/
def execGangRequeue (g : Nat) (s : State) : Host.Outcome State Fault Refusal := .next (requeueGang s g)

/-- GANG_RESERVE (R293): every reservation is held, or the gang returns and waits for a group end in its search area; gangs of lower priority that
hold reservations where it was refused are requeued (R294), and it asks again. -/
def reserveGang (s : State) (g : Nat) : State :=
  let s := s.setCluster g (cutHead (s.cluster g))
  let x := s.cluster g
  match x.bank with
  | [] => s
  | e :: _ =>
    let t := s.setCluster g { (dropHead x) with placing := some e, reserved := [] }
    match reserve t g e.sett (if e.chunk then 1 else e.sett.gang) with
    | some t => t
    | none =>
      let area := searchOrder s g e.sett.cls
      let lower := (s.clusters.filter fun p => match p.2.placing with
        | some o => decide (o.sett.prio < e.sett.prio) && p.2.reserved.any fun c => area.contains (c / 4)
        | none => false).map (·.1)
      let refused := if lower.isEmpty then (x.refused.filter fun o => o != e && x.bank.contains o) ++ [e] else x.refused
      lower.foldl requeueGang (s.setCluster g { x with refused })

def execGangReserve (g : Nat) (s : State) : Host.Outcome State Fault Refusal := .next (reserveGang s g)

/-- GANG_COMMIT (R293): all groups in one step. A chunk of which records are left heads its priority again. -/
def commitGang (s : State) (g : Nat) : State :=
  let x := s.cluster g
  match x.placing with
  | none => s
  | some e =>
    let cores := x.reserved
    let rest := { e with next := e.next + 1, lease := none }
    let bank := if e.chunk ∧ rest.next < rest.upTo then bankHead rest x.bank else x.bank
    let s := s.setCluster g { x with placing := none, reserved := [], bank }
    let first := g * 2 ^ 58 + x.launches.toNat
    let (s, ms) := ((List.range cores.length).zip cores).foldl (fun (acc : State × List (Nat × Nat)) p =>
      let (arg, s) := if e.chunk then recordOf acc.1 e e.next else (e.sett.arg, acc.1)
      let (ctx, s) := launchGroup s g p.2 e p.1 arg (some first)
      (s, acc.2 ++ [(ctx, p.2 / 48)])) (s, [])
    paced { s with gangs := Sparse.put s.gangs first { size := cores.length, cls := e.sett.cls, members := ms } } g cores.length

def execGangCommit (g : Nat) (s : State) : Host.Outcome State Fault Refusal := .next (commitGang s g)

/-- The gang that a cluster launches next, if any. -/
def nextGang (s : State) (g : Nat) : Option Entry :=
  let x := s.cluster g
  x.placing.or (cutHead x).bank.head?

/-- The record of the next gang lies in a page of which A is to be set first (R302): its address. -/
def recordSpan (s : State) (g : Nat) : Option Nat :=
  match nextGang s g with
  | some e => if e.chunk then (translate e.ranges (!e.sett.super) .read ((e.sett.recs + 4 * e.next) % 2 ^ 72)).toOption else none
  | none => none
def recordWaits (s : State) (g : Nat) : Bool := match recordSpan s g with | some ia => hwReadWaits s ia 4 | none => false
def recordAsk (s : State) (g : Nat) : State := match recordSpan s g with | some ia => hwReadAsk s ia 4 | none => s

/-- What the dispatcher of a cluster does next, if anything (R291 to R294). -/
def dispatcherNext (s : State) (g : Nat) : Option Instr :=
  let x := s.cluster g
  if !x.running || recordWaits s g then none
  else match x.placing with
    | some e =>
      if (match x.bank with | h :: _ => decide (e.sett.prio < h.sett.prio) | [] => false) then some (.gangRequeue g)
      else if x.reserved.any fun c => asleep s c || !coreOn s c then some (.gangRequeue g)
      else if x.readyAt ≤ s.cycle then some (.gangCommit g) else none
    | none =>
      match (cutHead x).bank with
      | [] => none
      | e :: _ =>
        if uncut e then none
        else if e.sett.lmask ≠ 0 ∧ e.lease.isNone then
          (if leaseRoom s (e.leaseSet s s.nextId) then some (.leasePreparation g) else none)
        else if s.cycle < x.readyAt then none
        else if (e.chunk ∨ e.sett.gang = 1) ∧ (coreIn s e.sett g).isSome then some (.groupLaunch g)
        else if !x.refused.contains e then some (.gangReserve g)
        else none

/-! ### The gang barrier (R320) -/

/-- The threads of a group that wait at `GBAR`, when the group is present (R175, R320): none otherwise. -/
def gbarPresent (s : State) (ctx : Nat) : List (Nat × Nat × Thread) :=
  match s.group? ctx with
  | some g => if g.evicted != 0 || !(awayThreads s ctx).isEmpty || g.saved != 0 then []
              else arrived s g.core (residents s g.core ctx) .gbar
  | none => []

/-- Look at a gang's barrier: the groups that have arrived are counted, by die on several dies, and the barrier completes when all
groups that have not ended are there. See log entry 27 (DEDUCED). -/
def gangCheck (s : State) (key : Nat) : State :=
  match Sparse.get? s.gangs key with
  | none => s
  | some x =>
    let here := x.members.filter fun m => !x.ended.contains m.1 && !(gbarPresent s m.1).isEmpty
    let gone := x.members.filter fun m => x.ended.contains m.1
    let full (d : Nat) : Bool := x.members.all fun m => m.2 != d || here.contains m || gone.contains m
    let dies := (x.members.map (·.2)).eraseDups
    let two := x.cls == 1 && decide (1 < dies.length)
    let all := if two then dies.all full else decide (here.length + gone.length = x.members.length)
    if !here.isEmpty && all then
      let s := { s with gangs := Sparse.put s.gangs key { x with arrived := [], dieCount := [], across := 0 } }
      here.foldl (fun s m => match s.group? m.1 with
        | some g => wakeMembers s g.core (gbarPresent s m.1)
        | none => s) s
    else
      let x := { x with
        arrived := here.map (·.1)
        dieCount := if two then dies.map fun d => (d, (here.filter fun m => m.2 == d).length) else []
        across := if two then (dies.filter full).length else 0 }
      { s with gangs := Sparse.put s.gangs key x }

/-- `GBAR` (R320, R374). -/
def execGbar (f : Fields) (s : State) := issueX 0x162 f s fun f s =>
  released true .pkg s fun s =>
    let s := groupCheckHere (s.setWarp (parkFront s.warp (lenX f) .gbar))
    .jump (match s.group? s.warp.ctx with
      | some g => gangCheck s g.gang
      | none => s)

/-! ### The end of a group (R292, R339) -/

/-- The group is over: every warp has exited and none is saved or evicted; or it is being ended and the waits of R338 and its stores
are done. -/
def groupOver (s : State) (ctx : Nat) (g : Group) : Bool :=
  let ws := groupWarps s g.core ctx
  match g.ending with
  | some _ => ws.all fun p => drained s g.core p.1 && storesDone s p.2 true
  | none => ws.isEmpty && g.evicted == 0 && g.saved == 0

/-- The completion update at DONE, as an operation in flight of the core on which the group ended (R292). `ender` is the operation of
the `CTXSV.END` that waits for it. -/
def completion (s : State) (c ctx : Nat) (f : Sett) (doneIa code : Nat) (ender : Option Nat) : State :=
  let o : MemOp :=
    { kind := .done, core := c, slot := 64, gen := 0, ctx, wix := 0, user := !f.super, tenant := f.tenant, pc := 0, f := {},
      lanes := [{ lane := 0, va := f.doneVa, ia := doneIa, size := 8, args := [code] }], parts := [{ ia := doneIa, lanes := [0] }],
      left := 1, visit := 1, since := s.cycle, tick := s.now, todo := match ender with | some i => [(i, 0)] | none => [] }
  let (id, s) := newOp s o
  if f.doneVa = 0 then s.post (s.cycle + 1) (.loadResponse id 0) else sendVisits s id o

/-- A gang counts a group as ended; a gang whose groups have all ended is gone. -/
def gangEnded (s : State) (key ctx : Nat) : State :=
  match Sparse.get? s.gangs key with
  | none => s
  | some x =>
    let x := { x with ended := x.ended ++ [ctx] }
    if x.members.all fun m => x.ended.contains m.1 then { s with gangs := Sparse.erase s.gangs key }
    else gangCheck { s with gangs := Sparse.put s.gangs key x } key

/-- Report the deferred fault that a warp of an ended group has pending (R234, R339). -/
def reportDeferred (s : State) (c : Nat) (w : Warp) : State :=
  match w.deferred.or (areaDeferred s w) with
  | none => s
  | some d => pushReport s c (mkRecord 5 w.priv 0 c w.wix 0 w.ctx (trapArgs d.cause true false 0 0 d.addr d.pc (d.pc / 2 ^ 64) 0))

/-- A group has ended on a core: gangs that were refused and search its cluster are asked again (R293). -/
def groupGone (s : State) (c : Nat) : State :=
  let wait (g : Nat) (e : Entry) : Bool := !((searchOrder s g e.sett.cls).contains (c / 4))
  { s with clusters := s.clusters.map fun p => (p.1, { p.2 with refused := p.2.refused.filter (wait p.1) }) }

/-- GROUP_END (R292, R305, R320, R337, R339): what the group holds is freed, its askers learn that it ended, and its completion is
made. See log entry 26 (DEDUCED). -/
def endGroup (s : State) (ctx : Nat) : State :=
  match s.group? ctx with
  | none => s
  | some g =>
    let c := g.core
    let s := (groupWarps s c ctx).foldl (fun s p =>
      let s := reportDeferred s c p.2
      removeWarp (freeOwned (cancelAll s c p.2.gen) c p.1) c p.1) s
    let s := dropLeases (answerAskers (freeSlots s g) g 1) ctx
    let s := gangEnded { s with groups := Sparse.erase s.groups ctx, ghosts := Sparse.erase s.ghosts ctx } g.gang ctx
    completion (groupGone s c) c ctx g.sett g.doneIa (g.ending.getD 0) g.ender

def execGroupEnd (ctx : Nat) (s : State) : Host.Outcome State Fault Refusal := .next (endGroup s ctx)

/-- A warp whose threads have all exited leaves its slot once nothing of it is in flight (R31, R89); a deferred fault that it has pending is
reported (R234). -/
def retireWarp (s : State) (c slot : Nat) : State :=
  let w := s.warpAt c slot
  if w.single || !w.liveLanes.isEmpty || !drained s c slot || !w.storeBuf.isEmpty then s
  else
    let s := reportDeferred s c w
    let s := removeWarp (freeOwned (cancelAll s c w.gen) c slot) c slot
    match s.group? w.ctx with
    | some g => s.setGroup w.ctx { g with exited := withWarp g.exited w.wix }
    | none => s

/-- The completion update at its home (R292): checked for the group, then made as one atomic. -/
def completeAtHome (s : State) (id : Nat) (o : MemOp) : State :=
  let x := o.lanes.headD { lane := 0, va := 0, ia := 0, size := 8 }
  let fail (s : State) (c : Nat) : State :=
    sendBack (s.setOp id { o with lanes := [{ x with ok := false, cause := c }] }) o.core x.ia 0 (.loadResponse id 0)
  match place s x.ia with
  | .io => fail s 0x0B
  | .other g =>
    let status := farStatus s g
    let s := { s with free := s.free + 1 }
    if status ≠ 0 then fail s status else sendBack (s.setOp id o) o.core x.ia 0 (.loadResponse id 0)
  | .here =>
    let sp := (x.ia, 8)
    if lockedFor s x.ia id then pendAt s x.ia id 0
    else if blocked s sp id 0 then invalidate (pendAt s x.ia id 0) x.ia 8
    else match openLine s sp id o.who true true with
      | .error none => pendAt (askMark s x.ia id true) x.ia id 0
      | .error (some c) => fail (walked (unpend s x.ia id 0) x.ia) c
      | .ok (_, extra, s) =>
        let s := unpend s x.ia id 0
        let old := homeNat s x.ia 8
        let code := if old / 2 ^ 56 = 0 then x.args.headD 0 else old / 2 ^ 56
        let s := homeWrite s x.ia (toBytes 8 ((old + 1) % 2 ^ 56 + 2 ^ 56 * code))
        sendBack (s.setOp id o) o.core x.ia extra (.loadResponse id 0)

/-- The `CTXSV.END` of an ended group is over (R339): 0 in its result, and an acquire of `.sys` scope. -/
def finishEnder (s : State) (id : Nat) : State :=
  match s.op? id with
  | none => s
  | some o =>
    if !here s o then s.dropOp id
    else modWarp (s.dropOp id) o.core o.slot fun w =>
      let w := w.applyAll ((w.activeOf (maskOf (o.lanes.map (·.lane)))).map fun l => .reg o.f.d.toNat l 0)
      { w with marks := Sparse.erase w.marks id, holds := none, lastAcq := s.now, fetched := none, fetching := none }

/-- The completion update is answered: a check that failed is reported by a record of kind 5 (R292). -/
def completed (s : State) (id : Nat) : State :=
  match s.op? id with
  | none => s
  | some o =>
    let x := o.lanes.headD { lane := 0, va := 0, ia := 0, size := 8 }
    let s := s.dropOp id
    let s := if x.ok then s else
      pushReport s o.core (mkRecord 5 (!o.user) 0 o.core 0 0 o.ctx (trapArgs x.cause true false 0 0 x.va 0 0 0))
    match o.todo with
    | (e, _) :: _ => finishEnder s e
    | [] => s

/-! ### Work donation (R295) -/

/-- A cluster is idle: its bank and ring are empty, no donation is on its way into them, and one of its cores has a free warp slot. -/
def idle (s : State) (g : Nat) : Bool :=
  let x := s.cluster g
  x.running && x.bank.isEmpty && x.tips.isEmpty && x.arriving.isEmpty &&
  (List.range 4).any fun i => decide (0 < freeSlotsOn s (4 * g + i))

/-- The cluster that is asked next: those of its die round-robin from the donation pointer, then those of the other dies, which has not
refused since the last wait. -/
def victimOf (s : State) (g : Nat) : Option Nat :=
  let x := s.cluster g
  let d := g / 12
  let p := x.donation.getD g
  let own := ((List.range 12).map fun i => 12 * d + (p % 12 + 1 + i) % 12).filter (· != g)
  let rest := ((List.range (Config.dieCount s.part - 1)).map fun i =>
    (List.range 12).map (12 * ((d + 1 + i) % Config.dieCount s.part) + ·)).flatten
  (own ++ rest).find? fun v => !x.asked.contains v

/-- The `n` oldest of a victim's entries, and what is left of its bank and ring. See log entry 27 (DEDUCED). -/
def takeOldest (bank tips : List Entry) : Nat → List Entry × List Entry × List Entry
  | 0 => ([], bank, tips)
  | n + 1 =>
    match oldest (bank ++ tips) with
    | none => ([], bank, tips)
    | some e =>
      let (got, b, t) := if bank.contains e then takeOldest (bank.erase e) tips n else takeOldest bank (tips.erase e) n
      (e :: got, b, t)

/-- What a victim ships, and the victim without it (R295). See log entry 27 (DEDUCED). -/
def donate (x : Cluster) : List Entry × Cluster :=
  let n := x.bank.length + x.tips.length
  if !x.running then ([], x)
  else if 2 ≤ n then
    let (got, bank, tips) := takeOldest x.bank x.tips (n / 2)
    (got, { x with bank, tips })
  else match x.bank, x.tips with
    | [e], [] => if e.card && !e.chunk && decide (2 ≤ e.upTo - e.next) then
        let k := (e.upTo - e.next) / 2
        ([{ e with next := e.upTo - k, lease := none }], { x with bank := [{ e with upTo := e.upTo - k }] })
      else ([], x)
    | [], [e] => if e.card && !e.chunk && decide (2 ≤ e.upTo - e.next) then
        let k := (e.upTo - e.next) / 2
        ([{ e with next := e.upTo - k }], { x with tips := [{ e with upTo := e.upTo - k }] })
      else ([], x)
    | _, _ => ([], x)

/-- Shipped entries enter the thief's bank, as far as it has places; the others wait in flight. See log entry 27 (DEDUCED). -/
def arriveAll (s : State) (g : Nat) : State := go s (s.cluster g).arriving.length
where
  go (s : State) : Nat → State
    | 0 => s
    | n + 1 =>
      let x := s.cluster g
      match x.arriving with
      | [] => s
      | e :: r => if x.used < 512 then go (pushEntry (s.setCluster g { x with arriving := r }) g e) n else s

/-- STEAL_REQUEST (R295). See log entry 27 (DEDUCED). -/
def steal (s : State) (thief victim : Nat) : State :=
  let (got, v) := donate (s.cluster victim)
  let s := s.setCluster victim v
  let s := (got.filter fun e => !(v.bank.contains e)).foldl dropLease s
  let x := s.cluster thief
  let donation := if victim / 12 = thief / 12 then some victim else x.donation
  if got.isEmpty then
    let asked := x.asked ++ [victim]
    let s := s.setCluster thief { x with donation, asked }
    if (victimOf s thief).isSome then s
    else (s.setCluster thief { s.cluster thief with stealAt := s.cycle + 4096 }).post (s.cycle + 4096) (.stealRetryTimeout thief)
  else
    arriveAll (s.setCluster thief { x with donation, asked := [], arriving := x.arriving ++ got.map fun e => { e with lease := none } }) thief

def execStealRequest (thief victim : Nat) (s : State) : Host.Outcome State Fault Refusal := .next (steal s thief victim)

/-- STEAL_RETRY_TIMEOUT (R295). -/
def execStealRetryTimeout (g : Nat) (s : State) : Host.Outcome State Fault Refusal :=
  .next (s.setCluster g { s.cluster g with asked := [] })

end Sys2Proof.Machine
end

