-- ==== Sys2Proof/Machine/Spawn.lean ====
section
/-! DEFINITION. The task instructions and the allocator (13_queues R286 to R289, R296 to R298). -/

namespace Sys2Proof.Machine

/-! ### Pushing (R286, R288, R289) -/

/-- The bank of the executing core's cluster takes an entry. -/
def bankRoom (s : State) (c : Nat) : Bool := decide ((s.cluster (c / 4)).used < 512)

/-- Place a copy of a checked sett or card in the bank of a core's cluster (R288 step 5). -/
def placeSett (s : State) (c x src : Nat) (card : Bool) (ranges : List RangeReg) (doneIa : Nat) : State :=
  let f := settOf x
  pushEntry s (c / 4) { sett := f, card, ranges, doneIa, src, stamp := s.now, cluster := c / 4, upTo := if card then f.arg else 0 }

/-- The result of a task instruction in every thread that executes it, its marks, and the wait of its front. -/
def finishPush (s : State) (id : Nat) (o : MemOp) : State :=
  modWarp (s.dropOp id) o.core o.slot fun w =>
    let w := w.applyAll (o.results.map fun p => .reg o.f.d.toNat p.1 (BitVec.ofNat 32 p.2))
    { w with marks := Sparse.erase w.marks id, holds := none }

/-- A fault of a task instruction at its front. -/
def pushFault (s : State) (id : Nat) (o : MemOp) (x : FaultInfo) : State :=
  let s := modWarp (s.dropOp id) o.core o.slot fun w => { w with marks := Sparse.erase w.marks id, holds := none }
  let s := s.select o.core o.slot
  let w := s.warp
  takeFault (s.setWarp (w.setPcs (lanesOf w.frontMask) (BitVec.ofNat 72 o.pc))) x

/-- The sett of a lane is pushed as a card (R288, R289). -/
def pushCard (o : MemOp) (x : Lane) : Bool := o.op == 0x1C1 || (o.op == 0x1C2 && (settOf x.got).recs != 0)

/-- Check one lane's sett (R286, R288 step 4): a lane that passes keeps in `args` the intermediate address of DONE and its group's ranges, one
that fails its cause and, in `info`, the byte offset of the field. -/
def checkPush (s : State) (o : MemOp) (x : Lane) : Lane :=
  if !x.ok then x
  else
    let bad (c off : Nat) : Lane := { x with ok := false, cause := c, info := off, args := [0] }
    match settCheck s (s.warpAt o.core o.slot) x.got (pushCard o x) with
    | .error (c, off) => bad c off
    | .ok (rs, ia) =>
      if o.op ≠ 0x1C2 ∧ (settOf x.got).depcnt ≠ 0 then bad 0x02 36
      else { x with args := ia :: (rs.map fun r => [r.base.toNat, r.lim.toNat, r.map.toNat]).flatten }

/-- The range lists that the checks read are accessed (09 R193). -/
def seenLists (s : State) (o : MemOp) : State :=
  o.lanes.foldl (fun s x => if x.ok && (settOf x.got).rlist != 0 then hwSeen s (settOf x.got).rlist 192 else s) s

/-- The range list that a lane names must wait for A of its page (R302). -/
def listWaits (s : State) (x : Lane) : Bool := x.ok && (settOf x.got).rlist != 0 && hwReadWaits s (settOf x.got).rlist 192

/-- The fault of a lane whose check failed (R286); of a range list that fails a check at its home, with bit 63 for a reserved format
(05_number_formats R92), and for one in error structure, lane and sector (16_events R341). -/
def pushInfo (o : MemOp) (x : Lane) : FaultInfo :=
  if x.args.isEmpty then laneFault o x false
  else { cause := x.cause, addr := BitVec.ofNat 72 x.va, info := BitVec.ofNat 64 (x.info + (if x.cause = 0x12 then 256 * x.lane else 0)),
         pc := BitVec.ofNat 72 o.pc }

/-- Push for the threads still to come, in ascending lane order, until one finds no room (R288, R289); then the lowest lane whose check failed
faults. -/
def pushLanes (s : State) (id : Nat) (o : MemOp) : State := go o.todo s
where
  go : List (Nat × Nat) → State → State
    | [], s => match o.lanes.find? (!·.ok) with
      | some x => pushFault s id o (pushInfo o x)
      | none => finishPush s id o
    | (l, va) :: r, s => match o.lanes.find? fun x => x.lane == l && x.ok with
      | none => go r s
      | some x =>
        if !bankRoom s o.core then s.setOp id { o with stage := 2, todo := (l, va) :: r }
        else go r (placeSett s o.core x.got x.ia (pushCard o x) (listRanges ((x.args.drop 1).map (BitVec.ofNat 64))) (x.args.headD 0))

/-- The setts are read: every lane is checked before any is pushed, so that a fault of `SPAWN` or `SPAWNJ` is precise (16_events R329). The
setts of a `DEPSIG` that pass are pushed though another fails (R289). See log entry 27 (DEDUCED). -/
def pushAll (s : State) (id : Nat) (o : MemOp) : State :=
  if o.lanes.any (listWaits s) then
    o.lanes.foldl (fun s x => if listWaits s x then hwReadAsk s (settOf x.got).rlist 192 else s) (s.setOp id { o with stage := 3 })
  else
  let s := seenLists s o
  let o := { o with lanes := o.lanes.map (checkPush s o) }
  let s := s.setOp id o
  match (if o.op = 0x1C2 then none else o.lanes.find? (!·.ok)) with
  | some x => pushFault s id o (pushInfo o x)
  | none => pushLanes s id o

/-- A push that waits for room, or for its range lists, is tried again (R288, R302). -/
def retryPush (s : State) (id : Nat) : State :=
  match s.op? id with
  | some o =>
    if o.kind ≠ .push ∨ !here s o then s
    else if o.stage = 3 then pushAll s id o
    else if o.stage = 2 ∧ bankRoom s o.core then pushLanes s id o else s
  | none => s

/-- The 64 bytes of each thread are in. -/
def respondPush (s : State) (id : Nat) : State :=
  match s.op? id with
  | none => s
  | some o =>
    let o : MemOp := { o with left := o.left - 1 }
    if o.left ≠ 0 then s.setOp id o else pushAll (s.setOp id o) id o

/-- `SPAWN` and `SPAWNJ` (R288): the front waits until every push is placed. -/
def spawnBody (op : Nat) (f : Fields) (s : State) : Act :=
  let w := s.warp
  let on := execLanes f w
  let live := on.filter w.live
  match operandCheck s w .read 64 false (live.map fun l => (l, vaOf f w l)) with
  | .error e => operandFault .read e
  | .ok xs =>
    let lanes := xs.map (mkLane 64)
    if lanes.isEmpty then .next (land s s.cycle false (on.map fun l => .reg f.d.toNat l 0))
    else released (releases f.order) f.scope s fun s =>
      if lanes.any fun x => ownStoreOut s x || ownStoreOut s { x with ia := x.ia + 32 } then .wait
      else
        let parts := legsOf lanes []
        let o := { opOf s .push op f with
          lanes, parts, left := parts.length, todo := lanes.map fun x => (x.lane, x.va), results := on.map fun l => (l, 0) }
        let (id, s) := newOp s o
        let w := s.warp
        .next (sendLegs (s.setWarp { w with marks := Sparse.put w.marks id (marksOf op f), holds := some id }) id parts.length)

def execSpawn (f : Fields) (s : State) := issueX 0x1C0 f s (spawnBody 0x1C0)
def execSpawnj (f : Fields) (s : State) := issueX 0x1C1 f s (spawnBody 0x1C1)

/-- `DEPSIG` (R289): one atomic on bytes 39:36 of the sett, then the push of the setts whose count has become 0. -/
def execDepsig (f : Fields) (s : State) := issueX 0x1C2 f s fun f s =>
  let w := s.warp
  let on := execLanes f w
  let live := on.filter w.live
  match operandCheck s w .both 64 false (live.map fun l => (l, vaOf f w l)) with
  | .error e => operandFault .both e
  | .ok xs =>
    let lanes := xs.map fun p => let x := mkLane 4 p; { x with va := x.va + 36, ia := x.ia + 36 }
    let helpers : List (Nat × Nat) := (on.filter fun l => !w.live l).map fun l => (l, 2 ^ 32 - 1)
    if lanes.isEmpty then .next (land s s.cycle false (helpers.map fun p => .reg f.d.toNat p.1 (BitVec.ofNat 32 p.2)))
    else released (releases f.order) f.scope s fun s =>
      if !atomicReady s f lanes ∨ !(visitBody.countsFit s lanes) then .wait
      else
        let parts := sliceLegs s lanes []
        let o := { opOf s .depsig 0x1C2 f with
          lanes, parts, left := parts.length, visit := if decide (1 < unitCount s lanes) then 2 else 1, results := helpers }
        let (id, s) := newOp s o
        let w := s.warp
        let s := s.setWarp { (countLanes w s o true) with marks := Sparse.put w.marks id (marksOf 0x1C2 f), holds := some id }
        .next (startTimer (sendVisits s id o) id)

/-- The answers of a `DEPSIG`: a precise fault with no count changed, the second visit, or the reads of the setts to be pushed.
See log entry 27 (DEDUCED). -/
def respondDepsig (s : State) (id k : Nat) : State :=
  match s.op? id with
  | none => s
  | some o =>
    let p := o.part k
    if p.done ∨ (s.input.flag ∧ s.input.b ≠ p.sent) then s else
    let o : MemOp := { o.setPart k { p with done := true } with left := o.left - 1 }
    let s := confirm (s.setOp id o) o p.ia id k
    if o.left ≠ 0 then s
    else
      let uncount (s : State) : State := modWarp s o.core o.slot fun w => countLanes w s { o with lanes := o.lanes.map fun x => { x with ok := true } } false
      match o.worst (s.warpAt o.core o.slot) with
      | some x => pushFault (uncount (o.lanes.foldl (fun s y => pin s y.ia id false) s)) id o
          (laneFault o { x with va := x.va - 36 } true)
      | none =>
        if o.visit = 2 ∧ o.stage = 0 then
          let again (p : Leg) : Leg := { p with done := false }
          let o : MemOp := { o with stage := 1, left := o.parts.length, parts := o.parts.map again }
          startTimer (sendVisits (s.setOp id o) id o) id
        else
          let results := o.results ++ o.lanes.map fun x => (x.lane, x.got)
          let ready := (o.lanes.filter fun x => x.got == 0).map fun x => { x with va := x.va - 36, ia := x.ia - 36, size := 64 }
          let parts := legsOf ready []
          let o : MemOp := { o with
            kind := .push, lanes := ready, parts, left := parts.length, stage := 0, results, todo := ready.map fun x => (x.lane, x.va) }
          let s := (uncount s).setOp id o
          if ready.isEmpty then finishPush s id o else sendLegs s id parts.length

/-! ### The allocator (R296, R297) -/

/-- Size of a block of a class. -/
def blockSize (k : Nat) : Nat := 16 * 2 ^ k

/-- VA[63:0] of the arena of a cluster, and its size. -/
def arenaOf (d : Desc) (g : Nat) : Nat := d.winVa % 2 ^ 64 + g * 2 ^ d.ashift
/-- The intermediate address of a block. -/
def blockIa (d : Desc) (va : Nat) : Nat := d.winIa + (va - d.winVa % 2 ^ 64)

/-- The list of a class. -/
def listHead (x : Cluster) (k : Nat) : Nat := Sparse.get 0 x.free k

/-- A store to the first 8 bytes of a block is on its way, so that its next pointer is not there yet. -/
def linkOut (s : State) (ia : Nat) : Bool :=
  s.ops.any fun p => p.2.kind.isStore && p.2.lanes.any fun y =>
    l1Key s y.ia == l1Key s ia && decide (y.ia % 512 < ia % 512 + 8) && decide (ia % 512 < y.ia % 512 + y.size)

/-- Take a block of a class (R296): from the list, else from the arena, else none. The block's VA[63:0], and the cluster.
See log entry 8 (DESIGN CHOICE). -/
def takeBlock (s : State) (g k : Nat) : Option Nat × Cluster :=
  let x := s.cluster g
  match x.desc with
  | none => (none, x)
  | some d =>
    let head := listHead x k
    if head ≠ 0 then (some head, { x with free := Sparse.set 0 x.free k (homeNat s (blockIa d head) 8) })
    else
      let n := blockSize k
      let at_ := (x.carve + n - 1) / n * n
      if at_ + n ≤ arenaOf d g + 2 ^ d.ashift then (some at_, { x with carve := at_ + n }) else (none, x)

/-- The block at the head of the list, for which `ALLOC` may have to wait. -/
def headIa (s : State) (g k : Nat) : Option Nat :=
  let x := s.cluster g
  match x.desc with
  | some d => if listHead x k ≠ 0 then some (blockIa d (listHead x k)) else none
  | none => none

/-- The first `n` blocks of a list, as its next pointers stand at their homes. -/
def allocHeads (s : State) (d : Desc) : Nat → Nat → List Nat
  | 0, _ => []
  | n + 1, h => if h = 0 then [] else blockIa d h :: allocHeads s d n (homeNat s (blockIa d h) 8)

/-- The next pointer of the block at the head cannot be read now: a store to it is on its way, A of its page must wait (R302), or it is in
error (16_events R341). -/
def headHeld (s : State) (ia : Nat) : Bool := linkOut s ia || hwReadWaits s ia 8 || (hwErr s ia 8).isSome

/-- Allocate for threads in ascending lane order; none when a next head cannot be read. -/
def allocLanes (s : State) (g k : Nat) : List Nat → List (Nat × Option Nat) → Option (State × List (Nat × Option Nat))
  | [], acc => some (s, acc)
  | l :: r, acc =>
    if (match headIa s g k with | some ia => headHeld s ia | none => false) then none
    else
      let (b, x) := takeBlock s g k
      let s := match headIa s g k with | some ia => hwSeen s ia 8 | none => s
      allocLanes (s.setCluster g x) g k r (acc ++ [(l, b)])

/-- The virtual address of an address in the arena window. -/
def blockVa (s : State) (ia : Nat) : Nat := match (s.cluster (s.selfCore / 4)).desc with | some d => d.winVa + (ia - d.winIa) | none => 0

/-- The blocks at the head of the list that an `ALLOC` would take. -/
def allocSpan (f : Fields) (s : State) : List Nat :=
  let x := s.cluster (s.selfCore / 4)
  match x.desc with
  | some d => allocHeads s d s.warp.frontLanes.length (listHead x (f.subBits 0 4))
  | none => []

/-- `ALLOC` (R296): its results land 6 cycles after issue, as those of the interlocked reads of R373 do; the spec gives `ALLOC` no time. A next
pointer in error is cause 0x12 (16_events R341). See log entry 52 (DESIGN CHOICE). -/
def execAlloc (f : Fields) (s : State) := issueX 0x1C3 f ((allocSpan f s).foldl (fun s ia => hwReadAsk s ia 8) s) fun f s =>
  let w := s.warp
  let on := execLanes f w
  match allocLanes s (s.selfCore / 4) (f.subBits 0 4) (on.filter w.live) [] with
  | none => match ((allocSpan f s).takeWhile fun ia => !linkOut s ia).findSome? fun ia => hwErr s ia 8 with
    | some a => .trap 0x12 (BitVec.ofNat 72 (blockVa s a)) (errInfo (hwInfo s 0x12 a % 16) (w.frontLanes.headD 0) (a % 512 / 32))
    | none => .wait
  | some (s, got) =>
    let given (l : Nat) : Option Nat := (got.find? fun p => p.1 == l).bind (·.2)
    let s := land s (s.cycle + 6) false ((on.map fun l =>
      put64 f l f.d.toNat (BitVec.ofNat 64 ((given l).getD 0)) ++ putPred f w l (f.clsBits 0 3) (given l).isSome).flatten)
    .next (if acquires f.order && !on.isEmpty then s.setWarp { s.warp with lastAcq := s.now, fetched := none, fetching := none } else s)

/-- Send an exchange buffer to its owner as one batch (R298). -/
def sendBatch (s : State) (g k : Nat) : State :=
  let x := s.cluster g
  match Sparse.get? x.exch k with
  | none => s
  | some b =>
    let s := s.setCluster g { x with exch := Sparse.erase x.exch k }
    sendOn s (4000000 + g * 64 + b.owner) (outward s (4 * g) (4 * b.owner)) (.exchangeBatchReceive b.owner k b.blocks)

/-- Free one block of another cluster into the exchange buffer of its class (R298). -/
def exchangePut (s : State) (g k owner va : Nat) : State :=
  let s := match Sparse.get? (s.cluster g).exch k with
    | some b => if b.owner ≠ owner then sendBatch s g k else s
    | none => s
  let x := s.cluster g
  let b := (Sparse.get? x.exch k).getD { owner, blocks := [], last := s.cycle }
  let b := { b with blocks := b.blocks ++ [va], last := s.cycle }
  let s := s.setCluster g { x with exch := Sparse.put x.exch k b }
  if 16 ≤ b.blocks.length then sendBatch s g k else s

/-- Free a thread's block (R297). -/
def freeBlock (o : MemOp) (g k : Nat) (d : Desc) (s : State) (x : Lane) : State :=
  let owner := (x.va - d.winVa) / 2 ^ d.ashift
  let low := x.va % 2 ^ 64
  if owner = g then
    let y := s.cluster g
    let s := storeLane o s { x with args := (toBytes 8 (listHead y k)).map BitVec.toNat }
    s.setCluster g { s.cluster g with free := Sparse.set 0 (s.cluster g).free k low }
  else exchangePut s g k owner low

/-- A `FREE` of a class restarts the time after which its buffer is sent (R298). -/
def touchExch (s : State) (g k : Nat) : State :=
  let x := s.cluster g
  match Sparse.get? x.exch k with
  | some b => (s.setCluster g { x with exch := Sparse.put x.exch k { b with last := s.cycle } }).post (s.cycle + 4096) (.exchangeTimeout g k)
  | none => s

/-- `FREE` (R297). -/
def execFree (f : Fields) (s : State) := issueX 0x1C4 f s fun f s =>
  let w := s.warp
  let k := f.subBits 0 4
  let g := s.selfCore / 4
  let live := (execLanes f w).filter w.live
  match operandCheck s w .write (blockSize k) false (live.map fun l => (l, vaOf f w l)) with
  | .error e => operandFault .write e
  | .ok xs =>
    let lanes := xs.map (mkLane 8)
    let inside (va : Nat) : Bool := match (s.cluster g).desc with
      | some d => decide (d.winVa ≤ va) && decide (va < d.winVa + Config.dieCount s.part * 12 * 2 ^ d.ashift)
      | none => false
    if lanes.isEmpty then .next s
    else match lanes.find? fun x => !inside x.va with
      | some x => .trap 0x02 (BitVec.ofNat 72 x.va) (trapWords (encodeExt 0x1C4 f))
      | none =>
        released (releases f.order) f.scope s fun s =>
          if bufferFull s then .wait
          else
            let o := opOf s .store 0x1C4 f
            match (s.cluster g).desc with
            | none => .wait
            | some d => .next (touchExch (lanes.foldl (freeBlock o g k d) s) g k)

/-- EXCHANGE_TIMEOUT (R298): 4 096 cycles have passed without a `FREE` of the class. -/
def execExchangeTimeout (g k : Nat) (s : State) : Host.Outcome State Fault Refusal :=
  .next (match Sparse.get? (s.cluster g).exch k with
    | some b => if b.last + 4096 ≤ s.cycle then sendBatch s g k else s
    | none => s)

/-- The owner pushes the blocks of a batch on its list in buffer order (R298); each link is a write at its home, which waits for the leases, copies
and locks there (09_memory_spaces R199, R302). -/
def pushBatch (g k : Nat) : List Nat → State → State
  | [], s => s
  | va :: r, s =>
    let x := s.cluster g
    let put (s : State) : State := s.setCluster g { s.cluster g with free := Sparse.set 0 (s.cluster g).free k va }
    match x.desc with
    | none => pushBatch g k r (put s)
    | some d =>
      if hwBlocked s (blockIa d va) 8 then (hwAsk s (blockIa d va) 8).post (s.cycle + 1) (.exchangeBatchReceive g k (va :: r))
      else match hwWrite s (blockIa d va) ⟨false, 0⟩ (toBytes 8 (listHead x k)) with
        | .ok t => pushBatch g k r (put t)
        | .error _ => pushBatch g k r (put s)

/-- EXCHANGE_BATCH_RECEIVE (R298). -/
def execExchangeBatchReceive (g k : Nat) (blocks : List Nat) (s : State) : Host.Outcome State Fault Refusal := .next (pushBatch g k blocks s)

end Sys2Proof.Machine
end

