-- ==== Sys2Proof/Machine/System.lean ====
section
/-! DEFINITION. System calls and their service, control registers, traps and returns, the S-lane's interrupts, inter-core interrupts and
debug stops (04_registers R88; 13_queues R277 to R284; 15_counters R324, R325, R327; 16_events R334 to R336, R340, R376). -/

namespace Sys2Proof.Machine

/-! ### System calls (R282) -/

/-- The ring admits `n` records of one `SYSCALL` (R281): no held record stands before them (R276), and nothing at their homes keeps the writes
waiting. See log entry 8 (DESIGN CHOICE). -/
def ringSpan (k : Core) (n : Nat) : List Nat := (List.range n).map fun i => areaOf k + 64 * ((k.tail.toNat + i) % 256)
def ringRoom (s : State) (c n : Nat) : Bool :=
  let k := s.core c
  decide (k.calls + n ≤ 224) && decide (k.count + n ≤ 256) && k.failed.isEmpty && k.held.isEmpty &&
  (ringSpan k n).all fun ia => !hwBlocked s ia 64 && !recordOut s ia

/-- The requester-side copies and leases that the next records of a ring in use wait for are asked to go (09 R200). -/
def askRing (s : State) (c n : Nat) : State :=
  if !coreOn s c then s else (ringSpan (s.core c) n).foldl (fun s ia => if hwBlocked s ia 64 then hwAsk s ia 64 else s) s

/-- `SYSCALL` (R282): the release wait, the admission, then a record for each thread in ascending lane order. -/
def execSyscall (f : Fields) (s : State) := issueX 0x1E0 f (askRing s s.selfCore s.warp.frontLanes.length) fun f s =>
  let w := s.warp
  let c := s.selfCore
  let on := w.active.filter (guardOf f w)
  let ls := on.filter w.live
  let helpers := ((on.filter fun l => !w.live l).map fun l => put64 f l f.d.toNat 0).flatten
  if !coreOn s c then .trap 0x06 0 (trapWords (encodeExt 0x1E0 f))
  else if ls.isEmpty then .next (land s s.cycle false helpers)
  else released true .cluster s fun s =>
    if !ringRoom s c ls.length then .wait
    else
      let s := ls.foldl (fun s l =>
        let args := (List.range 6).map fun i => (w.pair (srcNum f.a + 2 * i) l).toNat
        ringWrite s c (mkRecord 1 w.priv ((src32 f w l f.b).toNat % 65536) c w.wix l w.ctx args))
        (land s s.cycle false helpers)
      let w := s.warp
      let w := ls.foldl (fun w' l => w'.setThread l { w'.thread l with rpair := f.d, inCall := true, callAt := s.cycle })
        (w.advance (lenX f))
      .jump (s.setWarp (w.park (maskOf ls) .syscall).switch)

/-- A report of the cluster that goes to a core's ring. -/
def reportFor (s : State) (c : Nat) : Option Record := (s.cluster (c / 4)).reports.find? fun r => leBytes ((r.drop 4).take 2) == c

/-- Waiting records enter the ring while it has room (R281): held records in ascending slot order, then the cluster's. -/
def enterHeld (s : State) (c : Nat) : State := go s ((s.core c).held.length + (s.cluster (c / 4)).reports.length)
where
  go (s : State) : Nat → State
    | 0 => s
    | n + 1 =>
      let k := s.core c
      if !ringOpen s c then s
      else match k.held, reportFor s c with
        | (slot, r) :: _, _ => go (ringWrite (s.setCore c { k with held := Sparse.erase k.held slot }) c r) n
        | [], some r =>
          let x := s.cluster (c / 4)
          go (ringWrite (s.setCluster (c / 4) { x with reports := x.reports.erase r }) c r) n
        | [], none => s

/-- Something waits for room in a core's ring. -/
def heldWaits (s : State) (c : Nat) : Bool := !(s.core c).held.isEmpty || (reportFor s c).isSome

/-- Something waits for room in a core's ring, and there is room. -/
def wantsHeld (s : State) (c : Nat) : Bool := ringOpen s c && heldWaits s c

/-- Fronts that waited, stopped, behind their slot's held record: the first of each slot whose held record has entered the ring is held now
(R281). -/
def holdStalled (s : State) (c : Nat) : State :=
  (s.core c).stalled.foldl (fun s p =>
    let k := s.core c
    if (Sparse.get? k.held p.1).isSome then s
    else s.setCore c { k with held := Sparse.put k.held p.1 p.2, stalled := k.stalled.erase p }) s

/-- HELD_RECORD_ENTRY (R281). -/
def execHeldRecordEntry (c : Nat) (s : State) : Host.Outcome State Fault Refusal := .next (enterHeld s c)

/-- Sixteen writes of a record to a lane. -/
def recordWrites (d l x : Nat) : List Write := (List.range 16).map fun i => .reg (d + i) l (BitVec.ofNat 32 (x / 2 ^ (32 * i)))

/-- `SVPOP` (R283): each live thread takes the record at the head, if any remains; a kind-0 record lands after 6 cycles, a record
when its read of the ring's home has returned (R373), and is acquired then: nothing of the warp issues before (R216, R238; 16_events R341).
With nothing to take the threads park at the instruction. See log entry 11 (DEDUCED). -/
def execSvpop (f : Fields) (s : State) := issueX 0x1E1 f s fun f s =>
  let w := s.warp
  let c := s.selfCore
  let k := s.core c
  let ls := w.frontLanes
  let d := f.d.toNat
  let n := min k.count ls.length
  if k.count = 0 ∧ !k.ipiPend.getLsbD s.selfSlot then .jump (s.setWarp (w.park (maskOf ls) .svpop).switch)
  else
    let area := areaOf k
    let takers := (List.range n).zip (ls.take n)
    let lanes : List Lane := takers.map fun p =>
      let ia := area + 64 * ((k.head.toNat + p.1) % 256)
      { lane := p.2, va := ia, ia, size := 64, got := homeNat s ia 64 }
    let calls := (lanes.filter fun x => x.got % 256 == 1).length
    let pend := k.ipiPend &&& ~~~ BitVec.ofNat 64 (2 ^ s.selfSlot)
    let sl := if n = 0 then k.sl else { k.sl with queueLatch := false }
    let s := s.setCore c { k with head := k.head + BitVec.ofNat 8 n, count := k.count - n, calls := k.calls - calls, ipiPend := pend, sl }
    let rest := w.active.filter fun l => !(ls.take n).contains l
    let s := land s (s.cycle + 6) false (rest.map fun l => recordWrites d l 0).flatten
    if n = 0 then .next (s.setWarp { s.warp with lastAcq := s.now, fetched := none, fetching := none })
    else
      let parts := lanes.map fun x => ({ ia := x.ia, lanes := [x.lane] } : Leg)
      let o := { opOf s .svpop 0x1E1 f with lanes, parts, left := parts.length }
      let (id, s) := newOp s o
      let w := s.warp
      .next (sendLegs (s.setWarp { w with marks := Sparse.put w.marks id (marksOf 0x1E1 f), holds := some id }) id parts.length)

/-- A thread's read of its record is back (R283, R373); data in error fault the instruction (16_events R341). See log entry 11 (DEDUCED). -/
def respondSvpop (s : State) (id k : Nat) : State :=
  match s.op? id with
  | none => s
  | some o =>
    let p := o.part k
    let o : MemOp := { o with left := o.left - 1 }
    let s := modWarp s o.core o.slot fun w =>
      let w := w.applyAll ((o.lanes.filter fun x => p.lanes.contains x.lane && x.ok).map fun x => recordWrites o.f.d.toNat x.lane x.got).flatten
      { w with lastAcq := s.now, fetched := none, fetching := none }
    if o.left ≠ 0 then s.setOp id o
    else
      let s := modWarp (s.dropOp id) o.core o.slot fun w => { w with marks := Sparse.erase w.marks id, holds := none }
      match o.worst (s.warpAt o.core o.slot) with
      | some x => faultAt s o x false
      | none => s

/-! ### `SVDONE` (R284) -/

/-- The header in a thread's registers: KIND, WARP, LANE, CONTEXT. -/
def headerOf (w : Warp) (n l : Nat) : Nat × Nat × Nat × Nat :=
  let a := (w.reg n l).toNat
  let b := (w.reg (n + 1) l).toNat
  (a % 256, b / 2 ^ 16 % 256, b / 2 ^ 24, (w.pair (n + 2) l).toNat)

/-- A thread of this core by context, warp and lane: its slot. -/
def callerSlot (s : State) (c ctx wix : Nat) : Option Nat :=
  ((groupWarps s c ctx).find? fun p => p.2.wix == wix).map (·.1)

/-- The address lies in this package (R284). -/
def inPackage (s : State) (ia : Nat) : Bool := place s ia == .here && decide (iaDie ia < Config.dieCount s.part)

/-- Serve one record (R284): its caller parked here; a save area that holds the caller; or nothing. See log entry 11 (DEDUCED). -/
def serveCall (f : Fields) (s : State) (l : Nat) : State :=
  let w := s.warp
  let c := s.selfCore
  let (kind, wix, lane, ctx) := headerOf w (srcNum f.a) l
  if kind = 6 then prepareAgain s (ctx / 2 ^ 58)
  else
    let result := (src64 false f w l f.c).toNat
    let nobody (s : State) : State := countEvent s c 0x0C 1 (!w.priv)
    let saved (s : State) : State :=
      match f.b with
      | .reg _ =>
        let area := (src64 false f w l f.b).toNat
        let a := warpAreaAt area wix + 0x400 + 64 * lane
        if homeNat s area 8 = ctx ∧ homeNat s (a + 39) 1 / 2 % 2 = 1 then
          let bs := toBytes 8 result ++ toBytes 1 (homeNat s (a + 39) 1 ||| 1)
          pushStore s { opOf s .store 0x1E2 { f with order := .rel, scope := .pkg } with
            lanes := [{ lane := l, va := a + 31, ia := a + 31, size := 9, args := bs.map BitVec.toNat }] }
        else nobody s
      | _ => nobody s
    match callerSlot s c ctx wix with
    | some k =>
      let t := (s.warpAt c k).thread lane
      if isParked s c k lane .syscall ∧ t.inCall then
        let o : MemOp := { opOf s .svdone 0x1E2 f with
          slot := k, gen := (s.warpAt c k).gen, lanes := [{ lane, va := 0, ia := 0, size := 8, got := result }] }
        let (id, s) := newOp (modWarp s c k fun w => w.setThread lane { t with inCall := false }) o
        s.post (s.cycle + 6) (.loadResponse id 0)
      else saved s
    | none => saved s

/-- `SVDONE` (R284): its checks in every thread, the release wait, then each record in ascending lane order. -/
def execSvdone (f : Fields) (s : State) := issueX 0x1E2 f s fun f s =>
  let w := s.warp
  let ls := (w.active.filter (guardOf f w)).filter w.live
  let bad (l : Nat) : Bool :=
    let kind := (headerOf w (srcNum f.a) l).1
    (kind != 1 && kind != 6) || (match f.b with
      | .reg _ => !inPackage s (src64 false f w l f.b).toNat
      | _ => false)
  match ls.find? bad with
  | some l => .trap 0x02 0 (BitVec.ofNat 64 l)
  | none =>
    if ls.isEmpty then .next s
    else released true .cluster s fun s => .next (ls.foldl (serveCall f) s)

/-- The result reaches its caller, which wakes, once no copy holds the result pair (R284, R376; 04_registers R86; 15 R327); or the outcome of
a save reaches its asker (R337). -/
def respondSvdone (s : State) (id : Nat) : State :=
  match s.op? id with
  | none => s
  | some o =>
    let x := o.lanes.headD { lane := 0, va := 0, ia := 0, size := 8 }
    let t := (s.warpAt o.core o.slot).thread x.lane
    if !here s o then s.dropOp id
    else if copyHolds s (s.warpAt o.core o.slot) (if o.visit = 1 then [x.args.headD 0] else [t.rpair.toNat, t.rpair.toNat + 1]) then
      s.post (s.cycle + 1) (.loadResponse id 0)
    else if o.visit = 1 then
      wakeAsker (s.dropOp id) { core := o.core, slot := o.slot, lane := x.lane, reg := x.args.headD 0, len := x.args.getD 1 12 } x.got
    else
      let s := s.dropOp id
      let s := sample s o.core 4 (s.cycle - t.callAt)
      modWarp s o.core o.slot fun w =>
        let n := t.rpair.toNat
        let w := (w.setReg n x.lane (BitVec.ofNat 32 x.got)).setReg (n + 1) x.lane (BitVec.ofNat 32 (x.got / 2 ^ 32))
        { (w.wake [x.lane]) with lastAcq := s.now, fetched := none, fetching := none }

/-! ### `TRAP` and returns -/

/-- `TRAP` (R335): by the lowest lane whose guard is true, a helper among them. -/
def execTrap (f : Fields) (s : State) := issueX 0x1E3 f s fun f s =>
  match s.warp.active.find? (guardOf f s.warp) with
  | some l => .trap 0x15 0 ((src32 f s.warp l f.a).setWidth 64)
  | none => .next s

/-- `ERET` with both sources in mode 01 (R336). -/
def execEret (f : Fields) (s : State) := issueX 0x1E4 f s fun f s =>
  match returnFault s with
  | some t => .jump t
  | none => .trap 0x02 0 (trapWords (encodeExt 0x1E4 f))

/-- The stopped front that a header names: its slot and lanes; the flag tells a stop of the whole warp (R336, R340).
See log entry 31 (DEDUCED). -/
def stoppedFront (s : State) (c ctx wix lane : Nat) : Option (Nat × Mask × Bool) :=
  match callerSlot s c ctx wix with
  | none => none
  | some k =>
    let w := s.warpAt c k
    match w.fronts.find? fun f => hasLane f.lanes lane && f.wait == some .fault with
    | some f => some (k, f.lanes, false)
    | none => if w.debugStop then
        some (k, ((w.fronts.find? fun f => hasLane f.lanes lane).map (·.lanes)).getD 0, true)
      else none

/-- Resume a stopped front, or lift a debug stop (R336, R340): with `.STEP` the front issues one instruction. See log entry 31 (DEDUCED). -/
def resumeFront (s : State) (c k : Nat) (m : Mask) (whole step : Bool) (pc : Option Dword) : State :=
  modWarp s c k fun w =>
    let w := match pc with
      | some p => (lanesOf m).foldl (fun (w : Warp) l => let t := w.thread l; w.setThread l { t with pc := (t.pc >>> 64).setWidth 8 ++ p }) w
      | none => w
    let clear (f : Front) : Front := { f with stepping := 0 }
    let w := { w with debugStop := false, lastAcq := s.now, fetched := none, fetching := none, fronts := w.fronts.map clear }
    if whole then
      let mark (p : Front × Bool) : Front := if p.2 && step then { p.1 with stepping := p.1.lanes } else p.1
      { w with fronts := w.marked.map mark }
    else
      let drop (f : Front) : Front := if f.wait.isSome then { f with lanes := f.lanes &&& ~~~ m } else f
      let gone := w.fronts.map drop
      let new := (w.groupLanes (lanesOf m) []).map fun g => ({ lanes := g, stepping := if step then g else 0 } : Front)
      { w with fronts := gone ++ new }.settle

/-- The header form of `ERET` (R336): each live thread acts on its header, in ascending lane order. -/
def eretBody (step : Bool) (f : Fields) (s : State) : Act :=
  let w := s.warp
  let c := s.selfCore
  let ls := w.frontLanes
  let head (l : Nat) := headerOf w (srcNum f.a) l
  match ls.find? fun l => (head l).1 != 0 && (head l).1 != 2 && (head l).1 != 3 with
  | some l => .trap 0x02 0 (BitVec.ofNat 64 l)
  | none =>
    let found (s : State) (l : Nat) : Option (Nat × Mask × Bool) :=
      let (kind, wix, lane, ctx) := head l
      if kind = 0 then none else stoppedFront s c ctx wix lane
    released (ls.any fun l => (found s l).isSome) .pkg s fun s =>
      let (s, out) := ls.foldl (fun (acc : State × List Write) l =>
        match found acc.1 l with
        | none => (acc.1, acc.2 ++ [Write.reg f.d.toNat l 1])
        | some (k, m, whole) =>
          let pc := match f.b with | .reg _ => some (src64 false f w l f.b) | _ => none
          (resumeFront acc.1 c k m whole step pc, acc.2 ++ [Write.reg f.d.toNat l 0])) (s, [])
      .next (land s s.cycle false out)

def execEretHeader (f : Fields) (s : State) := issueX 0x1E4 f s (eretBody false)
def execEretStep (f : Fields) (s : State) := issueX 0x1E4 f s (eretBody true)

/-! ### Control registers (R88) -/

/-- A 72-bit value's halves. -/
def loHalf (a : Va) : Dword := a.setWidth 64
def hiHalf (a : Va) : Dword := (a >>> 64).setWidth 64
def withLo (a : Va) (x : Dword) : Va := (a >>> 64).setWidth 8 ++ x
def withHi (a : Va) (x : Dword) : Va := x.setWidth 8 ++ a.setWidth 64

/-- An event counter's value (R325): a mirror reads the counter it mirrors. See log entry 34 (DEDUCED). -/
def pmcRead (s : State) (c i : Nat) : Dword :=
  let p : Pmc := Sparse.get {} (s.core c).pmcs i
  if p.evt = 0xF0 then (s.core c).reserved
  else if p.evt = 0xF1 then (s.die (c / 48)).conflict
  else if p.evt = 0xF2 then (s.slice (c / 48 * 48 + p.unit)).overflow
  else p.count

/-- PMSEL as it reads (R325). -/
def pmselRead (k : Core) : Dword :=
  let p : Pmc := Sparse.get {} k.pmcs k.pmsel.toNat
  BitVec.ofNat 64 (k.pmsel.toNat + 2 ^ 16 * p.evt + 2 ^ 24 * p.unit + 2 ^ 30 * p.uonly.toNat + 2 ^ 31 * p.en.toNat)

/-- An index of a capture unit (R327). -/
def captRead (u : Capture) (i : Nat) : Dword :=
  match i with
  | 0 => u.cfg
  | 1 => u.min
  | 2 => u.max
  | 3 => u.samples
  | j => BitVec.ofNat 64 ((List.range 4).foldr (fun b x => Sparse.get 0 u.bins (4 * (j - 4) + b) + 65536 * x) 0)

/-- The value of a control register as the executing warp reads it (R88). -/
def ctrlRead (s : State) (i : Nat) : Dword :=
  let w := s.warp
  let c := s.selfCore
  let k := s.core c
  let vec := if s.onSl then k.sl.trapvec else k.trapvec
  let range (n : Nat) : RangeReg := Sparse.get {} w.ranges n
  if i = 0x000 then BitVec.ofNat 64 (statusWord w)
  else if i = 0x001 then BitVec.ofNat 64 (k.pick.toNat + 2 * k.chkdef.toNat)
  else if i = 0x010 then Config.caps s.part
  else if i = 0x011 then BitVec.ofNat 64 Config.mwake
  else if i = 0x020 then loHalf vec
  else if i = 0x021 then hiHalf vec
  else if i = 0x022 then w.trap.cause.setWidth 64
  else if i = 0x023 then loHalf w.trap.pc
  else if i = 0x024 then hiHalf w.trap.pc
  else if i = 0x025 then loHalf w.trap.addr
  else if i = 0x026 then hiHalf w.trap.addr
  else if i = 0x027 then w.trap.info
  else if i = 0x030 then k.svqbase
  else if i = 0x031 then k.pollint.setWidth 64
  else if i = 0x040 then k.timecmp
  else if i = 0x041 then k.leaselen.setWidth 64
  else if i = 0x042 then k.gateidle.setWidth 64
  else if i = 0x050 then w.tenant.setWidth 64
  else if i < 0x088 then (range (i - 0x080)).base
  else if i < 0x090 then (range (i - 0x088)).lim
  else if i < 0x098 then (range (i - 0x090)).map
  else if i = 0x100 then pmselRead k
  else if i < 0x120 then pmcRead s c (i - 0x110)
  else captRead (Sparse.get {} k.capts ((i - 0x120) / 8)) ((i - 0x120) % 8)

/-- `CRD` (R335, R373). -/
def execCrd (f : Fields) (s : State) := issueX 0x1E5 f s fun f s =>
  let i := f.idx
  let x := ctrlRead s i
  slow f s (s.cycle + 6) fun _ l =>
    if wideIdx i then put64 f l f.d.toNat x else put32 f l f.d.toNat (x.setWidth 32)

/-- Event codes of R325 that are not reserved. -/
def evtListed (e : Nat) : Bool := decide (e ≤ 0x13) || (decide (0xF0 ≤ e) && decide (e ≤ 0xF2))

/-- A value that a `CWR` may not write (R88, R277, R300, R325, R327). -/
def ctrlBad (s : State) (i : Nat) (v : Dword) : Bool :=
  let x := v.toNat
  let w := s.warp
  let k := s.core s.selfCore
  if i = 0x000 then x / 8 != 0 || x % 2 != w.priv.toNat || (!s.onSl && x / 4 % 2 != 0)
  else if i = 0x001 then x / 4 != 0
  else if i = 0x021 ∨ i = 0x022 ∨ i = 0x024 ∨ i = 0x026 then x / 256 != 0
  else if i = 0x030 then
    x / 2 % 2 ^ 15 != 0 || (k.svqbase.getLsbD 0 && k.count != 0 && x / 65536 != k.svqbase.toNat / 65536)
  else if i = 0x031 ∨ i = 0x041 then x / 65536 != 0 || x == 0
  else if i = 0x050 then x / 65536 != 0
  else if 0x080 ≤ i ∧ i < 0x098 then rangeBad s ((i - 0x080) / 8) v
  else if i = 0x100 then x / 2 ^ 32 != 0 || x / 16 % 2 ^ 12 != 0 || !evtListed (x / 2 ^ 16 % 256) || decide (47 < x / 2 ^ 24 % 64)
  else if 0x120 ≤ i ∧ i % 8 = 0 then
    x / 2 ^ 14 % 2 ^ 49 != 0 || decide (7 < x % 256) || decide (48 < x / 256 % 64)
  else false

/-- Write a register of the executing warp, or of the S-lane's own copies (R88): none for a per-core register. -/
def ctrlWarp (s : State) (i : Nat) (v : Dword) : Option State :=
  let w := s.warp
  let k := s.core s.selfCore
  let t := w.trap
  let set (t : Trap) : Option State := some (s.setWarp { w with trap := t })
  let range (n : Nat) (g : RangeReg → RangeReg) : Option State :=
    some (s.setWarp { w with ranges := Sparse.put w.ranges n (g (Sparse.get {} w.ranges n)) })
  let vec (g : Va → Va) : Option State :=
    if s.onSl then some (s.setCore s.selfCore { k with sl := { k.sl with trapvec := g k.sl.trapvec } }) else none
  if i = 0x000 then some (s.setWarp { w with chk := v.getLsbD 1, ie := v.getLsbD 2 })
  else if i = 0x020 then vec fun a => withLo a v
  else if i = 0x021 then vec fun a => withHi a v
  else if i = 0x022 then set { t with cause := v.setWidth 8 }
  else if i = 0x023 then set { t with pc := withLo t.pc v }
  else if i = 0x024 then set { t with pc := withHi t.pc v }
  else if i = 0x025 then set { t with addr := withLo t.addr v }
  else if i = 0x026 then set { t with addr := withHi t.addr v }
  else if i = 0x027 then set { t with info := v }
  else if i = 0x050 then some (s.setWarp { w with tenant := v.setWidth 16 })
  else if 0x080 ≤ i ∧ i < 0x088 then range (i - 0x080) fun r => { r with base := v }
  else if 0x088 ≤ i ∧ i < 0x090 then range (i - 0x088) fun r => { r with lim := v }
  else if 0x090 ≤ i ∧ i < 0x098 then range (i - 0x090) fun r => { r with map := v }
  else none

/-- `CWR` of an index (R88, R335): per-warp copies at once, per-core registers from the next cycle. See log entry 44 (DEDUCED). -/
def cwrBody (f : Fields) (s : State) : Act :=
  let w := s.warp
  let i := f.idx
  match actor f w with
  | none => .next s
  | some l =>
    let v := if wideIdx i then src64 false f w l f.a else (src32 f w l f.a).setWidth 64
    if ctrlBad s i v then .trap 0x02 0 (trapWords (encodeExt 0x1E6 f))
    else match ctrlWarp s i v with
      | some t => .next t
      | none => .next { s with late := s.late ++ [(s.selfCore, i, v)] }

def execCwr (f : Fields) (s : State) := issueX 0x1E6 f s cwrBody
/-- SVQBASE_WRITE: `CWR` of SVQBASE (R277). -/
def execSvqbaseWrite (f : Fields) (s : State) := issueX 0x1E6 f s cwrBody
/-- TIMECMP_WRITE: `CWR` of TIMECMP (R324). -/
def execTimecmpWrite (f : Fields) (s : State) := issueX 0x1E6 f s cwrBody
/-- PMSEL_WRITE: `CWR` of PMSEL (R325). -/
def execPmselWrite (f : Fields) (s : State) := issueX 0x1E6 f s cwrBody
/-- MIRROR_COUNTER_WRITE: `CWR` of an event counter (R325). -/
def execMirrorCounterWrite (f : Fields) (s : State) := issueX 0x1E6 f s cwrBody

/-! ### SVQBASE and the cluster (R277, R278) -/

/-- A cluster descriptor, if it keeps the rules of R278. -/
def descOf (x : Nat) : Option Desc :=
  let d : Desc := { tipLog := fieldAt x 41 1, ashift := fieldAt x 40 1, tipIa := fieldAt x 32 8, winIa := fieldAt x 24 8, winVa := fieldAt x 8 9 }
  if fieldAt x 42 22 = 0 ∧ fieldAt x 17 7 = 0 ∧ fieldAt x 0 8 = 0 ∧ 8 ≤ d.tipLog ∧ d.tipLog ≤ 20 ∧ 16 ≤ d.ashift ∧ d.ashift ≤ 34 ∧
     d.tipIa % 256 = 0 ∧ d.winVa % 2 ^ 64 % 2 ^ d.ashift = 0 then some d else none

/-- The cluster starts: it reads its descriptor (R277, R278). Equal window fields keep the allocator. See log entry 20 (DESIGN CHOICE). -/
def startCluster (s : State) (g : Nat) : State :=
  let c := 4 * g
  let ia := areaOf (s.core c) + 0x4000
  let x := s.cluster g
  let refuse (cause info : Nat) : State :=
    slEnter (s.setCluster g { x with running := false }) c cause (s.warpAt c 64).pc (BitVec.ofNat 72 ia) (BitVec.ofNat 64 info)
  let s := hwSeen s ia 64
  match hwRead s ia 64 ⟨false, 0⟩ with
  | .error (cause, a) => refuse cause (hwInfo s cause a)
  | .ok bs => match descOf (leBytes bs) with
    | none => refuse 0x02 0
    | some d =>
      let same := match x.desc with
        | some o => o.ashift == d.ashift && o.winIa == d.winIa && o.winVa == d.winVa
        | none => false
      let x := { x with desc := some d, running := true, refused := [], asked := [], stealAt := 0 }
      s.setCluster g (if same then x else { x with free := [], exch := [], carve := arenaOf d g })

/-- The cluster stops (R277): reservations go back. -/
def stopCluster (s : State) (g : Nat) : State :=
  let s := requeueGang s g
  s.setCluster g { s.cluster g with running := false }

/-- The records whose write failed are written again, in one attempt (R277). -/
def retryRecord (s : State) (c : Nat) : State :=
  (s.core c).failed.foldl (fun s r => ringWrite s c r) (s.setCore c { s.core c with failed := [] })

/-- SVQBASE takes a value; one that starts the cluster waits while the read of the descriptor must wait for A of its page (R302). -/
def setSvqbase (s : State) (c : Nat) (v : Dword) : State :=
  let was := coreOn s c
  let desc := areaOf { s.core c with svqbase := v } + 0x4000
  if c % 4 = 0 ∧ !was ∧ v.getLsbD 0 ∧ hwReadWaits s desc 64 then { (hwReadAsk s desc 64) with late := s.late ++ [(c, 0x030, v)] } else
  let s := retryRecord (s.setCore c { s.core c with svqbase := v }) c
  if c % 4 ≠ 0 then s
  else if !was && v.getLsbD 0 then startCluster s (c / 4)
  else if was && !v.getLsbD 0 then stopCluster s (c / 4)
  else s

/-- Program an event counter (R325). -/
def setPmsel (s : State) (c : Nat) (v : Dword) : State :=
  let x := v.toNat
  let k := s.core c
  let i := x % 16
  let p : Pmc := { (Sparse.get {} k.pmcs i : Pmc) with
    en := v.getLsbD 31, uonly := v.getLsbD 30, unit := x / 2 ^ 24 % 64, evt := x / 2 ^ 16 % 256 }
  s.setCore c { k with pmsel := BitVec.ofNat 4 i, pmcs := Sparse.put k.pmcs i p }

/-- Write an event counter, or the counter it mirrors (R325). See log entry 34 (DEDUCED). -/
def pmcWrite (s : State) (c i : Nat) (v : Dword) : State :=
  let k := s.core c
  let p : Pmc := Sparse.get {} k.pmcs i
  if p.evt = 0xF0 then s.setCore c { k with reserved := v }
  else if p.evt = 0xF1 then s.setDie (c / 48) { s.die (c / 48) with conflict := v }
  else if p.evt = 0xF2 then
    let n := c / 48 * 48 + p.unit
    s.setSlice n { s.slice n with overflow := v }
  else s.setCore c { k with pmcs := Sparse.put k.pmcs i { p with count := v } }

/-- Write an index of a capture unit (R327). -/
def captWrite (u : Capture) (i : Nat) (v : Dword) : Capture :=
  match i with
  | 0 => { u with cfg := v }
  | 1 => { u with min := v }
  | 2 => { u with max := v }
  | 3 => { u with samples := v }
  | j => { u with bins := (List.range 4).foldl (fun m b => Sparse.put m (4 * (j - 4) + b) (v.toNat / 65536 ^ b % 65536)) u.bins }

/-- A per-core register takes a value (R88, R335). -/
def ctrlCore (s : State) (c i : Nat) (v : Dword) : State :=
  let k := s.core c
  if i = 0x001 then
    let forget (p : Nat × Quarter) : Nat × Quarter := (p.1, { p.2 with holder := none, count := 0, ptr := none })
    let quarters := if v.getLsbD 0 = k.pick then k.quarters else k.quarters.map forget
    s.setCore c { k with pick := v.getLsbD 0, chkdef := v.getLsbD 1, quarters }
  else if i = 0x020 then s.setCore c { k with trapvec := withLo k.trapvec v }
  else if i = 0x021 then s.setCore c { k with trapvec := withHi k.trapvec v }
  else if i = 0x030 then setSvqbase s c v
  else if i = 0x031 then s.setCore c { k with pollint := v.setWidth 16 }
  else if i = 0x040 then s.setCore c { k with timecmp := v }
  else if i = 0x041 then s.setCore c { k with leaselen := v.setWidth 16 }
  else if i = 0x042 then s.setCore c { k with gateidle := v.setWidth 32 }
  else if i = 0x100 then setPmsel s c v
  else if 0x110 ≤ i ∧ i < 0x120 then pmcWrite s c (i - 0x110) v
  else if 0x120 ≤ i ∧ i < 0x140 then
    let u : Capture := Sparse.get {} k.capts ((i - 0x120) / 8)
    s.setCore c { k with capts := Sparse.put k.capts ((i - 0x120) / 8) (captWrite u ((i - 0x120) % 8) v) }
  else s

/-- The writes of the last cycle take effect, in order of issue; a management command, whose index is marked by 0x10000, stands over
them (17_platform R358). See log entry 23 (DEDUCED). -/
def applyLate (s : State) : State :=
  let own := s.late.filter fun x => decide (x.2.1 < 0x10000)
  let cmd := s.late.filter fun x => decide (0x10000 ≤ x.2.1)
  (own ++ cmd).foldl (fun s x => ctrlCore s x.1 (x.2.1 % 0x10000) x.2.2) { s with late := [] }

/-! ### The S-lane's interrupts (R334) -/

/-- The first pending source: cause and TRAPINFO. -/
def pendingSource (s : State) (c : Nat) : Option (Nat × Dword) :=
  let k := s.core c
  let queue := decide (0 < k.count) && !k.sl.queueLatch
  if k.timecmp.toNat ≤ s.now then some (0x20, 0)
  else if k.sl.ipiLatch || queue then
    some (0x22, BitVec.ofNat 64 (2 ^ 33 * k.sl.ipiLatch.toNat + 2 ^ 32 * queue.toNat + k.sl.sender % 256))
  else match k.sl.msgs with
    | m :: _ => some (0x21, m.setWidth 64)
    | [] => none

/-- The S-lane may take an interrupt: it runs, its die is awake (17_platform R359), and it stands at an instruction boundary: it is neither
parked nor held at an instruction that has issued. -/
def slReady (s : State) (c : Nat) : Bool :=
  let k := s.core c
  let w := s.warpAt c 64
  k.sl.started && !k.sl.halted && !asleep s c && w.ie && checked s w && !w.held && w.fronts.any (·.wait.isNone)

/-- Take the first pending source. -/
def slTake (s : State) (c : Nat) : State :=
  match pendingSource s c with
  | none => s
  | some (cause, info) =>
    let k := s.core c
    let sl := if cause = 0x22 then { k.sl with ipiLatch := false, queueLatch := k.sl.queueLatch || decide (0 < k.count) }
      else if cause = 0x21 then { k.sl with msgs := k.sl.msgs.drop 1 } else k.sl
    let s := s.setCore c { k with sl }
    slEnter s c cause (s.warpAt c 64).pc 0 info

/-- S_LANE_INTERRUPT_ENTRY (R334). -/
def execSLaneInterruptEntry (c : Nat) (s : State) : Host.Outcome State Fault Refusal :=
  .next (if slReady s c && !(s.core c).sl.wfi then slTake s c else s)

/-- The S-lane leaves its `WFI` when a source is pending (R335). -/
def wakeWfi (s : State) (c : Nat) : State :=
  let k := s.core c
  if k.sl.wfi && !k.sl.halted && !asleep s c && (pendingSource s c).isSome then
    let s := s.setCore c { k with sl := { k.sl with wfi := false } }
    let s := modWarp s c 64 fun w => w.setPcs [0] ((w.thread 0).pc + 12)
    if slReady s c then slTake s c else s
  else s

/-- WFI_WAKE (R335): with IE the source is taken then. -/
def execWfiWake (c : Nat) (s : State) : Host.Outcome State Fault Refusal := .next (wakeWfi s c)

/-- TIMER_EXPIRY (R324): the timer is pending from now on; the S-lane takes it if it may. -/
def execTimerExpiry (c : Nat) (s : State) : Host.Outcome State Fault Refusal :=
  .next (let s := wakeWfi s c
    if slReady s c && !(s.core c).sl.wfi then slTake s c else s)

/-- `WFI` (R335): the S-lane stops at it until a source is pending. -/
def execWfi (f : Fields) (s : State) := issueX 0x1EB f s fun _ s =>
  let c := s.selfCore
  if (pendingSource s c).isSome then .next s
  else
    let k := s.core c
    .jump (s.setCore c { k with sl := { k.sl with wfi := true } })

/-! ### Inter-core interrupts (R335, R376) -/

/-- Send an `IPI` of a kind. See log entry 31 (DEDUCED). -/
def ipiBody (kind : Nat) (f : Fields) (s : State) : Act :=
  match actor f s.warp with
  | none => .next s
  | some l =>
    let a := (src32 f s.warp l f.a).toNat
    let target := a % 256
    let slot := a / 256 % 64
    let c := s.selfCore
    if Config.cores s.part ≤ target ∨ (kind = 2 ∧ slot ≠ 0) then .trap 0x02 0 (trapWords (encodeExt 0x1EC f))
    else .next (sendOn s (5000000 + c * 256 + target) (if target = c then 4 else outward s c target) (.ipiDelivery kind target slot c))

def execIpiWake (f : Fields) (s : State) := issueX 0x1EC f s (ipiBody 0)
def execIpiStop (f : Fields) (s : State) := issueX 0x1EC f s (ipiBody 1)
def execIpiSl (f : Fields) (s : State) := issueX 0x1EC f s (ipiBody 2)

/-! ### Debug stops (R246, R340) -/

/-- The stop that a warp has been asked for takes effect once its atomics are done (R246): one record for the whole warp.
See log entry 31 (DEDUCED). -/
def debugStopNow (s : State) (c k : Nat) : State :=
  let w := s.warpAt c k
  match w.stopReq with
  | none => s
  | some ipi =>
    let busy := w.holds.isSome || (opsOf s c w.gen).any fun p => p.2.kind.isAtomic || p.2.kind == .depsig ||
      (p.2.kind == .red && (p.2.stage == 1 || p.2.stage == 2))
    if busy || !checked s w then s
    else if w.single || w.liveLanes.isEmpty then s.setWarpAt c k { w with stopReq := none }
    else
      let l := w.liveLanes.headD 0
      let pc := if w.front?.isSome then w.pc else (w.thread l).pc
      let info : Nat := ipi.toNat
      let trap : Trap := { cause := 0x13, pc, addr := 0, info := BitVec.ofNat 64 info }
      let r := mkRecord 2 w.priv 0 c w.wix l w.ctx (trapArgs 0x13 false true (maskOf w.liveLanes) pc.toNat 0 info 0 0)
      pushTrap (s.setWarpAt c k { w with stopReq := none, debugStop := true, trap := w.trapOf s c k l trap, opbuf := [] }) c k r

/-- `BKPT` (R335, R340). -/
def execBkpt (f : Fields) (s : State) := issueX 0x1ED f s fun f s =>
  let w := s.warp
  if w.frontLanes.any (guardOf f w) then
    if s.onSl then .trap 0x13 0 0
    else .jump (debugStopNow (s.setWarp { w with stopReq := some false }) s.selfCore s.selfSlot)
  else .next s

/-- IPI_DELIVERY (R283, R334, R335): `.WAKE`, `.STOP`, `.SL`. -/
def execIpiDelivery (kind c slot sender : Nat) (s : State) : Host.Outcome State Fault Refusal :=
  if Config.cores s.part ≤ c then .fault .absentUnit
  else
    let k := s.core c
    .next (match kind with
      | 0 =>
        let s := s.setCore c { k with ipiPend := k.ipiPend ||| BitVec.ofNat 64 (2 ^ slot) }
        if (Sparse.get? k.warps slot).isSome then modWarp s c slot fun w => w.wake (lanesOf (w.parkedFor .svpop)) else s
      | 1 =>
        if (Sparse.get? k.warps slot).isSome ∧ slot < 64 then
          debugStopNow (modWarp s c slot fun w => if w.debugStop then w else { w with stopReq := some true }) c slot
        else s
      | _ => s.setCore c { k with sl := { k.sl with ipiLatch := true, sender } })

/-! ### Sleep, saved calls and captures -/

/-- SLEEP_WAKE (R173): threads whose deadline has come. -/
def execSleepWake (c k : Nat) (s : State) : Host.Outcome State Fault Refusal :=
  .next (modWarp s c k fun w =>
    w.wake ((lanesOf (w.parkedFor .sleep)).filter fun l => decide ((w.thread l).deadline.toNat ≤ s.now)))

/-- A thread of the warp sleeps and its deadline has come. -/
def sleepDue (s : State) (w : Warp) : Bool :=
  (lanesOf (w.parkedFor .sleep)).any fun l => decide ((w.thread l).deadline.toNat ≤ s.now)

/-- SAVED_SYSCALL_WAKE (R284). -/
def execSavedSyscallWake (c k l : Nat) (s : State) : Host.Outcome State Fault Refusal := .next (savedWake s c k l)

/-- CAPTURE_PERIOD_SAMPLE (R327): every 1 024 cycles. -/
def execCapturePeriodSample (c : Nat) (s : State) : Host.Outcome State Fault Refusal :=
  .next (sample (sample s c 5 (s.cluster (c / 4)).bank.length) c 7 (s.core c).count)

end Sys2Proof.Machine
end

