-- ==== Sys2Proof/Machine/Context.lean ====
section
/-! DEFINITION. Saving, ending and loading a group on request, registers that grow and shrink, eviction, and the safe-point overrun
(02_execution_model R47 to R49; 04_registers R90; 16_events R337 to R339). -/

namespace Sys2Proof.Machine

/-! ### `CTXSV.ARM` and `CTXSV.REQ` (R337) -/

/-- The group that holds a warp slot of the executing core. -/
def slotGroup (s : State) (k : Nat) : Option Nat :=
  if k < 64 then (Sparse.get? (s.core s.selfCore).warps k).map (·.ctx) else none

/-- The operands of a `CTXSV` in each live thread: lane, area, context; or the fault. -/
def armOperands (f : Fields) (s : State) : Except Act (List (Nat × Nat × Nat)) :=
  let w := s.warp
  let ls := w.frontLanes
  match operandCheck s w .write 65536 false (ls.map fun l => (l, vaOf f w l)) with
  | .error e => .error (operandFault .write e)
  | .ok xs =>
    let got := xs.filterMap fun x => (slotGroup s (src32 f w x.1 f.c).toNat).map fun ctx => (x.1, x.2.2.getD 0, ctx)
    if got.length = xs.length then .ok got else .error (.trap 0x02 0 (trapWords (encodeExt 0x1E9 f)))

/-- Set SAVEAREA of a group. -/
def armGroup (s : State) (ctx ia : Nat) : State :=
  match s.group? ctx with
  | some g => s.setGroup ctx { g with saveArea := ia }
  | none => s

def execCtxsvArm (f : Fields) (s : State) := issueX 0x1E9 f s fun f s =>
  match armOperands f s with
  | .error a => a
  | .ok xs => .next (xs.foldl (fun s x => armGroup s x.2.2 x.2.1) s)

/-- Ask for the save of a group (R337); when every resident warp has a region entry it is to be discarded (R185), and its warps issue
nothing more. -/
def askSave (s : State) (ctx : Nat) (a : Asker) : State :=
  match s.group? ctx with
  | none => s
  | some g =>
    let idem := if g.saveReq then g.idem else allIdempotent s ctx
    let s := s.setGroup ctx { g with saveReq := true, askers := g.askers ++ [a], idem }
    if idem then
      (groupWarps s g.core ctx).foldl (fun s p => modWarp s g.core p.1 fun w => { w with saving := some 0 }) s
    else s

def execCtxsvReq (f : Fields) (s : State) := issueX 0x1E9 f s fun f s =>
  match armOperands f s with
  | .error a => a
  | .ok xs =>
    let s := xs.foldl (fun s x => askSave (armGroup s x.2.2 x.2.1) x.2.2
      { core := s.selfCore, slot := s.selfSlot, lane := x.1, reg := f.d.toNat, len := lenX f }) s
    .jump (s.setWarp (s.warp.park (maskOf (xs.map (·.1))) .ctxsv).switch)

/-- SAFEPOINT_OVERRUN (R337): cause 0x11 after the 4 096th issue; the warp is to be saved with every block live, its record of kind 2.
See log entry 28 (DEDUCED). -/
def execSafepointOverrun (c k : Nat) (s : State) : Host.Outcome State Fault Refusal :=
  .next (match Sparse.get? (s.core c).warps k with
    | none => s
    | some w =>
      let m := if w.front?.isSome then w.frontMask else maskOf w.liveLanes
      let pc := (w.thread (Warp.lowest m)).pc
      let trap : Trap := { cause := 0x11, pc, addr := 0, info := 4096 }
      let w' := if w.front?.isSome then (w.park m .fault).switch else w
      pushTrap (s.setWarpAt c k { w' with trap := w.trapOf s c k (Warp.lowest m) trap, opbuf := [], saving := some (BitVec.allOnes 64) }) c k
        (mkRecord 2 w.priv 0 c w.wix (Warp.lowest m) w.ctx (trapArgs 0x11 false false m pc.toNat 0 4096 0 0)))

/-! ### The saved group in memory (R311 to R313) -/

/-- The sett's fields that a group header keeps (R312). -/
def headerSett (x : Nat) : Sett :=
  { arg := fieldAt x 8 4, warps := fieldAt x 13 1, threads := fieldAt x 14 2, regs := fieldAt x 16 2, accs := fieldAt x 18 1,
    ctl := fieldAt x 19 1, tenant := fieldAt x 20 2, lmask := fieldAt x 22 1, gang := fieldAt x 23 1, doneVa := fieldAt x 24 9 }
def headerCtx (x : Nat) : Nat := fieldAt x 0 8
def headerDone (x : Nat) : Nat := fieldAt x 40 8
def headerIdem (x : Nat) : Bool := fieldAt x 66 1 % 2 == 1
def headerMask (x : Nat) : List Nat := (List.range 32).filter fun k => fieldAt x 68 4 / 2 ^ k % 2 = 1
def headerResident (x : Nat) : Bool := fieldAt x 72 1 % 2 == 1
def headerEnded (x : Nat) : Bool := fieldAt x 72 1 / 2 % 2 == 1

/-- A reserved bit of a thread record is set (R313). -/
def recordBad (x : Nat) : Bool :=
  x / 2 ^ 79 % 2 != 0 || decide (4 < x / 2 ^ 80 % 8) || x / 2 ^ 114 % 64 != 0 || x / 2 ^ 315 % 32 != 0 || x / 2 ^ 329 % 128 != 0 ||
  x / 2 ^ 336 != 0

/-- A reserved bit of a team frame is set, or of a reconvergence entry (R9, R309, R311, R312). Log entry 12. -/
def frameBad (x : Nat) : Bool :=
  x % 256 / 2 != 0 || x / 2 ^ 8 % 256 / 32 != 0 || x / 2 ^ 96 % 256 / 16 != 0 || x / 2 ^ 120 % 256 != 0 ||
  ((List.range 32).any fun k => x / 2 ^ (128 + 8 * k) % 256 / 64 != 0) || x / 2 ^ 384 != 0
def entryBad (x : Nat) : Bool := x % 256 / 2 != 0 || x / 2 ^ 120 % 256 / 64 != 0 || x / 2 ^ 128 != 0

/-- A reserved bit of a warp area is set (R9, R88, R300, R312): STATUS, the trap registers, TENANT, the deferred fault, the counts, the range
registers, the bytes that no field takes, the thread records and the reconvergence entries. -/
def warpBad (s : State) (a : Nat) : Bool :=
  let get (o n : Nat) : Nat := homeNat s (a + o) n
  get 0 8 / 8 != 0 || get 8 8 / 2 ^ 8 != 0 || get 16 16 / 2 ^ 72 != 0 || get 32 16 / 2 ^ 72 != 0 || get 56 8 / 2 ^ 16 != 0 ||
  decide (64 < get 0x90 8) || get 0xA0 16 / 2 ^ 72 % 2 ^ 55 != 0 || decide (64 < get 0xB0 8) || get 0xB8 8 / 2 != 0 || get 0xC0 64 != 0 ||
  get 0x1C0 64 != 0 || get 0x330 208 != 0 ||
  ((List.range 24).any fun i => rangeBad s (i % 3) (BitVec.ofNat 64 (get (0x100 + 8 * i) 8))) ||
  get 0x60 8 / 2 ^ 8 % 2 ^ 55 != 0 || get 0x68 16 / 2 ^ 72 != 0 || get 0x78 16 / 2 ^ 72 != 0 || get 0x88 8 != 0 ||
  (lanes32.any fun l => recordBad (get (0x400 + 64 * l) 64)) || lanes32.any fun i => entryBad (get (0xC00 + 32 * i) 32)

/-- A reserved bit of the header, of a team frame, of a slot header, of the bytes beside them or of a warp area is set, or the mask names a
warp the group does not have (R9, R311, R338). A slot that the group has not, and each slot of a discarded group, has no header. -/
def areaBad (s : State) (ia x : Nat) : Bool :=
  fieldAt x 33 7 != 0 || fieldAt x 48 16 != 0 || fieldAt x 66 1 / 2 != 0 || fieldAt x 67 1 != 0 || fieldAt x 72 1 / 4 != 0 ||
  fieldAt x 73 439 != 0 || homeNat s (ia + 0x1300) 0xD00 != 0 || (headerMask x).any (fun k => decide ((headerSett x).warps ≤ k)) ||
  ((List.range 16).any fun i => frameBad (homeNat s (ia + 0x200 + 256 * i) 256)) ||
  ((List.range 16).any fun n =>
    let y := homeNat s (ia + 0x1200 + 16 * n) 16
    if headerIdem x ∨ (headerSett x).accs ≤ n then y != 0 else y / 2 ^ 5 % 8 != 0 || y / 2 ^ 14 % 2 != 0 || y / 2 ^ 16 != 0) ||
  (headerMask x).any fun k => warpBad s (warpAreaAt ia k)

/-- What a load reads of an area: address and length. -/
def areaSpans (s : State) (ia : Nat) : List (Nat × Nat) := (ia, 0x22000) :: (headerMask (homeNat s ia 512)).map fun k => (warpAreaAt ia k, 0x12000)

/-- The pages of an area that a load reads fail a check of R193, or bytes of it are in error (R341): the cause, and the failing address. -/
def areaCheck (s : State) (ia : Nat) : Option (Nat × Nat) :=
  match hwCheck s ia 0x22000 ⟨false, 0⟩ true with
  | some p => some p
  | none => match (areaSpans s ia).findSome? fun p => hwCheck s p.1 p.2 ⟨false, 0⟩ false with
    | some p => some p
    | none => ((areaSpans s ia).findSome? fun p => hwErr s p.1 p.2).map fun a => (0x12, a)

/-- A load must wait: A of a page of the area for leases and copies of its entry, or RESIDENT for those of its line (R302; 09 R199). -/
def areaWaits (s : State) (ia : Nat) : Bool :=
  ((areaSpans s ia).any fun p => hwReadWaits s p.1 p.2) || hwBlocked s (ia + 72) 1
def areaAsk (s : State) (ia : Nat) : State :=
  hwAsk ((areaSpans s ia).foldl (fun s p => hwReadAsk s p.1 p.2) s) (ia + 72) 1

/-- The areas that the operand of a `CTXSV` or a `CTXLD` names in the live threads of the front. -/
def areaOperands (f : Fields) (s : State) : List Nat :=
  let w := s.warp
  match operandCheck s w .both 65536 false (w.frontLanes.map fun l => (l, vaOf f w l)) with
  | .ok xs => xs.map fun x => x.2.2.getD 0
  | .error _ => []

/-- The gang that a group belongs to. -/
def gangOf (s : State) (ctx : Nat) : Nat :=
  match s.gangs.find? fun p => p.2.members.any fun m => m.1 == ctx with
  | some p => p.1
  | none => ctx

/-! ### `CTXSV.END` (R339) -/

/-- End a resident group for the executing front: the front waits until the completion update has been performed. -/
def endResident (f : Fields) (s : State) (ctx : Nat) : Act :=
  let o := { opOf s .done 0x1E9 f with
    lanes := s.warp.frontLanes.map fun l => ({ lane := l, va := 0, ia := 0, size := 0 } : Lane) }
  let (id, s) := newOp s o
  let w := s.warp
  let s := s.setWarp { w with marks := Sparse.put w.marks id (marksOf 0x1E9 f), holds := some id }
  .next (askEnd s ctx f.sub.toNat (some id))

/-- End the group that an area records: stores that it saved are not made. See log entry 28 (DEDUCED). -/
def endSaved (f : Fields) (s : State) (ia x : Nat) : Act :=
  let o := { opOf s .done 0x1E9 f with
    lanes := s.warp.frontLanes.map fun l => ({ lane := l, va := 0, ia := 0, size := 0 } : Lane) }
  let (id, s) := newOp s o
  let w := s.warp
  let s := s.setWarp { w with marks := Sparse.put w.marks id (marksOf 0x1E9 f), holds := some id }
  let ctx := headerCtx x
  let s := areaWrite (dropLeases s ctx) (ia + 72) [BitVec.ofNat 8 (fieldAt x 72 1 + 2)]
  let buf := match Sparse.get? s.ghosts ctx with
    | some x => (x.warps.map fun (p : Nat × Warp) => p.2.storeBuf).flatten
    | none => []
  let s := buf.foldl State.dropOp { s with ghosts := Sparse.erase s.ghosts ctx }
  let s := gangEnded s (gangOf s ctx) ctx
  .next (completion s s.selfCore ctx (headerSett x) (headerDone x) f.sub.toNat (some id))

/-- What an end of a saved group waits for in its area is asked to go (R200, R302). -/
def endAsk (f : Fields) (s : State) : State :=
  match soleLane s.warp with
  | some l =>
    if (src32 f s.warp l f.c).toNat = 0xFFFFFFFF then (areaOperands f s).foldl (fun s ia => hwAsk (hwReadAsk s ia 512) (ia + 72) 1) s else s
  | none => s

/-- See log entry 28 (DEDUCED). -/
def execCtxsvEnd (f : Fields) (s : State) :=
  issueX 0x1E9 f (endAsk f s) fun f s =>
  let w := s.warp
  let words := trapWords (encodeExt 0x1E9 f)
  let answer (s : State) (v : Word) : Act := .next (land s (s.cycle + 6) false (s.warp.active.map fun l => .reg f.d.toNat l v))
  match soleLane w with
  | none => .wait
  | some l =>
    let c := (src32 f w l f.c).toNat
    if f.sub = 0 then .trap 0x02 0 words
    else if c < 64 then
      match slotGroup s c with
      | none => released true .sys s fun s => answer s 1
      | some ctx =>
        if !s.onSl ∧ ctx = w.ctx then .trap 0x02 0 words
        else if (match s.group? ctx with | some g => g.ending.isSome | none => false) then .wait
        else released true .sys s fun s => endResident f s ctx
    else if c = 0xFFFFFFFF then
      match operandCheck s w .both 65536 false [(l, vaOf f w l)] with
      | .error e => operandFault .both e
      | .ok xs =>
        let ia := (xs.headD (0, 0, none)).2.2.getD 0
        match hwCheck s ia 512 ⟨!w.priv, w.tenant.toNat⟩ true with
        | some (cause, a) => .trap cause (BitVec.ofNat 72 (vaOf f w l)) (memInfo l true false false (rfmtAt s a cause))
        | none => released true .sys s fun s =>
            let x := homeNat s ia 512
            if hwReadWaits s ia 512 then .wait
            else if headerResident x || headerEnded x then answer (hwSeen s ia 512) 2
            else if hwBlocked s (ia + 72) 1 then .wait
            else endSaved f (hwSeen s ia 512) ia x
    else .trap 0x02 0 words

/-! ### `CTXLD` (R338) -/

/-- A slot header of an area: residue mode, owner warp. -/
def slotHeader (s : State) (ia n : Nat) : Bool × Option Nat :=
  let y := homeNat s (ia + 0x1200 + 16 * n) 16
  (y / 16 % 2 == 1, if y / 2 ^ 15 % 2 = 1 then some (y / 256 % 64) else none)

/-- The cells of a slot of an area. -/
def savedCells (s : State) (ia n : Nat) : Sparse Word :=
  (List.range 2048).foldl (fun m i => Sparse.set 0 m i (BitVec.ofNat 32 (homeNat s (ia + 0x2000 + 8192 * n + 4 * i) 4))) []

/-- Put a saved slot into a physical slot of the core. -/
def placeSlot (s : State) (c ctx ia n p : Nat) (fresh : Bool) : State :=
  let (residue, owner) := slotHeader s ia n
  let k := s.core c
  let at_ := owner.bind fun j => ((groupWarps s c ctx).find? fun q => q.2.wix == j).map (·.1)
  let a : Acc := if fresh then { group := some ctx } else { cells := savedCells s ia n, residue, group := some ctx, owner := at_ }
  s.setCore c { k with accs := Sparse.put k.accs p a }

/-- The slot that a warp takes on its return (R39): after the quarter of the resident warp of the group below it. -/
def returnSlot (s : State) (c ctx k : Nat) : Nat :=
  let used := ((s.core c).warps.filter fun p => p.1 != 64).map (·.1)
  let below := (groupWarps s c ctx).filter fun p => decide (p.2.wix < k)
  let prev := (below.foldl (fun (b : Option (Nat × Nat)) p => match b with
    | some q => if q.2 < p.2.wix then some (p.1, p.2.wix) else some q
    | none => some (p.1, p.2.wix)) none).map fun q => quarterOf q.1
  (takeSlots 1 used prev).headD 0

/-- A warp that is resident again is no longer one of the saved ones (10_ordering R234). -/
def takeGhost (s : State) (ctx k : Nat) : State :=
  match Sparse.get? s.ghosts ctx with
  | some x => { s with ghosts := Sparse.put s.ghosts ctx { x with warps := Sparse.erase x.warps k } }
  | none => s

/-- Load warps of an area in ascending index; a system call that is done is a sample of its turnaround (15 R327). -/
def loadWarps (s : State) (c ctx ia : Nat) (g : Group) (ks : List Nat) : State :=
  ks.foldl (fun s k =>
    let (w, buf) := readWarp s g ctx ia k
    let s := takeGhost s ctx k
    let done (l : Nat) : Bool :=
      let x := homeNat s (warpAreaAt ia k + 0x400 + 64 * l) 40
      (x / 2 ^ 80 % 256 == 2 + 8 * Park.code .syscall || x / 2 ^ 80 % 256 == 2 + 8 * Park.code .saved) && x / 2 ^ 312 % 2 == 1
    let s := (lanes32.filter done).foldl (fun s l => sample s c 4 (s.cycle - (w.thread l).callAt)) s
    placeLoaded s c (returnSlot s c ctx k) w buf) s

/-- Blocks of a saved warp. -/
def savedBlocks (s : State) (ia k : Nat) : Nat := homeNat s (warpAreaAt ia k + 0x90) 1 % 128

/-- A core has room for saved warps and slots (R31, R338). -/
def roomSaved (s : State) (c ia accs : Nat) (ks : List Nat) : Bool :=
  decide (ks.length ≤ freeSlotsOn s c) && decide ((ks.map (savedBlocks s ia)).foldl (· + ·) 0 ≤ freeBlocksOn s c) &&
  decide (accs ≤ freeAccsOn s c)

/-- Load a whole saved group (R338, first row); what its barriers and calls waited for may be there now (R55, R175, R180). See log entry 28 (DEDUCED). -/
def loadGroup (s : State) (c ia x : Nat) : State :=
  let ctx := headerCtx x
  let sett := headerSett x
  let idem := headerIdem x
  let ghost : Ghost := Sparse.get {} s.ghosts ctx
  let frames : Sparse Frame := if idem then [] else (List.range 16).filterMap fun i =>
    if fieldAt x 64 2 / 2 ^ i % 2 = 1 then
      (frameOfNat (homeNat s (ia + 0x200 + 256 * i) 256) (Sparse.get? ghost.frames i)).map fun f => (i, f)
    else none
  let phys := (freeAccs (s.core c)).take sett.accs
  let ks := headerMask x
  let gone := (List.range sett.present).filter fun k => !ks.contains k
  let key := gangOf s ctx
  let g : Group :=
    { core := c, gang := key, index := fieldAt x 12 1, sett, doneIa := headerDone x, saveArea := ia
      slots := (List.range phys.length).zip phys, frames, exited := gone.foldl (fun m k => withWarp m k) 0 }
  let s := loadWarps (s.setGroup ctx g) c ctx ia g ks
  let s := ((List.range phys.length).zip phys).foldl (fun s p => placeSlot s c ctx ia p.1 p.2 idem) s
  let move (m : Nat × Nat) : Nat × Nat := if m.1 = ctx then (ctx, c / 48) else m
  let s := match Sparse.get? s.gangs key with
    | some y => { s with gangs := Sparse.put s.gangs key { y with members := y.members.map move } }
    | none => s
  groupCheck (areaWrite { s with ghosts := Sparse.erase s.ghosts ctx } (ia + 72) [BitVec.ofNat 8 (fieldAt x 72 1 + 1)]) c ctx

/-- Load the evicted warps of a resident group (R49, R89, R338, second row), and see what waited for them (R55, R175, R180). -/
def loadEvicted (s : State) (c ia : Nat) (ctx : Nat) (g : Group) (ks names : List Nat) : State :=
  let phys := (freeAccs (s.core c)).take names.length
  let back := names.zip phys
  let g' := { g with
    saveArea := ia, slotsSaved := g.slotsSaved.filter fun n => !names.contains n, evicted := 0
    away := g.away.filter fun p => !ks.contains p.1
    slots := back.foldl (fun m p => Sparse.put m p.1 p.2) g.slots }
  let s := loadWarps (s.setGroup ctx g') c ctx ia g' ks
  groupCheck (back.foldl (fun s p => placeSlot s c ctx ia p.1 p.2 false) s) c ctx

/-- One `CTXLD` (R338): its result and what it does. -/
def loadOne (s : State) (ia : Nat) : State × Nat :=
  let c := s.selfCore
  let x := homeNat s ia 512
  let s := (areaSpans s ia).foldl (fun s p => hwSeen s p.1 p.2) s
  let ctx := headerCtx x
  if headerEnded x then (s, 3)
  else if !coreOn s c then (s, 1)
  else if !headerResident x then
    if roomSaved s c ia (headerSett x).accs (headerMask x) then (loadGroup s c ia x, 0) else (s, 1)
  else match s.group? ctx with
    | some g =>
      if g.core ≠ c then (s, 2)
      else
        let ks := (List.range 32).filter fun k => g.evicted.getLsbD k
        let names := g.slotsSaved.filter fun n => (Sparse.get? g.slots n).isNone
        if roomSaved s c ia names.length ks then (loadEvicted s c ia ctx g ks names, 0) else (s, 1)
    | none => (s, 2)

/-- `CTXLD` (R338): each live thread in ascending lane order. See log entry 28 (DEDUCED). -/
def execCtxld (f : Fields) (s : State) := issueX 0x1EA f ((areaOperands f s).foldl areaAsk s) fun f s =>
  let w := s.warp
  let ls := w.frontLanes
  match operandCheck s w .both 65536 false (ls.map fun l => (l, vaOf f w l)) with
  | .error e => operandFault .both e
  | .ok xs =>
    let ias := xs.map fun x => (x.1, x.2.1, x.2.2.getD 0)
    let bad := ias.findSome? fun p =>
      let x := homeNat s p.2.2 512
      match areaCheck s p.2.2 with
      | some (c, a) => some (c, p.2.1, p.1, a)
      | none => if areaBad s p.2.2 x then some (0x02, p.2.1, p.1, 0) else none
    if ias.any fun p => areaWaits s p.2.2 then .wait
    else match bad with
    | some (c, va, l, a) => if c = 0x02 then .trap 0x02 0 (trapWords (encodeExt 0x1EA f))
        else if c = 0x12 then .trap c (BitVec.ofNat 72 va) (BitVec.ofNat 64 (hwInfo s c a + 256 * l))
        else .trap c (BitVec.ofNat 72 va) (memInfo l true false false (rfmtAt s a c))
    | none =>
      let (s, out) := ias.foldl (fun (acc : State × List Write) p =>
        let (t, v) := loadOne acc.1 p.2.2
        (t, acc.2 ++ [Write.reg f.d.toNat p.1 (BitVec.ofNat 32 v)])) (s, [])
      .next (land s (s.cycle + 6) false out)

/-! ### Growing and shrinking (R47, R90) -/

/-- The blocked requests of a core in the order of R47: slot and warp. -/
def growQueue (s : State) (c : Nat) : List (Nat × Warp) :=
  let ws := (s.core c).warps.filter fun p => p.2.grow.isSome && !groupEnding s p.2
  let since (p : Nat × Warp) : Nat := match p.2.grow with | some x => x.2 | none => 0
  sortOn (fun p => if p.2.priv then 0 else 1) (sortOn (fun p => 3 - p.2.prio) (sortOn since ws))

/-- The first request that can be granted in full. -/
def growNext (s : State) (c : Nat) : Option (Nat × Nat) :=
  match growQueue s c with
  | (k, w) :: _ => match w.grow with
    | some (n, _) => if n ≤ freeBlocksOn s c then some (k, n) else none
    | none => none
  | [] => none

/-- A grant (R90): the new blocks hold 0, and the front goes on. -/
def growWarp (w : Warp) (n : Nat) : Warp :=
  { (w.advance 12) with
    blocks := w.blocks + n, grow := none, regs := w.regs.filter fun p => decide (p.1 / 32 < 8 * w.blocks)
    regErrs := w.regErrs.filter fun p => decide (p / 32 < 8 * w.blocks), tags := w.tags.filter fun p => decide (p.1 < w.blocks) }

/-- Grant in order until a request cannot be granted. -/
def grantAll (s : State) (c : Nat) : State := go s 64
where
  go (s : State) : Nat → State
    | 0 => s
    | i + 1 => match growNext s c with
      | some (k, n) => go (modWarp s c k fun w => growWarp w n) i
      | none => s

/-- REGGROW_GRANT (R47). -/
def execReggrowGrant (c : Nat) (s : State) : Host.Outcome State Fault Refusal := .next (grantAll s c)

/-- `REGGROW` (R90): the warp is blocked until its request is granted, at the earliest in the next cycle. See log entry 28 (DEDUCED). -/
def execReggrow (f : Fields) (s : State) := issueX 0x1EE f s fun f s =>
  let w := s.warp
  let n := f.sub.toNat
  if !(w.frontLanes.any (guardOf f w)) then .next s
  else if 64 < w.blocks + n then .trap 0x02 0 (BitVec.ofNat 64 n)
  else .jump (s.setWarp { w with grow := some (n, s.cycle) })

/-- Something of the warp still writes or reads a register of blocks `lo` and up (R75, R90), a fixed-latency write that is still to land among them.
See log entry 54 (DESIGN CHOICE). -/
def blocksBusy (w : Warp) (lo : Nat) : Bool :=
  (w.pend.any fun p => p.regs.any fun n => decide (8 * lo ≤ n)) ||
  (w.marks.any fun m => (m.2.regs ++ m.2.busy).any fun n => decide (8 * lo ≤ n))

/-- Give up the blocks from `lo` up. -/
def shrinkWarp (w : Warp) (lo : Nat) : Warp :=
  { w with
    blocks := lo, regs := w.regs.filter fun p => decide (p.1 / 32 < 8 * lo), regErrs := w.regErrs.filter fun p => decide (p / 32 < 8 * lo)
    tags := w.tags.filter fun p => decide (p.1 < lo)
    opbuf := w.opbuf.filter fun e => decide (e.reg < 8 * lo) }

/-- `REGSHRINK` (R90). The freed blocks are offered from the next cycle on. -/
def execRegshrink (f : Fields) (s : State) := issueX 0x1EF f s fun f s =>
  let w := s.warp
  let n := f.sub.toNat
  if !(w.frontLanes.any (guardOf f w)) then .next s
  else if w.blocks ≤ n then .trap 0x02 0 (BitVec.ofNat 64 n)
  else if blocksBusy w (w.blocks - n) then .wait
  else .next (s.setWarp (shrinkWarp w (w.blocks - n)))

/-! ### Eviction (R48) -/

/-- The warp that a core evicts, when it must: lowest priority, youngest, highest slot of those blocked in `REGGROW`. -/
def victimSlot (s : State) (c : Nat) : Option Nat :=
  let ws := (s.core c).warps.filter fun p => p.1 != 64
  let stuck (w : Warp) : Bool := w.grow.isSome || !(w.fronts.any Warp.ready)
  let asked := ws.filter fun p => p.2.grow.isSome
  if asked.isEmpty || !(ws.all fun p => stuck p.2) || (growNext s c).isSome then none
  else (asked.foldl (fun (b : Option (Nat × Warp)) p => match b with
    | none => some p
    | some q => if p.2.prio < q.2.prio ∨ (p.2.prio = q.2.prio ∧ q.2.stamp ≤ p.2.stamp) then some p else some q) none).map (·.1)

/-- EVICTION (R48, R89, R338): the warp is saved with every block live; its slots are saved and freed; a record of kind 4 reports it. A
group without a save area is ended instead, cause 0x04. See log entry 11 (DEDUCED). -/
def evict (s : State) (c k : Nat) : State :=
  let w := s.warpAt c k
  match s.group? w.ctx with
  | none => s
  | some g =>
    let names := ownedNames s g k
    let parts := saveParts g w names
    if g.saveArea = 0 then askEnd s w.ctx 0x04 none
    else if !drained s c k then s
    else if !partsOpen s parts then askParts s parts
    else
      let s := saveWarp (s.setGroup w.ctx { g with evicted := withWarp g.evicted w.wix }) c k (2 ^ 64 - 1) true
      let mine := (g.slots.filter fun q => names.contains q.1).map (·.2)
      let x := s.core c
      let clear (p : Nat × Acc) : Nat × Acc := if mine.contains p.1 then (p.1, {}) else p
      let s := s.setCore c { x with accs := x.accs.map clear }
      let s := match s.group? w.ctx with
        | some h =>
          let h := { h with slots := h.slots.filter fun q => !names.contains q.1 }
          writeHeader (s.setGroup w.ctx h) w.ctx h (h.evicted ||| h.saved) false true
        | none => s
      let lost := losesData s g w (2 ^ 64 - 1) [] || names.any fun n => match Sparse.get? g.slots n with
        | some p => !((Sparse.get {} x.accs p : Acc).errs.isEmpty)
        | none => false
      let s := countEvent s c 0x0D 1 (!w.priv)
      pushReport s c (mkRecord 4 w.priv 0 c w.wix (w.liveLanes.headD 0) w.ctx
        (trapArgs (if lost then 0x12 else 0) false false (maskOf w.liveLanes) 0 0 0 0 g.saveArea))

def execEviction (c : Nat) (s : State) : Host.Outcome State Fault Refusal :=
  .next (match victimSlot s c with
    | some k => evict s c k
    | none => s)

/-- An eviction can be made now. -/
def wantsEviction (s : State) (c : Nat) : Bool :=
  match victimSlot s c with
  | some k => match s.group? (s.warpAt c k).ctx with
    | some g => g.ending.isNone && (g.saveArea == 0 || drained s c k)
    | none => false
  | none => false

end Sys2Proof.Machine
end

