-- ==== Sys2Proof/Machine/Matrix.lean ====
section
/-! DEFINITION. The matrix unit (12_matrix_and_copy R251 to R268): accumulator slots, the loop queue and its sequencer, bench
gating, and reading results out. -/

namespace Sys2Proof.Machine

/-! ### Slots (R253, R265) -/

/-- The slot that an instruction names: word 2 bits 21:18 (R256). -/
def accName (f : Fields) : Nat := f.clsBits 0 4

def State.acc (s : State) (c p : Nat) : Acc := Sparse.get {} (s.core c).accs p
def State.setAcc (s : State) (c p : Nat) (a : Acc) : State :=
  s.setCore c { s.core c with accs := Sparse.put (s.core c).accs p a }

/-- The physical slot of a name that the executing warp owns (R253). -/
def ownedSlot (s : State) (n : Nat) : Option Nat :=
  match s.group? s.warp.ctx with
  | none => none
  | some g =>
    if g.sett.accs ≤ n then none
    else match Sparse.get? g.slots n with
      | some p => if (s.acc s.selfCore p).owner = some s.selfSlot then some p else none
      | none => none

/-- A slot is held: by a loop, or for a fixed time (R262, R265, R268). -/
def slotHeld (s : State) (p : Nat) : Bool :=
  decide (s.cycle < (s.acc s.selfCore p).busy) || s.warp.marks.any fun m => m.2.slots.contains p

/-- The fault of a slot (R253). -/
def slotFault (n : Nat) : Act := .trap 0x16 0 (BitVec.ofNat 64 n)

/-- A loop of this warp has stopped at data in error: the next instruction that names the slot faults, once (16_events R341). -/
def stoppedAt (s : State) (p : Nat) : Option Act :=
  let a := s.acc s.selfCore p
  match a.stopped with
  | some (gen, info) =>
    let t := s.setAcc s.selfCore p { a with stopped := none }
    if gen = s.warp.gen then some (.jump (takeFault t { cause := 0x12, info := BitVec.ofNat 64 info, pc := s.warp.pc })) else none
  | none => none

/-- A slot in residue mode is used on a part without residue arithmetic (00_scope R3). -/
def residueAbsent (s : State) (p : Nat) : Bool := (s.acc s.selfCore p).residue && !Config.residue s.part

/-- A free slot that the warp owns, before the instruction's own effect: the fault of a loop that stopped (16_events R341). -/
def freeSlot (s : State) (p : Nat) (k : Nat → State → Act) : Act :=
  if slotHeld s p then .wait else (stoppedAt s p).getD (k p s)

/-- What an instruction does with a slot its warp owns, once it is free. See log entry 22 (DEDUCED). -/
def withSlot (f : Fields) (s : State) (k : Nat → State → Act) : Act :=
  match ownedSlot s (accName f) with
  | none => slotFault (accName f)
  | some p => freeSlot s p k

/-- A waiter in `MACQ`: its residency and where it waits. -/
def waiterKey (w : Warp) : Nat := w.gen * 2 ^ 72 + w.pc.toNat

/-- The waiters of a name that still wait, oldest first. -/
def waiters (s : State) (g : Group) (n : Nat) : List Nat :=
  (Sparse.get [] g.slotWaits n).filter fun x =>
    (s.core g.core).warps.any fun p => waiterKey p.2 == x && p.2.front?.isSome

/-- A warp that comes to `MACQ` of a slot it cannot take waits in order of issue (R265). -/
def noteWaiter (f : Fields) (s : State) : State :=
  let n := accName f
  let w := s.warp
  match (if s.onSl ∨ !mayIssue s w 0x180 then none else s.group? w.ctx) with
  | none => s
  | some g =>
    let q := waiters s g n
    if g.sett.accs ≤ n ∨ (ownedSlot s n).isSome ∨ q.contains (waiterKey w) then s
    else s.setGroup w.ctx { g with slotWaits := Sparse.put g.slotWaits n (q ++ [waiterKey w]) }

/-- `MACQ` (R265). -/
def execMacq (f : Fields) (s : State) := issueX 0x180 f (noteWaiter f s) fun f s =>
  let n := accName f
  let w := s.warp
  match s.group? w.ctx with
  | none => slotFault n
  | some g =>
    if g.sett.accs ≤ n then slotFault n
    else match ownedSlot s n with
    | some p => freeSlot s p fun _ s => .next s
    | none =>
    if g.slotsSaved.contains n then .wait
    else match Sparse.get? g.slots n with
      | none => .wait
      | some p =>
        let a := s.acc s.selfCore p
        if a.owner.isSome ∨ (waiters s g n).head? ≠ some (waiterKey w) then .wait
        else
          let s := s.setGroup w.ctx { g with slotWaits := Sparse.put g.slotWaits n ((waiters s g n).drop 1) }
          .next (s.setAcc s.selfCore p { a with owner := some s.selfSlot })

/-- `MREL` (R265). -/
def execMrel (f : Fields) (s : State) := issueX 0x181 f s fun f s => withSlot f s fun p s =>
  .next (s.setAcc s.selfCore p { s.acc s.selfCore p with owner := none })

/-- `MZERO` (R265). -/
def execMzero (f : Fields) (s : State) := issueX 0x182 f s fun f s => withSlot f s fun p s =>
  .next (s.setAcc s.selfCore p { s.acc s.selfCore p with cells := [], errs := [], residue := f.ty == .rn30 })

/-- The first register of a list that a warp does not hold (R64). -/
def missingReg (w : Warp) (rs : List Nat) : Option Nat := rs.find? fun n => !w.holdsReg n

/-- Keep registers busy for a time, so that no instruction reads or writes them (R75, R265): an operation that ends then. See log entry 22
(DEDUCED). -/
def holdRegs (s : State) (op : Nat) (f : Fields) (regs : List Nat) (cycles : Nat) : State :=
  let (id, s) := newOp s (opOf s .mst op f)
  (s.setWarp { s.warp with marks := Sparse.put s.warp.marks id { regs } }).post (s.cycle + cycles) (.loadResponse id 0)

/-- The first of some registers whose data are in error in a lane of a list: TRAPINFO of cause 0x12 (16_events R341). -/
def errRegs (w : Warp) (ls rs : List Nat) : Option Dword :=
  if w.regErrs.isEmpty then none
  else ls.findSome? fun l => (rs.find? fun n => w.regErrs.contains (n * 32 + l)).map (errInfo 1 l)

/-- The first cell of a row of a slot that is in error (16_events R341). -/
def errCell (a : Acc) (i : Nat) : Option Dword :=
  if a.errs.isEmpty then none else ((List.range 64).find? fun j => a.errs.contains (64 * i + j)).map (errInfo 5 i)

/-- The cells that 64 registers of every lane make, raw (R265). -/
def loadCells (w : Warp) (va : Nat) : Sparse Word :=
  lanes32.foldl (fun m i => (List.range 64).foldl (fun m j => Sparse.set 0 m (64 * i + j) (w.reg (va + j) i)) m) []

/-- `MLDACC` (R265). -/
def execMldacc (f : Fields) (s : State) := issueX 0x187 f s fun f s =>
  match ownedSlot s (accName f) with
  | none => slotFault (accName f)
  | some p =>
    let va := srcNum f.a
    let regs := (List.range 64).map (va + ·)
    match missingReg s.warp regs with
    | some n => .trap 0x04 0 (BitVec.ofNat 64 n)
    | none =>
      freeSlot s p fun p s =>
        match errRegs s.warp lanes32 regs with
        | some i => .trap 0x12 0 i
        | none =>
          let a := s.acc s.selfCore p
          let s := s.setAcc s.selfCore p
            { a with cells := loadCells s.warp va, errs := [], residue := f.ty == .rn30, busy := s.cycle + 24 }
          .next (holdRegs s 0x187 f regs 24)

/-! ### Loops: operands and checks (R257 to R261) -/

/-- The operands of a loop (R257). -/
structure LoopArgs where
  va : Nat
  off : Nat
  core : Nat
  steps : Nat
  incA : Nat
  incB : Nat
  nb : Nat
deriving DecidableEq, Repr

def loopArgs (op : Nat) (f : Fields) (w : Warp) : LoopArgs :=
  let l := (soleLane w).getD 0
  let boff := (src32 f w l f.b).toNat
  let ctl := if op = 0x184 then 1 else (src32 f w l f.c).toNat
  { va := srcNum f.a, off := boff % 65536, core := boff / 2 ^ 24, steps := ctl % 65536, incA := ctl / 2 ^ 16 % 64,
    incB := ctl / 2 ^ 24, nb := f.clsBits 4 2 + 1 }

/-- First A register, and B offset, of a step. -/
def LoopArgs.regAt (x : LoopArgs) (k : Nat) : Nat := x.va + 8 * x.incA * k
def LoopArgs.offAt (x : LoopArgs) (k : Nat) : Nat := x.off + 64 * x.incB * k

/-- The format of a step's A blocks, by its first block. -/
def LoopArgs.tagAt (x : LoopArgs) (w : Warp) (k : Nat) : Nat := w.tag (x.regAt k / 8)

/-- Elements per chunk and chunks of a step (R259). -/
def chunkOf (t : Ty) : Nat × Nat :=
  match t with
  | .bf16 | .f16 => (8, 12)
  | .e2m3 | .e3m2 => (32, 8)
  | .e2m1 | .i4s => (32, 12)
  | _ => (16, 12)

/-- Registers of MX scales in a step (R259, R260). -/
def scaleRegs (tag : Nat) : Nat :=
  if isMx tag then (match fmtTy tag with | some .e2m1 => 3 | _ => 2) else 0

/-- The A registers of a step, the scale registers included (R259). -/
def LoopArgs.regsOf (x : LoopArgs) (w : Warp) (k : Nat) : List Nat :=
  (List.range (48 + scaleRegs (x.tagAt w k))).map (x.regAt k + ·)

/-- The A registers of a loop, each once. -/
def LoopArgs.regs (x : LoopArgs) (w : Warp) : List Nat :=
  (List.range 512).filter fun n => (List.range x.steps).any fun k =>
    decide (x.regAt k ≤ n) && decide (n < x.regAt k + 48 + scaleRegs (x.tagAt w k))

/-- The core whose bank a loop reads (R258). -/
def LoopArgs.bank (x : LoopArgs) (c : Nat) : Nat := if x.core = 0 then c else x.core - 1

/-- A core holds a group of a gang (R258). -/
def inGang (s : State) (gang c : Nat) : Bool := s.groups.any fun p => p.2.gang == gang && p.2.core == c

/-- The operand limits, in order (R261 check 4), for every step: TRAPINFO of the first that is broken. -/
def LoopArgs.limit (x : LoopArgs) (s : State) (w : Warp) : Option Nat :=
  let mx := (List.range x.steps).any fun k => isMx (x.tagAt w k)
  let top (k : Nat) : Nat := if isMx (x.tagAt w k) then 0xF000 else 65536
  if x.steps = 0 ∨ 4096 < x.steps then some (x.steps + 2 ^ 17)
  else if x.core ≠ 0 ∧ !(inGang s (match s.group? w.ctx with | some g => g.gang | none => w.ctx) (x.core - 1)) then
    some (x.off + 2 ^ 16)
  else if x.off % (if mx then 192 else 64) ≠ 0 ∨ (mx ∧ x.incB % 3 ≠ 0) then some x.off
  else ((List.range x.steps).find? fun k => decide (top k < x.offAt k + 192)).map fun k => x.offAt k % 65536

/-- Formats that multiply with each other (R259). -/
def pairs (a b : Ty) : Bool :=
  let eight (t : Ty) : Bool := t == .e4m3 || t == .e5m2
  let six (t : Ty) : Bool := t == .e2m3 || t == .e3m2
  (eight a && eight b) || (six a && six b) || (a == b && (a == .bf16 || a == .f16 || a == .i8 || a == .e2m1 || a == .i4s))

/-- The formats of a step when its tags form a pair of the table (R259). -/
def LoopArgs.fmtsAt (x : LoopArgs) (s : State) (c : Nat) (w : Warp) (residue : Bool) (k : Nat) : Option (Nat × Nat) :=
  let a := x.tagAt w k
  let tiles := (s.core (x.bank c)).tileTags
  let o := x.offAt k
  let b := Sparse.get 0 tiles (o / 1024)
  let oneA := (List.range 6).all fun i => w.tag (x.regAt k / 8 + i) == a
  let oneB := Sparse.get 0 tiles ((o + 191) / 1024) == b
  match fmtTy a, fmtTy b with
  | some ta, some tb =>
    let ok := if residue then !isMx a && !isMx b && ta == tb && (ta == .i8 || ta == .i4s) else isMx a == isMx b && pairs ta tb
    if oneA && oneB && ok then some (a, b) else none
  | _, _ => none

/-- Reads that the registers of a loop make, for the checks of R75 and R76. -/
def loopUses (rs : List Nat) : Uses := { readR := rs }

/-- Issue a loop (R261, R262). It is not ready while a register of its steps, whose tag the checks read, or its slot is held busy
(R41, R75). See log entry 22 (DEDUCED). -/
def loopBody (op : Nat) (f : Fields) (s : State) : Act :=
  let w := s.warp
  let c := s.selfCore
  let n := accName f
  let x := loopArgs op f w
  match ownedSlot s n with
  | none => slotFault n
  | some p =>
    let rs := x.regs w
    if scoreboard w (loopUses rs) ∨ slotHeld s p then .wait
    else match (List.range x.steps).findSome? fun k => missingReg w (x.regsOf w k) with
    | some r => .trap 0x04 0 (BitVec.ofNat 64 r)
    | none =>
      if earlyUse w s.cycle (loopUses rs) .locked then .trap 0x05 0 (trapWords (encodeExt op f))
      else if residueAbsent s p then .trap 0x06 0 (trapWords (encodeExt op f))
      else match (stoppedAt s p).or ((x.limit s w).map fun i => .trap 0x17 0 (BitVec.ofNat 64 i)) with
      | some a => a
      | none =>
        let fs := (List.range x.steps).map (x.fmtsAt s c w (s.acc c p).residue)
        if fs.any Option.isNone then .trap 0x0D 0 0
        else match errRegs w lanes32 rs with
        | some i => .trap 0x12 0 i
        | none =>
          let k := s.core c
          if 8 ≤ k.loopq.length then .wait
          else
            let lead := match (s.group? w.ctx).bind fun g => Sparse.get? s.gangs g.gang with
              | some g => if g.cls = 0 then 100 else 300
              | none => 100
            let l : Loop := { slot := s.selfSlot, gen := w.gen, ctx := w.ctx, user := !w.priv, acc := p, va := x.va, off := x.off,
                              bankCore := x.bank c, steps := x.steps, incA := x.incA, incB := x.incB, nb := x.nb,
                              fmts := fs.filterMap id, id := s.nextId, issued := s.cycle, lead }
            let first := k.loopq.isEmpty
            let l := if first then { l with reads := [(0, s.cycle)] } else l
            let s := s.setCore c { k with loopq := k.loopq ++ [l] }
            let s := { s.setWarp { w with marks := Sparse.put w.marks l.id { busy := rs, slots := [p] } } with nextId := l.id + 1 }
            .next (if first then s.post (s.cycle + 4) (.matrixLoopStart c) else s)

def execMloop (f : Fields) (s : State) := issueX 0x183 f s (loopBody 0x183)
def execMstep (f : Fields) (s : State) := issueX 0x184 f s (loopBody 0x184)

/-! ### Steps (R260, R263) -/

/-- The elements of 192 bytes, decoded and scaled, and how many were reserved. `scale` gives the scale byte of block `q`. -/
def stepElems (tag : Nat) (bs : List Byte) (scale : Nat → Nat) : List Val × Nat :=
  let t := (fmtTy tag).getD .e4m3
  let (g, ch) := chunkOf t
  let dec := (List.range (g * ch)).map fun e => (e, (elemOf t).decode (elemAt t.elemBits bs e))
  (dec.map fun p => if isMx tag then mxValue t (scale (p.1 / 32)) p.2.1 else p.2.1, (dec.filter fun p => p.2.2).length)

/-- Bytes of registers of a lane, in register order. -/
def regBytes (w : Warp) (l r n : Nat) : List Byte := ((List.range n).map fun i => toBytes 4 (w.reg (r + i) l).toNat).flatten

/-- Row `i` of A in a step (R259, R260). -/
def rowElems (w : Warp) (tag r i : Nat) : List Val × Nat :=
  let sc := regBytes w i (r + 48) 3
  stepElems tag (regBytes w i r 48) fun q => (sc.getD q 0).toNat

/-- Where the bank keeps a byte: by column and offset (R252). -/
def bankKey (j o : Nat) : Nat := 65536 * j + o
def bankBytes (k : Core) (j o n : Nat) : List Byte := (List.range n).map fun i => Memory.read k.bank (bankKey j (o + i))

/-- Column `j` of B in a step (R259, R260). -/
def colElems (k : Core) (tag o j : Nat) : List Val × Nat :=
  let bb := blockBytes ((fmtTy tag).getD .e4m3)
  stepElems tag (bankBytes k j o 192) fun q => (Memory.read k.bank (bankKey j (0xF000 + (o + q * bb) / bb))).toNat

/-- One chunk into one cell (R263). -/
def chunkCell (residue : Bool) (cell : Nat) (a b : List Val) : Nat :=
  let prods := (a.zip b).map fun p => p.1.mul p.2
  if residue then
    let v := (rnDecode cell).getD 0
    rnResidues (v + sumAt 0 prods)
  else fmtF32.result .rne false (sumVals .rne (fmtF32.decode cell :: prods))

/-- Every chunk of a step into one cell, ascending. -/
def stepCell (residue : Bool) (g ch cell : Nat) (a b : List Val) : Nat :=
  (List.range ch).foldl (fun x c => chunkCell residue x ((a.drop (c * g)).take g) ((b.drop (c * g)).take g)) cell

/-- The effect of a step on a slot's cells, and the reserved codes it read (R263). -/
def stepCells (w : Warp) (k : Core) (a : Acc) (fa fb r o nb : Nat) : Sparse Word × Nat :=
  let (g, ch) := chunkOf ((fmtTy fa).getD .e4m3)
  let rows := lanes32.map fun i => (i, rowElems w fa r i)
  let cols := (List.range (16 * nb)).map fun j => (j, colElems k fb o j)
  let bad := ((rows.map fun x => x.2.2) ++ (cols.map fun x => x.2.2)).foldl (· + ·) 0
  let reads := (rows.map fun x => cols.map fun y => (Sparse.get 0 a.cells (64 * x.1 + y.1) : Word).toNat).flatten
  let invalid := if a.residue then (reads.filter fun v => (rnDecode v).isNone).length else 0
  (rows.foldl (fun m x => cols.foldl (fun m y =>
      let i := 64 * x.1 + y.1
      let v := stepCell a.residue g ch (Sparse.get 0 m i : Word).toNat x.2.1 y.2.1
      Sparse.set 0 m i (BitVec.ofNat 32 v)) m) a.cells, bad + invalid)

/-! ### The sequencer (R255, R258, R262) -/

def State.bench (s : State) (c b : Nat) : Bench := Sparse.get {} (s.core c).benches b
def State.setBench (s : State) (c b : Nat) (x : Bench) : State :=
  s.setCore c { s.core c with benches := Sparse.put (s.core c).benches b x }

/-- Cycles there and back for a read of another core's bank (R258), with what it takes beyond that (R24). -/
def bankTrip (s : State) (c d : Nat) : Nat :=
  if c = d then 0 else outward s c d + inward s c d + Config.extraDelay s.free

/-- Put back the loop at the head of a queue. -/
def setHeadLoop (s : State) (c : Nat) (l : Loop) : State :=
  s.setCore c { s.core c with loopq := l :: (s.core c).loopq.drop 1 }

/-- The bytes of a core's bank that a step at an offset may read: its windows, and the scales (R252, R259, R260). -/
def bankWindow (k : Core) (o nb : Nat) : Memory :=
  k.bank.filter fun p =>
    let q := p.1 % 65536
    decide (p.1 / 65536 < 16 * nb) && (decide (0xF000 ≤ q) || (decide (o ≤ q) && decide (q < o + 192)))

/-- The offset of a step. -/
def Loop.offAt (l : Loop) (k : Nat) : Nat := l.off + 64 * l.incB * k

/-- The cycle in which the read of a step was issued; of one that has not been, the cycle of the loop's issue. -/
def Loop.asked (l : Loop) (k : Nat) : Nat := (Sparse.get? l.reads k).getD l.issued

/-- The cycle in which a loop at the head may start: 4 cycles after its issue, and no sooner than its first step's read of another core's bank
is back (R258, R262). -/
def Loop.startAt (l : Loop) (s : State) (c : Nat) : Nat := max (l.issued + 4) (l.asked 0 + bankTrip s c l.bankCore)

/-- The reads of another core's bank of one loop, whose step to come is to start at cycle `at_`: those issue that lie within the lead of the
gang's class, and those that arrive bring the bytes that the bank holds now (01_package R25, R258). See log entry 22 (DEDUCED). -/
def Loop.readsNow (l : Loop) (s : State) (c at_ : Nat) : Loop :=
  if l.bankCore = c then l
  else ((List.range 32).map (l.step + ·)).foldl (fun l k =>
    if l.steps ≤ k then l
    else
      let l := if (Sparse.get? l.reads k).isNone && decide (at_ + 12 * (k - l.step) ≤ s.cycle + l.lead) then
        { l with reads := Sparse.put l.reads k s.cycle } else l
      if (Sparse.get? l.ahead k).isNone && (match Sparse.get? l.reads k with | some t => decide (t + outward s c l.bankCore ≤ s.cycle) | none => false) then
        { l with ahead := Sparse.put l.ahead k (bankWindow (s.core l.bankCore) (l.offAt k) l.nb) }
      else l) { l with reads := l.reads.filter fun p => decide (l.step ≤ p.1), ahead := l.ahead.filter fun p => decide (l.step ≤ p.1) }

/-- The same for the loops of a queue, each of which is to start when the one before it completes (R262); `free` is the cycle in which the first
may start. -/
def readsAll (s : State) (c : Nat) : Nat → List Loop → List Loop
  | _, [] => []
  | free, l :: r =>
    let at_ := match l.start with | some t => t | none => max free (l.issued + 4)
    l.readsNow s c at_ :: readsAll s c (at_ + 12 * (l.steps - l.step) + 8) r

/-- The sequencer's reads of other cores' banks in a cycle. -/
def readAhead (s : State) (c : Nat) : State :=
  if (s.core c).loopq.any fun l => l.bankCore != c then
    s.setCore c { s.core c with loopq := readsAll s c s.cycle (s.core c).loopq }
  else s

/-- The core whose bank a step reads, as it reads it: a remote bank as the read ahead found it (01_package R25). -/
def Loop.bankSeen (l : Loop) (s : State) (c : Nat) : Core :=
  let k := s.core l.bankCore
  if l.bankCore = c then k else match Sparse.get? l.ahead l.step with
    | some m => { k with bank := m }
    | none => k

/-- The data in error that a step reads (16_events R341): TRAPINFO of the B bank's, by column, or of the slot's, by row and column. -/
def stepErr (k : Core) (a : Acc) (fb o nb : Nat) : Option Nat :=
  if k.bankErrs.isEmpty ∧ a.errs.isEmpty then none
  else
    let bb := blockBytes ((fmtTy fb).getD .e4m3)
    let reads (b : Nat) : Bool :=
      let q := b % 65536
      decide (b / 65536 < 16 * nb) && ((decide (o ≤ q) && decide (q < o + 192)) ||
        (isMx fb && decide (0xF000 + o / bb ≤ q) && decide (q < 0xF000 + o / bb + 192 / bb)))
    ((k.bankErrs.find? reads).map fun b => (errInfo 4 0 (b / 65536)).toNat).or
      ((a.errs.find? fun i => decide (i % 64 < 16 * nb)).map fun i => (errInfo 5 (i / 64) (i % 64)).toNat)

/-- Perform the step to come of a loop, which starts at cycle `t` (R263); data in error stop the loop (16_events R341). See log entry 22
(DEDUCED). -/
def runStep (s : State) (c : Nat) (l : Loop) (t : Nat) : State :=
  let a := s.acc c l.acc
  let w := s.warpAt c l.slot
  let (fa, fb) := l.fmts.getD l.step (4, 4)
  let live := w.gen == l.gen && a.group == some l.ctx
  let bank := l.bankSeen s c
  let stop := if live then stepErr bank a fb (l.offAt l.step) l.nb else none
  match stop with
  | some info => setHeadLoop (s.setAcc c l.acc { a with stopped := some (l.gen, info) }) c { l with steps := l.step, start := some t, woken := false }
  | none =>
  let s := if live then
      let (cells, bad) := stepCells w bank a fa fb (l.va + 8 * l.incA * l.step) (l.offAt l.step) l.nb
      countReserved (s.setAcc c l.acc { a with cells }) c bad
    else s
  let s := (List.range l.nb).foldl (fun s b => s.setBench c b { s.bench c b with since := t + 11 }) s
  let s := countEvent s c 0x07 1 l.user
  let back := if l.bankCore = c ∨ l.steps ≤ l.step + 1 then 0 else ((Sparse.get? l.reads (l.step + 1)).getD t) + bankTrip s c l.bankCore
  let s := if l.bankCore = c then s else ({ s with free := s.free + 1 } : State)
  setHeadLoop s c { l with step := l.step + 1, start := some (max (t + 12) back), woken := false }

/-- What the sequencer of a core does in a cycle (R262): a step whose cycle has come wakes the gated benches it needs, or runs; a
loop completes 8 cycles after its last step. See log entry 22 (DEDUCED). -/
def loopTick (s : State) (c : Nat) : State :=
  let s := readAhead s c
  match (s.core c).loopq.head? with
  | none => s
  | some l =>
    match l.start with
    | none => s
    | some t =>
      if l.step < l.steps then
        if s.cycle < t then s
        else
          let off := (List.range l.nb).filter fun b => (s.bench c b).gated
          if off.isEmpty then runStep s c l t
          else
            let s := off.foldl (fun s b => s.setBench c b { s.bench c b with gated := false }) s
            let s := countEvent s c 0x08 off.length l.user
            setHeadLoop s c { l with start := some (t + Config.mwake), woken := true }
      else if t + 8 ≤ s.cycle then s.postNow (.matrixLoopCompletion c)
      else s

/-- MATRIX_LOOP_START (R262): the loop at the head begins, later by a remote read that has not arrived (R258). -/
def execMatrixLoopStart (c : Nat) (s : State) : Host.Outcome State Fault Refusal :=
  .next (match (s.core c).loopq.head? with
    | none => s
    | some l =>
      if l.start.isSome then s
      else
        let at_ := max s.cycle (l.startAt s c)
        let s := if l.bankCore = c then s else ({ s with free := s.free + 1 } : State)
        loopTick (setHeadLoop s c { l with start := some at_ }) c)

/-- MATRIX_LOOP_COMPLETION (R262): the registers and the slot are free, and the next loop may start. -/
def execMatrixLoopCompletion (c : Nat) (s : State) : Host.Outcome State Fault Refusal :=
  .next (match (s.core c).loopq with
    | [] => s
    | l :: r =>
      let s := s.setCore c { s.core c with loopq := r }
      let s := if (s.warpAt c l.slot).gen = l.gen then
          modWarp s c l.slot fun w => { w with marks := Sparse.erase w.marks l.id }
        else s
      match r with
      | [] => s
      | n :: _ => s.post (max s.cycle (n.issued + 4)) (.matrixLoopStart c))

/-- A loop that uses a bench starts in this cycle: its start is due at the head of the queue, or the loop before it completes now. See log
entries 22, 23 (DEDUCED). -/
def startsNow (s : State) (c b : Nat) : Bool :=
  let may (l : Loop) : Bool := decide (b < l.nb) && decide (l.startAt s c ≤ s.cycle)
  let due := (s.agenda.takeWhile fun d => decide (d.at_ ≤ s.cycle)).any fun d => d.ev == .matrixLoopStart c
  match (s.core c).loopq with
  | [] => false
  | l :: r => match l.start with
    | none => due && may l
    | some t => decide (l.steps ≤ l.step) && decide (t + 8 ≤ s.cycle) && (match r with | n :: _ => may n | [] => false)

/-- A bench has been idle for GATEIDLE cycles (R255). A step that starts in the cycle in which the counter would reach GATEIDLE sets
it to 0 instead. See log entry 23 (DEDUCED). -/
def benchIdle (s : State) (c b : Nat) : Bool :=
  let x := s.bench c b
  let gi := (s.core c).gateidle.toNat
  let needed := match (s.core c).loopq.head? with
    | some l => l.woken && decide (b < l.nb)
    | none => false
  gi != 0 && !x.gated && !needed && decide (gi ≤ (s.cycle - x.since) % 2 ^ 32) && !startsNow s c b

/-- The benches of a core that are gated now. See log entry 23 (DEDUCED). -/
def gateBenches (s : State) (c : Nat) : State :=
  (List.range 4).foldl (fun s b => if benchIdle s c b then s.postNow (.benchGate c b) else s) s

/-- BENCH_GATE (R255). -/
def execBenchGate (c b : Nat) (s : State) : Host.Outcome State Fault Refusal :=
  .next (if benchIdle s c b then s.setBench c b { s.bench c b with gated := true } else s)

/-! ### Reading out (R266 to R268) -/

/-- The exponent E of a control value, and the random bits of a cell (R266). -/
def ctlExp (ctl : Nat) : Int := let e := ctl % 256; if e < 128 then e else (e : Int) - 256
def ctlBits (r : Rnd) (ctl i j : Nat) : Nat := if r = .rsr then (ctl / 65536 + 40503 * (64 * i + j)) % 65536 else 0

/-- The value of a cell, scaled (R266), and whether its residues are invalid. -/
def cellValue (residue : Bool) (ctl cell : Nat) : Val × Bool :=
  if residue then
    match rnDecode cell with
    | some v => ((valInt v).scale (ctlExp ctl), false)
    | none => (.fin false 0 0, true)
  else ((fmtF32.decode cell).scale (ctlExp ctl), false)

/-- A cell in a destination format (R266): its code, and how many invalid residues were read. -/
def deliver (residue : Bool) (t : Ty) (f : Fields) (ctl i j cell : Nat) : Nat × Nat :=
  if residue ∧ t = .rn30 ∧ ctlExp ctl = 0 then (cell, 0)
  else
    let (v, bad) := cellValue residue ctl cell
    ((elemOf t).encode f.rnd f.sat (ctlBits f.rnd ctl i j) v, bad.toNat)

/-- Row `i` of a slot. -/
def accRow (a : Acc) (i : Nat) : List Nat := (List.range 64).map fun j => (Sparse.get 0 a.cells (64 * i + j) : Word).toNat

/-- A row delivered: codes, and invalid residues read. -/
def deliverRow (residue : Bool) (t : Ty) (f : Fields) (ctl i : Nat) (row : List Nat) : List Nat × Nat :=
  let xs := ((List.range row.length).zip row).map fun p => deliver residue t f ctl i p.1 p.2
  (xs.map (·.1), (xs.map (·.2)).foldl (· + ·) 0)

/-- `MRD` (R267): the results land 24 cycles after the slot is free. -/
def execMrd (f : Fields) (s : State) := issueX 0x185 f s fun f s =>
  match ownedSlot s (accName f) with
  | none => slotFault (accName f)
  | some p =>
    let w := s.warp
    let bits := Forms.mrdBits f.ty
    let d := f.d.toNat
    match missingReg w ((List.range (2 * bits)).map (d + ·)) with
    | some n => .trap 0x04 0 (BitVec.ofNat 64 n)
    | none =>
      if residueAbsent s p then .trap 0x06 0 (trapWords (encodeExt 0x185 f))
      else freeSlot s p fun p s =>
        let a := s.acc s.selfCore p
        match w.active.findSome? (errCell a) with
        | some i => .trap 0x12 0 i
        | none =>
        let rows := w.active.map fun i => (i, deliverRow a.residue f.ty f (src32 f w i f.b).toNat i (accRow a i))
        let s := countReserved s s.selfCore ((rows.map fun x => x.2.2).foldl (· + ·) 0)
        let writes := (rows.map fun (x : Nat × List Nat × Nat) =>
          let bs := packElems bits x.2.1
          (List.range (2 * bits)).map fun i => Write.reg (d + i) x.1 (BitVec.ofNat 32 (leBytes ((bs.drop (4 * i)).take 4)))).flatten
        .next (land s (s.cycle + 24) false writes)

/-- The element format that an `MST` stores on a page (R268), or the fault. -/
def mstTy (f : Fields) (fmt : Nat) : Option Ty :=
  match fmtTy fmt with
  | some t => if f.ty = .dflt ∨ f.ty = t then some t else none
  | none => if f.ty = .dflt then none else some f.ty

/-- A lane's row once its tag is known (R268): its bytes, its two scales on an MX page, and the invalid residues read; or the cause.
The lane's arguments are its control value and its cells; `visit` is the slot's mode. -/
def mstRow (s : State) (o : MemOp) (x : Lane) : Except Nat (List Nat × List Nat × Nat) :=
  let mx := isMx x.info
  let ia := if o.at_ = 1 ∧ mx then x.args.getD 1 0 else x.ia
  let args := if o.at_ = 1 ∧ mx then x.args.drop 2 else x.args
  let ctl := args.headD 0
  if fmtTy x.info = some .rn30 ∧ !Config.residue s.part then .error 0x06
  else match mstTy o.f x.info with
  | none => .error 0x0D
  | some t =>
    if ia % 65536 % (8 * t.elemBits) ≠ 0 then .error 0x07
    else if mx then
      let vs := (args.drop 1).map (cellValue (o.visit == 1) ctl)
      let half (b : Nat) : Nat × List Nat := encodeBlock t o.f.rnd o.f.sat (fun j => ctlBits o.f.rnd ctl x.lane (32 * b + j))
        (((vs.map (·.1)).drop (32 * b)).take 32)
      let codes := (half 0).2 ++ (half 1).2
      .ok ((packElems t.elemBits codes).map BitVec.toNat, [(half 0).1, (half 1).1], (vs.filter (·.2)).length)
    else
      let r := deliverRow (o.visit == 1) t o.f ctl x.lane (args.drop 1)
      .ok ((packElems t.elemBits r.1).map BitVec.toNat, [], r.2)

/-- Issue an `MST` (R268): it waits for the tag and the write check of every row. -/
def execMst (f : Fields) (s : State) := issueX 0x186 f s fun f s =>
  let w := s.warp
  match ownedSlot s (accName f) with
  | none => slotFault (accName f)
  | some p =>
    let ls := (execLanes f w).filter w.live
    match operandCheck s w .write 1 false (ls.map fun l => (l, vaOf f w l)) with
    | .error e => operandFault .write e
    | .ok xs =>
      if xs.isEmpty then .next s
      else if residueAbsent s p then .trap 0x06 0 (trapWords (encodeExt 0x186 f))
      else if bufferFull s then .wait
      else freeSlot s p fun p s =>
        let a := s.acc s.selfCore p
        match xs.findSome? fun q => errCell a q.1 with
        | some i => .trap 0x12 0 i
        | none =>
        let lanes := xs.map fun q => { mkLane 1 q with args := (src32 f w q.1 f.c).toNat :: accRow a q.1 }
        let parts := legsOf lanes []
        let s := s.setAcc s.selfCore p { a with busy := s.cycle + 16 }
        let (id, s) := newOp s { opOf s .mst 0x186 f with lanes, parts, left := parts.length, visit := a.residue.toNat }
        .next (sendLegs (s.setWarp { s.warp with holds := some id }) id parts.length)

/-- Where the rest of a row lies that runs `k` bytes to the end of its page, as an FP6 row of 48 bytes may: its translation. -/
def nextPage (s : State) (o : MemOp) (x : Lane) (k : Nat) : Option Nat :=
  match translateFor s (s.warpAt o.core o.slot) .write ((x.va + k) % 2 ^ 72) with
  | .ok ia => some ia
  | .error _ => none

/-- The check of the second page of such a row (R268, 09 R193, R206): the lane with its fault, at that page. See log entry 36 (DEDUCED). -/
def pageTwo (s : State) (o : MemOp) (x : Lane) (n : Nat) : Lane :=
  let k := 65536 - x.ia % 65536
  let y := { x with ok := false, va := (x.va + k) % 2 ^ 72, info := 0 }
  if n ≤ k then x
  else match translateFor s (s.warpAt o.core o.slot) .write y.va with
    | .error c => { y with cause := c }
    | .ok ia =>
      if place s ia = .io then { y with cause := 0x0B, ia }
      else match (if place s ia = .here then hwCheck s ia (n - k) o.who true else none) with
        | some (c, a) => { y with cause := c, ia, info := (rfmtAt s a c).toNat }
        | none => x

/-- Put a row's stores on their way (R268). The tail of an FP6 MX page stays (05 R98). -/
def mstStores (o : MemOp) (s : State) (x : Lane) : State :=
  match mstRow s o x with
  | .error _ => s
  | .ok (bs, scs, bad) =>
    let mx := isMx x.info
    let ia := if o.at_ = 1 ∧ mx then x.args.getD 1 0 else x.ia
    let st : MemOp := { o with kind := .store, parts := [], left := 0, at_ := 0, stage := 0, visit := 0, f := { o.f with cls := 0 } }
    let s := countReserved s o.core bad
    if mx ∧ (lineElem x.info .f32).elemBits = 6 ∧ 65520 ≤ ia % 65536 then s
    else
      let row : Lane := { x with ia, size := bs.length, args := bs, got := 0, info := 0 }
      let k := 65536 - ia % 65536
      let s := match (if bs.length ≤ k then none else nextPage s o row k) with
        | some ia2 => storeLane st (storeLane st s { row with size := k, args := bs.take k })
            { row with va := row.va + k, ia := ia2, size := bs.length - k, args := bs.drop k }
        | none => storeLane st s row
      if scs.isEmpty then s else storeLane st s { x with size := scs.length, args := scs, got := 0, info := 0 }

/-- The tags and checks of an `MST` are back. -/
def completeMst (s : State) (id : Nat) (o : MemOp) : State :=
  let check (x : Lane) : Lane :=
    if !x.ok then x else match mstRow s o x with
      | .error c => { x with ok := false, cause := c }
      | .ok (bs, _, _) => if isMx x.info then x else pageTwo s o x bs.length
  let o : MemOp := { o with lanes := o.lanes.map check }
  let s := modWarp (s.dropOp id) o.core o.slot fun w => { w with holds := none }
  match o.worst (s.warpAt o.core o.slot) with
  | some x => faultAt s o x true
  | none => (o.lanes.filter (·.ok)).foldl (mstStores o) s

/-- A response to an `MST`; for `MLDACC`, the end of the time it holds its registers. -/
def respondMst (s : State) (id k : Nat) : State :=
  match s.op? id with
  | none => s
  | some o =>
    if o.op = 0x187 then modWarp (s.dropOp id) o.core o.slot fun w => { w with marks := Sparse.erase w.marks id }
    else
      let o : MemOp := { o.setPart k { o.part k with done := true } with left := o.left - 1 }
      let s := s.setOp id o
      if o.left ≠ 0 then s
      else match (if o.lanes.any fun x => !x.ok then none else scaleRound s o) with
        | some o2 =>
          let o2 := { o2 with left := o2.parts.length }
          if o2.parts.isEmpty then completeMst s id o2 else sendLegs (s.setOp id o2) id o2.parts.length
        | none => completeMst s id o

end Sys2Proof.Machine
end

