-- ==== Sys2Proof/Machine/Copy.lean ====
section
/-! DEFINITION. The copy engine (12_matrix_and_copy R269 to R275; 10_ordering R225). -/

namespace Sys2Proof.Machine

/-! ### Descriptors (R269, R270) -/

/-- `n` bytes of a descriptor from byte `i`, as a number. -/
def descAt (d : List Byte) (i n : Nat) : Nat := leBytes ((d.drop i).take n)
def descSrc (d : List Byte) : Nat := descAt d 0 9
def descDims (d : List Byte) : Nat := descAt d 9 1 % 8
def descKind (d : List Byte) : Nat := descAt d 10 1
def descLen (d : List Byte) : Nat := descAt d 12 4
def descCount (d : List Byte) (i : Nat) : Nat := descAt d (16 + 2 * (i - 1)) 2
def descStride (d : List Byte) (i : Nat) : Int :=
  let x := descAt d (28 + 4 * (i - 1)) 4
  if x < 2 ^ 31 then x else (x : Int) - 2 ^ 32
def descDst (d : List Byte) : Nat := descAt d 52 9
/-- KIND 1: the first register. KIND 2: the offset, and the first column. -/
def descReg (d : List Byte) : Nat := descAt d 52 2 % 512
def descOff (d : List Byte) : Nat := descAt d 52 2
def descCol (d : List Byte) : Nat := descAt d 54 1 % 64

/-- The dimensions that count: 1 to d − 1. -/
def descUsed (d : List Byte) : List Nat := (List.range (descDims d - 1)).map (· + 1)
/-- The number of runs R, and the bytes T. -/
def descRuns (d : List Byte) : Nat := ((descUsed d).map (descCount d)).foldl (· * ·) 1
def descBytes (d : List Byte) : Nat := descLen d * descRuns d

/-- Distance of run `q` from SRC: i₁ varies fastest. -/
def runShift (d : List Byte) : List Nat → Nat → Int
  | [], _ => 0
  | i :: r, q =>
    let c := max 1 (descCount d i)
    ((q % c : Nat) : Int) * descStride d i + runShift d r (q / c)

/-- Source address of run `q`, and KIND 0 destination of run `q`. -/
def runSrc (d : List Byte) (q : Nat) : Nat := (((descSrc d : Int) + runShift d (descUsed d) q) % 2 ^ 72).toNat
def runDst (d : List Byte) (q : Nat) : Nat := (descDst d + q * descLen d) % 2 ^ 72

/-- Bytes of 32 elements of a format (R270). -/
def unitBytes (t : Ty) : Nat := 4 * t.elemBits

/-- The page format of an address, when it translates to this package. -/
def pageFmt (s : State) (w : Warp) (va : Nat) : Option Nat :=
  match translateFor s w .read va with
  | .ok ia => if place s ia = .here then some (attrs s ia).1.fmt else none
  | .error _ => none

/-- The format of the copy's first source byte, as it stands at issue. -/
def firstFmt (s : State) (w : Warp) (d : List Byte) : Nat := (pageFmt s w (runSrc d 0)).getD 0

/-- The pages that a run of `n` bytes from an address touches: an address in each. -/
def runPages (va n : Nat) : List Nat :=
  va :: ((List.range (n / 65536 + 1)).map fun j => (va / 65536 + j + 1) * 65536).filter (· < va + n)

/-- A source page of a copy is RN30 (R3). -/
def residueSource (s : State) (w : Warp) (d : List Byte) : Bool :=
  (List.range (descRuns d)).any fun q => (runPages (runSrc d q) (descLen d)).any fun va =>
    (pageFmt s w (va % 2 ^ 72)).bind fmtTy == some .rn30

/-- The bytes that run `q` is written in: a conversion writes elements of its type, as many as the run holds by the format of its first page. -/
def dstLen (s : State) (w : Warp) (d : List Byte) (conv : Ty) (q : Nat) : Nat :=
  if conv = .dflt then descLen d else descLen d / unitBytes (lineElem ((pageFmt s w (runSrc d q)).getD 0) conv) * unitBytes conv

/-- A destination page of a copy of KIND 0 is RN30 (R3). -/
def residueDest (s : State) (w : Warp) (d : List Byte) (conv : Ty) : Bool :=
  descKind d == 0 && (List.range (descRuns d)).any fun q => (runPages (runDst d q) (dstLen s w d conv q)).any fun va =>
    (pageFmt s w (va % 2 ^ 72)).bind fmtTy == some .rn30

/-- A run of `n` bytes neither begins nor ends within 32 elements: the boundaries of a page are counted from its start. -/
def runOff (va n unit : Nat) : Bool := va % 65536 % unit != 0 || ((va + n - 1) % 65536 + 1) % unit != 0

/-- A misaligned conversion (R271 reason 6): the byte offset reported. Each run is judged by the format of its own first page; a page of code
0x00 or 0x20 holds elements of the instruction's type (05 R108). See log entry 24 (DEDUCED). -/
def convBad (s : State) (w : Warp) (d : List Byte) (conv : Ty) : Option Nat :=
  let runs := (List.range (descRuns d)).map fun q => (q, unitBytes (lineElem ((pageFmt s w (runSrc d q)).getD 0) conv))
  if runs.any fun p => descLen d % p.2 ≠ 0 then some 12
  else if runs.any fun p => runOff (runSrc d p.1) (descLen d) p.2 then some 0
  else if runs.any fun p => runOff (runDst d p.1) (descLen d / p.2 * unitBytes conv) (unitBytes conv) then some 52
  else none

/-- The first rule of R271 check 3 that a descriptor breaks: reason and byte offset. See log entry 24 (DEDUCED). -/
def descBad (s : State) (w : Warp) (d : List Byte) (mcast : Option Nat) (conv : Ty) : Option (Nat × Nat) :=
  let k := descKind d
  let dims := descAt d 9 1
  let byte (i : Nat) : Nat := descAt d i 1
  let idx := List.range 6
  let counts := idx.filterMap fun i => if (if i + 1 < dims then descCount d (i + 1) = 0 else descCount d (i + 1) ≠ 0)
    then some (16 + 2 * i) else none
  let strides := idx.filterMap fun i => if dims ≤ i + 1 ∧ descStride d (i + 1) ≠ 0 then some (28 + 4 * i) else none
  let dst := descAt d 52 8
  let zero : List (Nat × Bool) := [(10, decide (2 < k)), (11, byte 11 != 0),
    (52, (k == 1 && (decide (512 ≤ dst) || dst % 8 != 0)) || (k == 2 && decide (2 ^ 22 ≤ dst))),
    (60, k != 0 && byte 60 != 0), (61, byte 61 != 0), (62, byte 62 != 0), (63, byte 63 != 0)]
  if dims = 0 ∨ 8 ≤ dims then some (1, 9)
  else match (counts ++ strides).head? with
  | some i => some (2, i)
  | none =>
    match zero.find? (·.2) with
    | some p => some (3, p.1)
    | none =>
      if descLen d = 0 ∨ 2 ^ 24 < descLen d ∨ 2 ^ 32 ≤ descBytes d ∨ (k = 1 ∧ descLen d % 4 ≠ 0) then some (4, 12)
      else if (k = 1 ∧ 32 < descRuns d) ∨ (k = 2 ∧ 64 < descRuns d) then some (5, 16)
      else match (if conv = .dflt ∨ k ≠ 0 then none else convBad s w d conv) with
        | some i => some (6, i)
        | none => match mcast with
          | some m => if k ≠ 2 then some (7, 10) else if m = 0 then some (7, 0xFF) else none
          | none => none

/-- The registers of a KIND 1 copy, MX scales included (R270). -/
def copyRegs (d : List Byte) (fmt : Nat) : List Nat :=
  let r := descReg d
  let n := descLen d
  let scales := if isMx fmt then n / blockBytes ((fmtTy fmt).getD .e4m3) else 0
  (List.range (n / 4)).map (r + ·) ++ (List.range ((scales + 3) / 4)).map (r + 8 * ((n + 31) / 32) + ·)

/-- The registers that a KIND 1 copy holds: every register of the blocks that it writes, whose tags it sets (04 R86). -/
def copyHold (regs : List Nat) : List Nat :=
  ((regs.map (· / 8)).eraseDups.map fun b => (List.range 8).map (8 * b + ·)).flatten

/-- The bank limit that a KIND 2 copy breaks (R270, R271 check 4). -/
def bankLimit (d : List Byte) (fmt : Nat) : Option Nat :=
  let o := descOff d
  if 64 - descCol d < descRuns d then some 1
  else if (if isMx fmt then 0xF000 else 65536) < o + descLen d then some 2
  else if o % (if isMx fmt then 192 else 64) ≠ 0 then some 3
  else none

/-- The first address of a copy that does not translate (R271 check 5): cause, address, whether to write. I/O space is misuse (09
R191). -/
def copyMiss (s : State) (w : Warp) (d : List Byte) (conv : Ty) (wb : Option Nat) : Option (Nat × Nat × Bool) :=
  let last := descLen d - 1
  let try_ (wr : Bool) (va : Nat) : Option (Nat × Nat × Bool) :=
    match translateFor s w (if wr then .write else .read) va with
    | .error c => some (c, va, wr)
    | .ok ia => if place s ia = .io then some (0x0B, va, wr) else none
  let runs := (List.range (descRuns d)).findSome? fun q =>
    ((try_ false (runSrc d q)).or (try_ false ((runSrc d q + last) % 2 ^ 72))).or
      (if descKind d = 0 then (try_ true (runDst d q)).or (try_ true ((runDst d q + (dstLen s w d conv q - 1)) % 2 ^ 72)) else none)
  runs.or (wb.bind (try_ true))

/-! ### Issue (R271) -/

/-- The cores of a `TMCAST` mask: those of the issuing core's cluster. -/
def maskCores (c mask : Nat) : List Nat := ((List.range 4).filter fun k => mask / 2 ^ k % 2 = 1).map (c / 4 * 4 + ·)

/-- Entries of the copy table are numbered below 1 024; a copy that waits for one is kept at 1 024. -/
def copySlots : Nat := 1024

/-- Issue a copy: the checks of R271 in order. On a part without residue arithmetic a source page of RN30 is refused for every KIND and type, and
a destination page of KIND 0, raw copies and `TMCAST` among them (R3). See log entry 24 (DEDUCED). -/
def copyBody (op : Nat) (f : Fields) (s : State) : Act :=
  let w := s.warp
  let c := s.selfCore
  let l := (soleLane w).getD 0
  let d := regBytes w l (srcNum f.a) 16
  let mcast := if op = 0x189 then some ((src32 f w l f.b).toNat % 16) else none
  let wbVa := match f.c with
    | .reg n => some (w.pc.toNat / 2 ^ 64 * 2 ^ 64 + (w.pair n.toNat l).toNat)
    | _ => none
  match descBad s w d mcast f.ty with
  | some (r, i) => .trap 0x18 0 (BitVec.ofNat 64 (r + 256 * i))
  | none =>
    let fmt := firstFmt s w d
    let regs := if descKind d = 1 then copyRegs d fmt else []
    let hold := copyHold regs
    match missingReg w regs with
    | some n => .trap 0x04 0 (BitVec.ofNat 64 n)
    | none =>
      match (if descKind d = 2 then bankLimit d fmt else none) with
      | some b => .trap 0x17 0 (BitVec.ofNat 64 (descOff d + 2 ^ 16 * descCol d + 2 ^ 22 * b))
      | none =>
        if f.ty ≠ .dflt ∧ descKind d ≠ 0 then .trap 0x02 0 (trapWords (encodeExt op f))
        else if !Config.residue s.part && (residueSource s w d || residueDest s w d f.ty) then
          .trap 0x06 0 (trapWords (encodeExt op f))
        else match copyMiss s w d f.ty wbVa with
          | some (cause, va, wr) => .trap cause (BitVec.ofNat 72 va) (memInfo l wr (cause == 0x0B) false false)
          | none =>
            if scoreboard w { writeR := hold } then .wait
            else
              let k := s.core c
              if copySlots ≤ k.copies.length then .wait
              else
                let ia (a : Access) (va : Nat) : Nat := match translateFor s w a va with | .ok i => i | .error _ => 0
                let src := ia .read (runSrc d 0)
                let target := if wbVa.isSome then none
                  else some (if descKind d = 0 then targetOf s c (ia .write (runDst d 0)) else .here)
                if (match target with | some t => !counterRoom w t 1 | none => false) then .wait
                else
                  let (id, s) := newOp s { opOf s .copy op f with lanes := [] }
                  let x : Copy :=
                    { id, dest := f.d.toNat, vals := w.active, lane := l, ranges := w.rangeList
                      lmask := match s.group? w.ctx with | some g => g.sett.lmask | none => 0
                      desc := d, mask := mcast.getD 0, wb := wbVa.map fun va => (va, ia .write va), conv := f.ty
                      target := target.map Target.code
                      startAt := s.cycle + (if place s src = .here then outward s c (iaSlice src) else pkgHalf s) }
                  let s := s.setWarp { s.warp with marks := if hold.isEmpty then s.warp.marks else Sparse.put s.warp.marks id { regs := hold } }
                  let s := match target with
                    | some t => s.setWarp (countUp s.warp t 1)
                    | none => s
                  let s := s.setCore c { s.core c with copies := Sparse.put (s.core c).copies copySlots x }
                  .next (s.postNow (.copyEntryGrant c))

/-- COPY_ENTRY_GRANT (R271): the copy takes the lowest free entry; its ticket lands 6 cycles after issue (22 R373). -/
def execCopyEntryGrant (c : Nat) (s : State) : Host.Outcome State Fault Refusal :=
  .next (
    let k := s.core c
    match Sparse.get? k.copies copySlots, (List.range copySlots).find? fun e => (Sparse.get? k.copies e).isNone with
    | some x, some e =>
      let ticket := e + 1024 * k.ticketGen.toNat
      let copies := Sparse.put (Sparse.erase k.copies copySlots) e { x with ticket := k.ticketGen.toNat }
      let s := s.setCore c { k with copies, ticketGen := k.ticketGen + 1 }
      match s.op? x.id with
      | some o => land (s.select c o.slot) (s.cycle + 6) false (x.vals.map fun l => .reg x.dest l (BitVec.ofNat 32 ticket))
      | none => s
    | _, _ => s)

def execTcopy (f : Fields) (s : State) := issueX 0x188 f s (copyBody 0x188)
def execTmcast (f : Fields) (s : State) := issueX 0x189 f s (copyBody 0x189)

/-! ### The end of a copy (R225, R272, R273) -/

/-- A failure of a copy reaches the context that issued it: the warp, its save area, or a record (R232 to R234, R273).
See log entry 24 (DEDUCED). -/
def copyFail (s : State) (o : MemOp) (lane cause va : Nat) : State :=
  let d : Deferred := { cause, addr := va, pc := o.pc }
  if here s o then deferOn s o.core o.slot d
  else if o.left ≠ 0 then failSaved s o.ctx o.wix o.left d
  else failGone s o lane d

/-- Free an entry: its register holds go, for which a result of the group's calls may have waited (04_registers R86), and its count under R225. -/
def freeCopy (s : State) (c e : Nat) (x : Copy) : State :=
  let s := s.setCore c { s.core c with copies := Sparse.erase (s.core c).copies e }
  match s.op? x.id with
  | none => s
  | some o =>
    let s := match o.lanes.head? with
      | some y => unpend s y.ia x.id 0
      | none => s
    if here s o then
      let s := modWarp s o.core o.slot fun w =>
        let w := { w with marks := Sparse.erase w.marks x.id }
        match x.target with
        | some 0 => countDown w .here 1
        | some 1 => countDown w .other 1
        | some 2 => countDown w .pkg 1
        | some _ => countDown w .io 1
        | none => w
      groupCheck (drain s o.core o.slot) o.core o.ctx
    else match x.target with
      | some n => if o.left ≠ 0 then countSaved s o.left n else s
      | none => s

/-- The copy with an operation is over: its entry frees, and its register holds go (R272, R273). -/
def endCopy (s : State) (c id : Nat) : State :=
  let s := match (s.core c).copies.find? fun p => p.2.id == id with
    | some (e, x) => freeCopy s c e x
    | none => s
  s.dropOp id

/-- COPY_COMPLETION (R272): the entry frees; with a weighbridge, the arrival goes to its home, and the entry frees when it is made there. -/
def execCopyCompletion (c e : Nat) (s : State) : Host.Outcome State Fault Refusal :=
  .next (match Sparse.get? (s.core c).copies e with
    | none => s
    | some x =>
      match s.op? x.id, x.wb with
      | some o, some (va, ia) =>
        let n := descBytes x.desc * (if x.mask = 0 then 1 else (maskCores c x.mask).length)
        let o : MemOp := { o with stage := 1, lanes := [{ lane := x.lane, va, ia, size := 16, args := [n] }],
                                  parts := [{ ia, lanes := [x.lane] }] }
        sendVisits (s.setOp x.id o) x.id o
      | _, _ => (freeCopy s c e x).dropOp x.id)

/-- COPY_FAULT (R273): the entry frees, and the failure is deferred. -/
def execCopyFault (c e : Nat) (s : State) : Host.Outcome State Fault Refusal :=
  .next (match Sparse.get? (s.core c).copies e with
    | none => s
    | some x =>
      match s.op? x.id with
      | none => freeCopy s c e x
      | some o =>
        let s := freeCopy s c e x
        let (cause, va) := x.fail.getD (0x0A, 0)
        (if cause = 0x0C then askEnd s o.ctx 0x0C none else copyFail s o x.lane cause va).dropOp x.id)

/-- An arrival reaches its weighbridge (R272, R273, R315): it waits like any write, is refused by its check or by the layout, or is
performed; the copy's entry frees then. See log entry 24 (DEDUCED). -/
def copyArrive (s : State) (id : Nat) (o : MemOp) : State :=
  match o.lanes.head? with
  | none => endCopy s o.core id
  | some x =>
    let fail (s : State) (cause : Nat) : State := endCopy (copyFail s o x.lane cause x.va) o.core id
    match place s x.ia with
    | .other g =>
      let status := farStatus s g
      let old := leBytes ((List.range 16).map fun i => outsideAt s (x.ia + i))
      let s := { s with free := s.free + 1 }
      if status ≠ 0 then fail s status else if badBridge old then fail s 0x02 else endCopy (dropFar s x.ia 16) o.core id
    | _ =>
      if x.ia % 16 ≠ 0 then fail s 0x02
      else if blocked s (x.ia, 16) id 0 then invalidate (pendAt s x.ia id 0) x.ia 16
      else match openLine s (x.ia, 16) id o.who true true with
        | .error none => pendAt (askMark s x.ia id true) x.ia id 0
        | .error (some c) => fail (walked (unpend s x.ia id 0) x.ia) c
        | .ok (_, _, s) =>
          let s := unpend s x.ia id 0
          let old := homeNat s x.ia 16
          if !(markErr (homeErrs s x.ia) 3 x).ok then fail s 0x12
          else if badBridge old then fail s 0x02
          else endCopy (homeWrite s x.ia (toBytes 16 (((Bridge.ofNat old).arrive (x.args.headD 0)).1.over old))) o.core id

/-! ### Moving bytes (R270, R272, R273) -/

/-- How far a piece of a copy has come: moved, waiting, or at a byte that fails. -/
inductive Moved where
  | done (s : State)
  | stall (s : State)
  | fail (s : State) (cause va : Nat)

/-- The translation kept from issue (R271); a byte outside the ranges of the group's lease ends the group (13_queues R292). -/
def keptTranslate (s : State) (x : Copy) (o : MemOp) (a : Access) (va : Nat) : Except Nat Nat :=
  match translate x.ranges o.user a va with
  | .error c => .error c
  | .ok ia =>
    if place s ia = .io then .error 0x0B
    else if place s ia = .here ∧ Config.dieCount s.part ≤ iaDie ia then .error 0x08
    else match findRange x.ranges va with
      | some (n, _) => if x.lmask ≠ 0 ∧ x.lmask / 2 ^ n % 2 = 0 then .error 0x0C else .ok ia
      | none => .ok ia

/-- What a read of a copy finds: what it asked for, that it must wait, or the cause and the address of a failed check. -/
inductive Got (α : Type) where
  | ok (a : α) (s : State)
  | wait (s : State)
  | fail (s : State) (cause va : Nat)

/-- Read bytes of one line of a source (R272): their page's attributes and the bytes. They come from a live L1 copy or from the home, where
a lock or an accessed bit may make the read wait (R193, R236, R302); data in error is refused (16_events R341). Another package answers
with bytes only. See log entry 14 (DESIGN CHOICE). -/
def copyRead (s : State) (id : Nat) (o : MemOp) (ia va n : Nat) : Got (Pte × List Byte) :=
  match place s ia with
  | .other g =>
    let status := farStatus s g
    let t := { s with free := s.free + 1 }
    if status ≠ 0 then .fail t status va
    else .ok ({ fmt := 0, present := true }, (List.range n).map (Config.outsideByte s.free)) t
  | _ =>
    if lockedFor s ia id then .wait s
    else match openLine s (ia, n) id o.who false false with
      | .error none => .wait (askMark s ia id false)
      | .error (some c) => .fail (walked s ia) c va
      | .ok (e, _, s) =>
        let x : Lane := { lane := 0, va := 0, ia, size := n }
        let errs := match (if l1Holds s o.core ia then l1? s o.core ia else none) with
          | some l => l.errs
          | none => homeErrs s ia
        if (markErr errs 3 x).ok then .ok (e, l1Bytes s o.core ia n) s else .fail s 0x12 va

/-- The same for bytes that may cross the end of a line, where the translation kept from issue is asked again (R271, R273); the page is that of
the first. -/
def copyReads (s : State) (x : Copy) (o : MemOp) (ia va n : Nat) : Got (Pte × List Byte) :=
  let k := 512 - ia % 512
  if n ≤ k then copyRead s x.id o ia va n
  else match copyRead s x.id o ia va k with
    | .ok (e, bs) s => match keptTranslate s x o .read ((va + k) % 2 ^ 72) with
      | .error c => .fail s c ((va + k) % 2 ^ 72)
      | .ok ia2 => match copyRead s x.id o ia2 ((va + k) % 2 ^ 72) (n - k) with
        | .ok (_, cs) s => .ok (e, bs ++ cs) s
        | r => r
    | r => r

/-- The last bytes of an E2M3 or E3M2 page with MX geometry belong to no block: they are read as 0, left as they are, and have no scale (05 R98). -/
def mxTail (fmt : Nat) (t : Ty) (a : Nat) : Bool := isMx fmt && t.elemBits == 6 && decide (65520 ≤ a % 65536)

/-- The MX scale of a block (05 R98): its byte; its page's faults are those of any address, 0x08 on an absent die among them (01_package R20).
The last 16 bytes of an FP6 page have no scale: a copy that takes them raw writes 0x7F in its place. See log entry 53 (DESIGN CHOICE). -/
def copyScale (s : State) (id : Nat) (o : MemOp) (e : Pte) (ia va : Nat) : Got Nat :=
  let t := (fmtTy e.fmt).getD .e4m3
  if mxTail e.fmt t ia then .ok 0x7F s
  else match scaleAddr e ia t with
    | none => .fail s 0x0D va
    | some a =>
      if place s a = .here ∧ Config.dieCount s.part ≤ iaDie a then .fail s 0x08 va
      else match copyRead s id o a va 1 with
        | .ok (p, bs) s => if p.fmt ≠ 0x20 then .fail s 0x0D va else .ok (leBytes bs) s
        | .wait s => .wait s
        | .fail s c _ => .fail s c va

/-- Write bytes of one line at a KIND 0 destination (R272): done, waiting, or refused; `want` is asked of the page's format: 0 accepts it, anything
else is the cause. -/
def copyWrite (s : State) (id : Nat) (o : MemOp) (ia va : Nat) (bs : List Byte) (want : Nat → Nat) : Moved :=
  match place s ia with
  | .other g =>
    let status := farStatus s g
    let s := { s with free := s.free + 1 }
    if status ≠ 0 then .fail s status va else .done (dropFar s ia bs.length)
  | _ =>
    let y : Lane := { lane := 0, va, ia, size := bs.length }
    let wait (s : State) : State := pendAt (s.setOp id { o with lanes := [y] }) ia id 0
    if blocked s (ia, bs.length) id 0 then .stall (invalidate (wait s) ia bs.length)
    else match openLine s (ia, bs.length) id o.who true true with
      | .error none => .stall (askMark (wait s) ia id true)
      | .error (some c) => .fail (walked s ia) c va
      | .ok (e, _, s) => if want e.fmt = 0 then .done (homeWrite (unpend s ia id 0) ia bs) else .fail s (want e.fmt) va

/-- The same for bytes that may cross the end of a line, where the translation kept from issue is asked again (R271, R273). -/
def copyWrites (s : State) (x : Copy) (o : MemOp) (ia va : Nat) (bs : List Byte) (want : Nat → Nat) : Moved :=
  let k := 512 - ia % 512
  if bs.length ≤ k then copyWrite s x.id o ia va bs want
  else match copyWrite s x.id o ia va (bs.take k) want with
    | .done s => match keptTranslate s x o .write ((va + k) % 2 ^ 72) with
      | .error c => .fail s c ((va + k) % 2 ^ 72)
      | .ok ia2 => copyWrite s x.id o ia2 ((va + k) % 2 ^ 72) (bs.drop k) want
    | r => r

/-- Put a byte into a register of a lane (R270). -/
def setRegByte (w : Warp) (n l i : Nat) (b : Byte) : Warp :=
  let old := (w.reg n l).toNat
  w.setReg n l (BitVec.ofNat 32 (old / 2 ^ (8 * i + 8) * 2 ^ (8 * i + 8) + b.toNat * 2 ^ (8 * i) + old % 2 ^ (8 * i)))

/-- Bytes into lane `q`, from byte `n` of the registers from `r`; the blocks get a tag. -/
def putRegs (w : Warp) (r q n tag : Nat) (bs : List Byte) : Warp :=
  ((List.range bs.length).zip bs).foldl (fun (w : Warp) p =>
    let reg := r + (n + p.1) / 4
    if w.holdsReg reg then
      let w := setRegByte w reg q ((n + p.1) % 4) p.2
      { w with tags := Sparse.set 0 w.tags (reg / 8) tag }
    else w) w

/-- Bytes into a column of a bank from an offset. -/
def putBank (s : State) (cs : List Nat) (j o : Nat) (bs : List Byte) : State :=
  cs.foldl (fun s c => s.setCore c { s.core c with bank := Memory.writeAll (s.core c).bank (bankKey j o) bs }) s

/-- Tile tags that a piece of run 0 sets: of each tile whose first byte of the copy it writes (R270). -/
def tagTiles (s : State) (cs : List Nat) (first o n tag : Nat) : State :=
  let ts := (List.range 64).filter fun t => decide (o ≤ max first (1024 * t)) && decide (max first (1024 * t) < o + n) &&
    decide (max first (1024 * t) < 1024 * t + 1024)
  cs.foldl (fun s c => s.setCore c { s.core c with tileTags := ts.foldl (fun m t => Sparse.set 0 m t tag) (s.core c).tileTags }) s

/-- The scales of the MX blocks that begin within a piece of a run, put in their places, with the tags of the blocks or tiles (R270). -/
def moveScales (s : State) (x : Copy) (o : MemOp) (cs : List Nat) (e : Pte) (ia n len : Nat) : Moved :=
  let bb := blockBytes ((fmtTy e.fmt).getD .e4m3)
  let q := x.done / descLen x.desc
  let at_ (i : Nat) : Nat := 0xF000 + (descOff x.desc + i) / bb
  ((List.range len).filter fun i => (n + i) % bb = 0).foldl (fun r i =>
    match r with
    | .done s =>
      let b := (n + i) / bb
      if descKind x.desc = 1 ∧ descLen x.desc / bb ≤ b then .done s
      else match copyScale s x.id o e (ia + i) ((runSrc x.desc q + n + i) % 2 ^ 72) with
        | .fail s c va => .fail s c va
        | .wait s => .stall s
        | .ok v s =>
          if descKind x.desc = 1 then
            .done (modWarp s o.core o.slot fun w =>
              if w.gen = o.gen then putRegs w (descReg x.desc + 8 * ((descLen x.desc + 31) / 32)) q b 0x20 [BitVec.ofNat 8 v] else w)
          else
            let s := putBank s cs (descCol x.desc + q) (at_ (n + i)) [BitVec.ofNat 8 v]
            .done (if q = 0 then tagTiles s cs (at_ 0) (at_ (n + i)) 1 e.fmt else s)
    | r => r) (.done s)

/-- A byte of RN30 on a part without residue arithmetic is refused (R3), as a page whose format changed after issue. -/
def residueBad (s : State) (fmt : Nat) : Bool := !Config.residue s.part && fmtTy fmt == some .rn30

/-- Move a piece of KIND 1 or 2: source bytes of one line (R270, R273). -/
def movePiece (s : State) (c : Nat) (x : Copy) (o : MemOp) (ia va n len : Nat) : Moved × Option Nat :=
  match copyRead s x.id o ia va len with
  | .fail s cause va => (.fail s cause va, x.tag)
  | .wait s => (.stall s, x.tag)
  | .ok (e, bs) s =>
    let tag := x.tag.getD e.fmt
    if e.fmt ≠ tag then (.fail s 0x0D va, some tag)
    else if residueBad s e.fmt then (.fail s 0x06 va, some tag)
    else
      let cs := if x.mask = 0 then [c] else maskCores c x.mask
      let q := x.done / descLen x.desc
      match (if isMx tag then moveScales s x o cs e ia n len else .done s) with
      | .done s =>
        if descKind x.desc = 1 then
          (.done (modWarp s o.core o.slot fun w => if w.gen = o.gen then putRegs w (descReg x.desc) q n tag bs else w), some tag)
        else
          let off := descOff x.desc + n
          let s := putBank s cs (descCol x.desc + q) off bs
          (.done (if q = 0 then tagTiles s cs (descOff x.desc) off len tag else s), some tag)
      | r => (r, some tag)

/-- Convert 32 elements (R270): from the source's format to that of the destination's page. A page of code 0x00 or 0x20, of either, holds
elements of the instruction's type in plain geometry (05 R108). See log entry 24 (DEDUCED). -/
def moveConv (s : State) (x : Copy) (o : MemOp) (sia sva dia dva : Nat) : Moved :=
  match copyRead s x.id o sia sva 1 with
  | .fail s c va => .fail s c va
  | .wait s => .stall s
  | .ok (e, _) s =>
    if residueBad s e.fmt then .fail s 0x06 sva
    else
      let t := lineElem e.fmt x.conv
      match copyReads s x o sia sva (unitBytes t) with
      | .fail s c va => .fail s c va
      | .wait s => .stall s
      | .ok (_, bs) s =>
        match (if isMx e.fmt then copyScale s x.id o e sia sva else .ok 0x7F s) with
        | .fail s c va => .fail s c va
        | .wait s => .stall s
        | .ok sc s =>
          let vals := (List.range 32).map fun i =>
            let v := ((elemOf t).decode (elemAt t.elemBits bs i)).1
            if mxTail e.fmt t (sia + t.elemBits * i / 8) then .fin false 0 0 else if isMx e.fmt then mxValue t sc v else v
          let want (fmt : Nat) : Nat := if residueBad s fmt then 0x06 else if lineElem fmt x.conv = x.conv then 0 else 0x0D
          let dst := match place s dia with | .here => (attrs s dia).1 | _ => { fmt := 0, present := true }
          if isMx dst.fmt then
            let (dsc, codes) := encodeBlock x.conv .rne true (fun _ => 0) vals
            if mxTail dst.fmt x.conv dia then .done s
            else match copyWrites s x o dia dva (packElems x.conv.elemBits codes) want, scaleAddr dst dia x.conv with
              | .done s, some a =>
                if place s a = .here ∧ Config.dieCount s.part ≤ iaDie a then .fail s 0x08 dva
                else copyWrite s x.id o a dva [BitVec.ofNat 8 dsc] fun fmt => if fmt = 0x20 then 0 else 0x0D
              | .done s, none => .fail s 0x0D dva
              | r, _ => r
          else copyWrites s x o dia dva (packElems x.conv.elemBits (vals.map ((elemOf x.conv).encode .rne true 0))) want

/-- Put a copy back into the table. -/
def setCopy (s : State) (c e : Nat) (x : Copy) : State :=
  s.setCore c { s.core c with copies := Sparse.put (s.core c).copies e x }

/-- Move the next piece of a copy, no more than a budget of bytes, and say how many it took; 0 when it cannot go on now. Elements that are
converted move 32 at a time, and wait for the next cycle when the budget holds fewer bytes (R272).
See log entry 24 (DEDUCED). -/
def copyStep (s : State) (c e budget : Nat) (x : Copy) (o : MemOp) : State × Nat :=
  let d := x.desc
  let q := x.done / descLen d
  let n := x.done % descLen d
  let sva := (runSrc d q + n) % 2 ^ 72
  let stopAt (s : State) (cause va : Nat) : State × Nat := ((setCopy s c e { x with moving := true, fail := some (cause, va) }).postNow (.copyFault c e), 0)
  match keptTranslate s x o .read sva with
  | .error cause => stopAt s cause sva
  | .ok sia =>
    if descKind d ≠ 0 then
      let len := min budget (min (descLen d - n) (512 - sia % 512))
      match movePiece s c x o sia sva n len with
      | (.done s, tag) => (setCopy s c e { x with moving := true, tag, done := x.done + len, wrote := x.wrote + len }, len)
      | (.stall s, _) => (setCopy s c e { x with moving := true }, 0)
      | (.fail s cause va, _) => stopAt s cause va
    else
      let unit := unitBytes (lineElem (match place s sia with | .here => (attrs s sia).1.fmt | _ => 0) x.conv)
      let dva := if x.conv = .dflt then (runDst d q + n) % 2 ^ 72 else (runDst d q + n / unit * unitBytes x.conv) % 2 ^ 72
      match keptTranslate s x o .write dva with
      | .error cause => stopAt s cause dva
      | .ok dia =>
        if x.conv ≠ .dflt then
          if budget < unit then (s, 0)
          else match moveConv s x o sia sva dia dva with
          | .done s => (setCopy s c e { x with moving := true, done := x.done + unit, wrote := x.wrote + unitBytes x.conv }, unit)
          | .stall s => (setCopy s c e { x with moving := true }, 0)
          | .fail s cause va => stopAt s cause va
        else
          let len := min (min budget (descLen d - n)) (min (512 - sia % 512) (512 - dia % 512))
          match copyRead s x.id o sia sva len with
          | .fail s cause va => stopAt s cause va
          | .wait s => (setCopy s c e { x with moving := true }, 0)
          | .ok (e', bs) s =>
            if residueBad s e'.fmt then stopAt s 0x06 sva
            else match copyWrite s x.id o dia dva bs fun fmt => if residueBad s fmt then 0x06 else 0 with
            | .done s => (setCopy s c e { x with moving := true, done := x.done + len, wrote := x.wrote + len }, len)
            | .stall s => (setCopy s c e { x with moving := true }, 0)
            | .fail s cause va => stopAt s cause va

/-- Give one copy what is left of a cycle's bytes. See log entry 24 (DEDUCED). -/
def copyRun (c e : Nat) : Nat → Nat → State → State × Nat
  | 0, budget, s => (s, budget)
  | n + 1, budget, s =>
    match Sparse.get? (s.core c).copies e with
    | none => (s, budget)
    | some x =>
      match s.op? x.id with
      | none => (s, budget)
      | some o =>
        if budget = 0 ∨ x.fail.isSome ∨ descBytes x.desc ≤ x.done then (s, budget)
        else
          let (s, k) := copyStep s c e budget x o
          let s := countEvent s c 0x0E ((x.done + k) / 32 - x.done / 32) o.user
          if k = 0 then (s, budget)
          else if descBytes x.desc ≤ x.done + k then (s.postNow (.copyCompletion c e), budget - k)
          else copyRun c e n (budget - k) s

/-- What the copy engine of a core does in a cycle (R272): 256 bytes, in the order the copies were issued.
See log entry 43 (DESIGN CHOICE). -/
def copyTick (s : State) (c : Nat) : State :=
  let due := (s.core c).copies.filter fun p => decide (p.1 < copySlots) && decide (p.2.startAt ≤ s.cycle)
  ((sortOn (fun p => p.2.id) due).foldl
    (fun (r : State × Nat) p => copyRun c p.1 257 r.2 r.1) (s, 256)).1

/-! ### Status and cancellation (R275) -/

/-- The entry of a ticket that the executing context issued and that is in flight. See log entry 24 (DEDUCED). -/
def ticketOf (s : State) (t : Nat) : Option (Nat × Copy) :=
  match Sparse.get? (s.core s.selfCore).copies (t % 1024) with
  | none => none
  | some x =>
    match s.op? x.id with
    | some o => if x.ticket = t / 1024 ∧ o.ctx = s.warp.ctx then some (t % 1024, x) else none
    | none => none

/-- The last byte of a copy has been written, and its arrival is on its way to the weighbridge (R272). -/
def Copy.arriving (x : Copy) (s : State) : Bool := match s.op? x.id with | some o => o.stage == 1 | none => false

/-- `TSTAT` (R275). -/
def execTstat (f : Fields) (s : State) := issueX 0x18B f s fun f s =>
  let w := s.warp
  .next (land s (s.cycle + 6) false (w.active.map fun l =>
    let v := match ticketOf s (w.reg (srcNum f.a) l).toNat with
      | none => 0
      | some (_, x) => (if x.moving then 2 else 1) + 4 * min 0x3FFFFFFF (x.wrote / 4)
    .reg f.d.toNat l (BitVec.ofNat 32 v)))

/-- `TCANCEL` (R275): the entry frees, and nothing more is moved. A copy whose arrival is on its way has completed. -/
def execTcancel (f : Fields) (s : State) := issueX 0x18A f s fun f s =>
  let w := s.warp
  let (c, k) := (s.selfCore, s.selfSlot)
  let (s, ws) := w.active.foldl (fun (r : State × List Write) l =>
    match ticketOf r.1 (w.reg (srcNum f.a) l).toNat with
    | none => (r.1, r.2 ++ [.reg f.d.toNat l (BitVec.allOnes 32)])
    | some (e, x) =>
      if x.arriving s then (r.1, r.2 ++ [.reg f.d.toNat l (BitVec.allOnes 32)])
      else (((freeCopy r.1 c e x).dropOp x.id).select c k, r.2 ++ [.reg f.d.toNat l (BitVec.ofNat 32 x.wrote)])) (s, [])
  .next (land s (s.cycle + 6) false ws).taken

end Sys2Proof.Machine
end

