-- ==== Sys2Proof/Machine/Tables.lean ====
section
/-! DEFINITION. Instructions on the tables: `XINV`, `RMODE` and `LEASE` (14_tables R303 to R307; 09_memory_spaces R203). `XINV` and
`RMODE` hold their front while they work; what they do in a cycle is `tablesTick`. -/

namespace Sys2Proof.Machine

/-! ### L1 copies of a page (R203, R304) -/

/-- The die and local page of an L1 line of this package. -/
def lineDie (key : Nat) : Nat := key / 2 ^ 29 % 4
def linePage (key : Nat) : Nat := key / 128 % 2 ^ 22

/-- Lines of any L1 of this package that satisfy a test, by number, rising. -/
def l1Lines (s : State) (test : Nat → L1Line → Bool) : List Nat :=
  let ks := (s.cores.map fun p => (p.2.l1.filter fun l => decide (l.1 < 2 ^ 31) && test l.1 l.2).map (·.1)).flatten
  sortOn id ks.eraseDups

/-- The sectors of a line that hold dirty bytes, with what the check of their last writer's store finds (R193, R194). -/
def dirtySectors (e : Pte) (l : L1Line) : List (Nat × Option Nat) :=
  ((List.range 16).filter fun i => !(l.dirtyIn i).isEmpty).map fun i =>
    let x : Writer := Sparse.get {} l.writer i
    (i, pteCheck e ⟨x.user, x.tenant⟩ true)

/-- A write by a table operation to a line waits: a lock of another operation, a live lease, a requester-side copy, or A or D of the page
(R199, R244, R302). -/
def mergeWaits (s : State) (id ia : Nat) : Bool :=
  lockedFor s ia id || markWaits s ia id true || (match sline? s ia with
    | some l => l.held != 0 || anyLease l.lease s.now
    | none => false)

/-- Merge the dirty bytes that every L1 holds of a line at its home, in ascending core number, and drop the copies (R203): the bytes
dirty in more than one copy are counted on the home die. A sector whose check fails is charged to its last writer (R194); a sector in
error stays in error (16_events R341). The flag is false while the line must wait. -/
def mergeLine (s : State) (id key : Nat) : Bool × State × Nat :=
  let ia := 0xFF * 2 ^ 56 + key * 512
  let copies := s.cores.filterMap fun p => (Sparse.get? p.2.l1 key).map fun l => (p.1, l)
  let e := (attrs s ia).1
  let dirty := (copies.filter fun p => p.2.cls = 3).map fun p => (p.1, p.2, dirtySectors e p.2)
  let good : List (L1Line × Nat) :=
    (dirty.map fun p => ((p.2.2.filter fun q => q.2.isNone).map fun q => (p.2.1.dirtyIn q.1).map fun o => (p.2.1, o)).flatten).flatten
  let fail (s : State) : State := dirty.foldl (fun s p => p.2.2.foldl (fun s q => match q.2 with
    | some cause =>
      let x : Writer := Sparse.get {} p.2.1.writer q.1
      chargeTo s (x.op s p.1 []) x.lane { cause, addr := x.va, pc := x.pc }
    | none => s) s) s
  let drop (s : State) : State := copies.foldl (fun s p => dropL1 s p.1 key) s
  if good.isEmpty then (true, drop (fail s), 0)
  else if mergeWaits s id ia then (false, askMark (invalidate s ia 512) ia id true, 0)
  else match openLine s (ia, 512) id ⟨false, 0⟩ false true with
    | .error _ => (false, askMark s ia id true, 0)
    | .ok (_, _, s) =>
      let s := homeMerge s (good.map fun p => (ia + p.2, Memory.read p.1.data p.2))
      let bad := (good.filter fun p => p.1.errs / 2 ^ (p.2 / 32) % 2 = 1).foldl (fun m p => Nat.lor m (2 ^ (p.2 / 32))) 0
      let s := match sline? s ia with
        | some l => if bad = 0 then s else setLine s ia { l with errs := Nat.lor l.errs bad }
        | none => s
      let n := ((List.range 512).filter fun i => decide (1 < (good.filter fun p => p.2 = i).length)).length
      let d := s.die (key / 2 ^ 29 % 4)
      (true, drop (fail (s.setDie (key / 2 ^ 29 % 4) { d with conflict := d.conflict + BitVec.ofNat 64 n })), n)

/-- Merge several lines, up to the first that must wait; the flag tells that all are merged, the number the bytes merged in conflict.
See log entry 25 (DEDUCED). -/
def mergeLines (id : Nat) : List Nat → State → Nat → Bool × State × Nat
  | [], s, n => (true, s, n)
  | k :: r, s, n => match mergeLine s id k with
    | (true, s, m) => mergeLines id r s (n + m)
    | (false, s, m) => (false, s, n + m)

/-- Answers on their way to an L1 make no line of the pages that satisfy a test. See log entry 25 (DEDUCED). -/
def staleLegs (s : State) (test : Nat → Nat → Bool) : State :=
  let mark (p : Leg) : Leg := if p.pte.cls = 3 ∧ test (iaDie p.ia) (iaPage p.ia) then { p with stale := true } else p
  { s with ops := s.ops.map fun q => (q.1, { q.2 with parts := q.2.parts.map mark }) }

/-! ### Slice lines (R303, R304) -/

/-- Home lines of slices of a die that satisfy a test, in ascending slice and line. -/
def homeLines (s : State) (d : Nat) (test : Nat → Nat → Bool) : List Nat :=
  ((List.range 48).map fun i =>
    ((s.slice (48 * d + i)).lines.filter fun p => decide (lineDie p.1 = d) && test i (linePage p.1)).map (·.1)).flatten

/-- A lock, an atomic pin or a waiting write holds a line (R304, R307). -/
def lineHeld (s : State) (key : Nat) : Bool :=
  let ia := 0xFF * 2 ^ 56 + key * 512
  (match sline? s ia with
   | some l => l.lock.isSome || !l.lockQ.isEmpty || !l.pins.isEmpty
   | none => false) ||
  (s.slice (iaSlice ia)).pend.any fun q => match s.op? q.1 with
    | some o => o.kind.writes && (o.spans q.2).any fun sp => decide (lineOf sp.1 = key)
    | none => false

/-- Drop the lines of a list that may go, in order, up to the first that must wait (R304): its requester-side copies are
invalidated, and its leases run out. -/
def dropLines : List Nat → State → List Nat × State
  | [], s => ([], s)
  | k :: r, s =>
    let ia := 0xFF * 2 ^ 56 + k * 512
    match sline? s ia with
    | none => dropLines r s
    | some l =>
      if lineHeld s k then (k :: r, s)
      else if l.held ≠ 0 then (k :: r, invalidate s ia 512)
      else if anyLease l.lease s.now then (k :: r, s)
      else dropLines r (dropLine s k)

/-- Take the walkers' entries of a table line away, as its directory says, and clear the directory: the quadrants it names (R304).
See log entry 25 (DEDUCED). -/
def dropWalkers (s : State) (d t : Nat) : State × List Nat :=
  let x := s.die d
  let bits := (Sparse.get 0 x.dir t : Byte).toNat
  let walkers := x.walkers.map fun p =>
    if bits / 2 ^ p.1 % 2 = 1 then (p.1, p.2.filter fun e => decide (e.1 / 32 ≠ t)) else p
  (s.setDie d { x with walkers, dir := Sparse.erase x.dir t }, (List.range 4).filter fun q => bits / 2 ^ (4 + q) % 2 = 1)

/-- The home lines of a table line's 32 pages in some quadrants. -/
def quadrantLines (s : State) (d t : Nat) (qs : List Nat) : List Nat :=
  homeLines s d fun i p => decide (p / 32 = t) && qs.contains (i / 12)

/-! ### `XINV` (R304) -/

/-- Die and number of the table line of an address in a table page of this package. -/
def tableLine (s : State) (ia : Nat) : Option (Nat × Nat) :=
  if place s ia = .here ∧ iaDie ia < Config.dieCount s.part ∧ iaPage ia < 1024 then some (iaDie ia, ia % 2 ^ 38 / 512) else none

/-- An operation of the tables that works on a table line. -/
def MemOp.onTable (o : MemOp) : Option (Nat × Nat) :=
  match o.kind with
  | .xinv => o.todo.head?
  | .rmode => (o.todo.head?).map fun p => (iaDie p.1, iaPage p.1 / 32)
  | _ => none

def execXinv (f : Fields) (s : State) := issueX 0x1E7 f s fun f s =>
  let w := s.warp
  let live := (execLanes f w).filter w.live
  match operandCheck s w .both 1 true (live.map fun l => (l, vaOf f w l)) with
  | .error e => operandFault .both e
  | .ok xs =>
    if xs.isEmpty then .next s
    else
      let ts := xs.map fun x => (x.2.1, x.2.2.bind (tableLine s))
      match ts.find? fun t => t.2.isNone with
      | some t => .trap 0x02 (BitVec.ofNat 72 t.1) (trapWords (encodeExt 0x1E7 f))
      | none => released true .sys s fun s =>
          let lines := sortOn (fun a => a.1 * 2 ^ 20 + a.2) ((ts.filterMap (·.2)).eraseDups)
          let (id, s) := newOp s { opOf s .xinv 0x1E7 f with lanes := [], todo := lines }
          .next (s.setWarp { s.warp with holds := some id })

/-- Another operation came earlier to the table line (R304, R307): `since` is the cycle in which an operation came to its line; of those of
one cycle the older goes first. See log entry 25 (DEDUCED). -/
def tableBusy (s : State) (id : Nat) (o : MemOp) : Bool :=
  s.ops.any fun p => p.1 != id && (decide (p.2.since < o.since) || (decide (p.2.since = o.since) && decide (p.1 < id))) &&
    p.2.onTable.isSome && p.2.onTable == o.onTable

/-- The front of a table operation goes on. -/
def tableDone (s : State) (id : Nat) (o : MemOp) (ws : List Write) (acq : Bool) : State :=
  modWarp (s.dropOp id) o.core o.slot fun w =>
    let w := { (w.applyAll ws) with holds := none, marks := Sparse.erase w.marks id }
    if acq then { w with lastAcq := s.now, fetched := none, fetching := none } else w

/-- Copies of software-managed lines that an L1 took under the old attributes while their slice lines were still there are written back and
dropped before those lines are (R304): the flag tells that none is left. See log entry 25 (DEDUCED). -/
def lateLines (s : State) (id : Nat) (keys : List Nat) : Bool × State × Nat :=
  mergeLines id (l1Lines s fun k l => l.cls = 3 && keys.contains k) (staleLegs s fun d p => keys.any fun k => lineDie k == d && linePage k == p) 0

/-- What an `XINV` does in a cycle (R304): with `at_` 0 it comes to a table line; with 1 it drops the home lines of the pages that
were there. See log entry 25 (DEDUCED). -/
def xinvTick (s : State) (id : Nat) (o : MemOp) : State :=
  match o.todo with
  | [] => tableDone s id o [] false
  | (d, t) :: r =>
    if o.at_ = 0 then
      if tableBusy s id o then s
      else
        let on (die page : Nat) : Bool := die == d && page / 32 == t
        match mergeLines id (l1Lines s fun k l => l.cls = 3 && on (lineDie k) (linePage k)) (staleLegs s on) 0 with
        | (false, s, _) => s
        | (true, s, _) =>
          let (s, qs) := dropWalkers s d t
          s.setOp id { o with at_ := 1, results := (quadrantLines s d t qs).map fun k => (k, 0) }
    else match lateLines s id (o.results.map (·.1)) with
      | (false, s, _) => s
      | (true, s, _) =>
        let (left, s) := dropLines (o.results.map (·.1)) s
        if left.isEmpty then s.setOp id { o with todo := r, at_ := 0, results := [], since := s.cycle }
        else s.setOp id { o with results := left.map fun k => (k, 0) }

/-! ### `RMODE` (R307) -/

/-- The pages of a region: IA and VA of each, or the fault (R307): checks 3 to 5. See log entry 25 (DEDUCED). -/
def regionPages (s : State) (w : Warp) (va n : Nat) : Except (Nat × Nat × Bool) (List (Nat × Nat)) := do
  let try_ (a : Nat) : Except (Nat × Nat × Bool) Nat :=
    match translateFor s w .both a with
    | .ok ia => .ok ia
    | .error c => .error (c, a / 65536 * 65536, false)
  let _ ← try_ va
  let _ ← try_ ((va + 65536 * n - 1) % 2 ^ 72)
  let ps ← (List.range n).mapM fun i =>
    let a := (va + 65536 * i) % 2 ^ 72
    match try_ a with
    | .error e => Except.error e
    | .ok ia => .ok (ia, a)
  match ps.find? fun p => place s p.1 ≠ .here ∨ iaPage p.1 < 1024 with
  | some p => .error (0x02, p.2, false)
  | none =>
    let bad := ps.findSome? fun p =>
      let e := pteAt s (iaDie p.1) (iaPage p.1)
      if !e.present then some (0x0A, p.2, false) else if !fmtListed e.fmt then some (0x0A, p.2, true)
      else if e.tenant ≠ w.tenant.toNat then some (0x19, p.2, false) else none
    match bad with
    | some e => .error e
    | none => .ok (sortOn (fun a => iaLocal a.1) ps)

def execRmode (f : Fields) (s : State) := issueX 0x1E8 f s fun f s =>
  let w := s.warp
  let words := trapWords (encodeExt 0x1E8 f)
  match actor f w with
  | none => .next s
  | some l =>
    let va := vaOf f w l
    let n := (src32 f w l f.c).toNat
    if n = 0 ∨ 65535 < n then .trap 0x02 (BitVec.ofNat 72 va) words
    else if va % 65536 ≠ 0 then operandFault .both (0x07, va, l, false)
    else match regionPages s w va n with
      | .error (c, a, rf) => .trap c (BitVec.ofNat 72 a) (if c = 0x02 then words else memInfo l true false false rf)
      | .ok ps => released true .sys s fun s =>
          let (id, s) := newOp s { opOf s .rmode 0x1E8 f with lanes := [], todo := ps, visit := l }
          .next (s.setWarp { s.warp with
            holds := some id, marks := Sparse.put s.warp.marks id { regs := [f.d.toNat] } })

/-- Change the class of a page in its entry (R302, R307): bits 13:12. None when the table's line cannot be written now. -/
def setClass (s : State) (id d p cls : Nat) : Option State :=
  let ia := 0xFF * 2 ^ 56 + d * 2 ^ 38 + 16 * p + 1
  if blocked s (ia, 1) id 0 then none
  else match openLine s (ia, 1) id ⟨false, 0⟩ false true with
    | .ok (_, _, s) =>
      let b := (tableByte s d (16 * p + 1)).toNat
      some (homeWrite s ia [BitVec.ofNat 8 (b / 64 * 64 + 16 * cls + b % 16)])
    | .error _ => none

/-- What an `RMODE` does in a cycle (R307), page by page. `at_` is 0 when it comes to a page, 1 while the page's locks and pins are
waited for, 2 while its slice lines are dropped, 3 while its entry is changed, 4 while the lines of its table line are dropped.
`left` counts the bytes merged in conflict. See log entry 25 (DEDUCED). -/
def rmodeTick (s : State) (id : Nat) (o : MemOp) : State :=
  match o.todo with
  | [] => tableDone s id o [.reg o.f.d.toNat o.visit (BitVec.ofNat 32 (min o.left 0xFFFFFFFF))] true
  | (ia, _) :: r =>
    let d := iaDie ia
    let p := iaPage ia
    let lines := homeLines s d fun _ q => q == p
    match o.at_ with
    | 0 => if tableBusy s id o then s else s.setOp id { o with at_ := 1 }
    | 1 =>
      let held (k : Nat) : Bool := match sline? s (0xFF * 2 ^ 56 + k * 512) with
        | some l => l.lock.isSome || !l.pins.isEmpty
        | none => false
      if lines.any held then s
      else
        let on (die page : Nat) : Bool := die == d && page == p
        match mergeLines id (l1Lines s fun k _ => on (lineDie k) (linePage k)) (staleLegs s on) 0 with
        | (false, s, n) => s.setOp id { o with left := o.left + n }
        | (true, s, n) =>
          s.setOp id { o with at_ := 2, left := o.left + n, results := (homeLines s d fun _ q => q == p).map fun k => (k, 0) }
    | 2 =>
      match lateLines s id (o.results.map (·.1)) with
      | (false, s, n) => s.setOp id { o with left := o.left + n }
      | (true, s, n) =>
        let (left, s) := dropPage (o.results.map (·.1)) s
        s.setOp id { o with at_ := if left.isEmpty then 3 else 2, left := o.left + n, results := left.map fun k => (k, 0) }
    | 3 =>
      match setClass s id d p (o.f.sub.toNat % 4) with
      | none =>
        let e := 0xFF * 2 ^ 56 + d * 2 ^ 38 + 16 * p + 1
        askMark (invalidate s e 1) e id true
      | some s =>
        let (s, qs) := dropWalkers s d (p / 32)
        s.setOp id { o with at_ := 4, results := (quadrantLines s d (p / 32) qs).map fun k => (k, 0) }
    | _ =>
      let (left, s) := dropLines (o.results.map (·.1)) s
      s.setOp id (if left.isEmpty then { o with todo := r, at_ := 0, results := [], since := s.cycle }
        else { o with results := left.map fun k => (k, 0) })
where
  /-- Drop the slice lines of the locked page that wait for no copies or leases: accesses to them wait at the lock. -/
  dropPage : List Nat → State → List Nat × State
    | [], s => ([], s)
    | k :: r, s =>
      let ia := 0xFF * 2 ^ 56 + k * 512
      match sline? s ia with
      | none => dropPage r s
      | some l =>
        let wait (s : State) : List Nat × State := let (left, s) := dropPage r s; (k :: left, s)
        if l.held ≠ 0 then wait (invalidate s ia 512)
        else if anyLease l.lease s.now then wait s
        else dropPage r (dropLine s k)

/-! ### `LEASE` (R306) -/

/-- The lease-table name of what executes: the group's CONTEXT, or, on an S-lane, which has none, a name of its own.
See log entry 26 (DEDUCED). -/
def leaseOwner (o : MemOp) : Nat := if o.slot = 64 then 2 ^ 65 + o.core else o.ctx

/-- Issue a `LEASE`: the range list is read by relaxed loads. `block` holds the lane and the operand. -/
def execLease (f : Fields) (s : State) := issueX 0x1F0 f s fun f s =>
  let w := s.warp
  match actor f w with
  | none => .next s
  | some l =>
    let va := vaOf f w l
    let cut := min 192 (512 - va % 512)
    let pieces := if cut = 192 then [(va, 192)] else [(va, cut), ((va + cut) % 2 ^ 72, 192 - cut)]
    if va % 8 ≠ 0 then operandFault .read (0x07, va, l, false)
    else
      let tr := pieces.map fun p => (p.1, p.2, translateFor s w .read p.1)
      match tr.findSome? fun p => match p.2.2 with
          | .error c => some (c, p.1, l, false)
          | .ok ia => if place s ia = .io then some (0x0B, p.1, l, true) else none with
      | some e => operandFault .read e
      | none =>
        let lanes : List Lane := ((List.range tr.length).zip tr).filterMap fun p => match p.2.2.2 with
          | .ok ia => let x : Lane := { lane := p.1, va := p.2.1, ia, size := p.2.2.1 }
                      some { x with fwd := storesOf s (ownOps s) s.selfCore l x }
          | .error _ => none
        let parts := legsOf lanes []
        let (id, s) := newOp s { opOf s .lease 0x1F0 f with lanes, parts, left := parts.length, block := (l, va) }
        .next (sendLegs (s.setWarp { s.warp with
          holds := some id, marks := Sparse.put s.warp.marks id { regs := [f.d.toNat] } }) id parts.length)

/-- A precise fault of a `LEASE`. See log entry 10 (DEDUCED). -/
def leaseFault (s : State) (id : Nat) (o : MemOp) (x : FaultInfo) : State :=
  let s := (modWarp (s.dropOp id) o.core o.slot fun w => { w with holds := none, marks := Sparse.erase w.marks id }).select o.core o.slot
  takeFault (s.setWarp (s.warp.setPcs (lanesOf s.warp.frontMask) (BitVec.ofNat 72 o.pc))) x

/-- The pages that lease-table entries cover. -/
def pagesOf (es : List (Nat × LeaseEnt)) : Nat := (es.map fun e => e.2.last + 1 - e.2.first).foldl (· + ·) 0

/-- The list is read (R306 steps 2 to 6): it is checked, and its pages; then the entries are replaced once there is room.
See log entry 26 (DEDUCED). -/
def leaseApply (s : State) (id : Nat) (o : MemOp) : State :=
  let w := s.warpAt o.core o.slot
  let lanes := o.lanes.map (viewed s o)
  match lanes.find? fun x => !x.ok with
  | some x => leaseFault s id o (laneFault o { x with lane := o.block.1 } false)
  | none =>
    let vs := listValues ((lanes.map fun x => toBytes x.size x.got).flatten)
    match listBad s vs with
    | some i => leaseFault s id o { cause := 0x02, info := BitVec.ofNat 64 (8 * i), pc := BitVec.ofNat 72 o.pc }
    | none =>
      let rs := listRanges vs
      let lmask := o.f.sub.toNat
      if rangesWait s rs lmask then
        (askRanges s rs lmask).setOp id { o with stage := 1, lanes := lanes.map fun x => { x with fwd := [] } }
      else match checkRanges s ⟨!w.priv, w.tenant.toNat⟩ rs lmask with
      | .error (n, ia, c) =>
        let r := rs.getD n {}
        leaseFault s id o { cause := c, addr := BitVec.ofNat 72 (r.lo * 2 ^ 21 + (iaLocal ia - r.loc * 2 ^ 21)), pc := BitVec.ofNat 72 o.pc,
                            info := memInfo o.block.1 r.wr false false (rfmtAt s ia c) }
      | .ok s =>
        let name := leaseOwner o
        let es := leaseEntries s rs lmask name
        let t := dropLeases s name
        if !leaseRoom t es then s.setOp id { o with stage := 1, lanes := lanes.map fun x => { x with fwd := [] } }
        else
          let s := addLeases t es
          modWarp (s.dropOp id) o.core o.slot fun w =>
            { (w.setReg o.f.d.toNat o.block.1 (BitVec.ofNat 32 (pagesOf es))) with
              ranges := (List.range 8).zip rs, holds := none, marks := Sparse.erase w.marks id }

/-- A read of a `LEASE` is answered. -/
def respondLease (s : State) (id : Nat) : State :=
  match s.op? id with
  | none => s
  | some o =>
    let o : MemOp := { o with left := o.left - 1 }
    if o.left = 0 then leaseApply (s.setOp id o) id o else s.setOp id o

/-- What the table instructions in progress do in a cycle, oldest first. -/
def tablesTick (s : State) : State :=
  (s.ops.filter fun p => p.2.kind == .xinv || p.2.kind == .rmode || (p.2.kind == .lease && p.2.stage == 1)).foldl (fun s p =>
    match s.op? p.1 with
    | none => s
    | some o =>
      if !here s o then s.dropOp p.1
      else match o.kind with
        | .xinv => xinvTick s p.1 o
        | .rmode => rmodeTick s p.1 o
        | _ => leaseApply s p.1 o) s

end Sys2Proof.Machine
end

