-- ==== Sys2Proof/Machine/Platform.lean ====
section
/-! DEFINITION. The I/O die: I/O space, interrupts, the security block, PCIe, NVMe, Ultra Ethernet and Dusel (09_memory_spaces R191;
10_ordering R230; 14_tables R310; 17_platform R345 to R357, R360). Registers that are plain storage lie in `io.regs` by address;
what a device does outside the package is an event of its own, or a free value (log entry 14). -/

namespace Sys2Proof.Machine

/-! ### Registers -/

def setIo (s : State) (a v : Nat) : State :=
  { s with io := { s.io with regs := Sparse.set 0 s.io.regs (a / 8) (BitVec.ofNat 64 v) } }

/-- Put an event that brings something first. -/
def postFirst (s : State) (ev : Instr) (data : EvData) : State := { s with agenda := { at_ := s.cycle, ev, data } :: s.agenda }

/-- A byte of I/O storage, and bytes put there. -/
def ioByte (s : State) (a : Nat) : Byte := BitVec.ofNat 8 (ioReg s a / 2 ^ (8 * (a % 8)))
def ioBytes (s : State) (a n : Nat) : List Byte := (List.range n).map fun i => ioByte s (a + i)
def putIoByte (s : State) (a : Nat) (b : Byte) : State :=
  let x := ioReg s a
  let k := 2 ^ (8 * (a % 8))
  setIo s a (x / (k * 256) * (k * 256) + b.toNat * k + x % k)
def putIoBytes (s : State) (a : Nat) (bs : List Byte) : State :=
  ((List.range bs.length).zip bs).foldl (fun s p => putIoByte s (a + p.1) p.2) s

def pcieBase (p : Nat) : Nat := 0x01000000 + p * 0x01000000
def nvmeBase (p : Nat) : Nat := 0x03000000 + p * 0x00800000
def ueBase : Nat := 0x04000000
def duselBase : Nat := 0x08000000
def errBase : Nat := 0x09000000
def routeBase : Nat := 0x00200000

/-- The MSI-X table of a port, kept beyond its registers (R351). -/
def msixAt (p : Nat) : Nat := pcieBase p + 0x3000

/-- Port `p` is an endpoint (R343, R350). -/
def endpoint (s : State) (p : Nat) : Bool := s.io.pcieMode.getLsbD p

/-- Source codes of the routes (R348). -/
def routeListed (i : Nat) : Bool := i = 1 || i = 2 || i = 3 || i = 4 || i = 0x10 || i = 0x20 || i = 0x30

/-- A mask of bits lo to hi. -/
def bits (hi lo : Nat) : Nat := 2 ^ (hi + 1) - 2 ^ lo

/-! ### Interrupt messages (R334, R348) -/

/-- Give an S-lane the messages that wait for room, oldest first (R334). -/
def deliverMsgs (s : State) : State :=
  s.io.msgs.foldl (fun s m =>
    let k := s.core m.1
    if k.sl.msgs.length < 8 then s.setCore m.1 { k with sl := { k.sl with msgs := k.sl.msgs ++ [m.2] } }
    else { s with io := { s.io with msgs := s.io.msgs ++ [m] } }) { s with io := { s.io with msgs := [] } }

/-- An event of a source: a message to the routed core, or a count (R348). -/
def interrupt (s : State) (source event : Nat) : State :=
  let r := ioReg s (routeBase + 8 * source)
  if r / 2 ^ 63 = 1 then
    let msg : BitVec 40 := BitVec.ofNat 40 (source * 2 ^ 32 + event % 2 ^ 24 * 256 + r % 256)
    deliverMsgs { s with io := { s.io with msgs := s.io.msgs ++ [(r / 256 % 256, msg)] } }
  else { s with io := { s.io with missed := Sparse.put s.io.missed source (Sparse.get 0 s.io.missed source + 1) } }

/-- INTERRUPT_MESSAGE (R348). -/
def execInterruptMessage (source event : Nat) (s : State) : Host.Outcome State Fault Refusal := .next (interrupt s source event)

/-! ### Writes that come from the I/O die (R230) -/

/-- Pieces of a write, one for each line. -/
def lineParts : Nat → Nat → List Byte → List Lane
  | 0, _, _ => []
  | n + 1, ia, bs =>
    if bs.isEmpty then []
    else
      let k := 512 - ia % 512
      { lane := 0, va := 0, ia, size := min k bs.length, args := (bs.take k).map BitVec.toNat } :: lineParts n (ia + k) (bs.drop k)

/-- The ordering domain of the security block (R346). See log entry 42 (DESIGN CHOICE). -/
def domSecurity : Nat := 3

/-- What happens when an inbound write is over: a report's RPTGO is cleared (R346); NVMe completions of a port, or a message (R352, R354). `block` holds the port plus 1, and
the message's source and event plus 1; `todo` the registers of 8 bytes that the write sets, those of 4 bytes by their address plus 1. See log
entry 38 (DEDUCED). -/
def inboundDone (s : State) (o : MemOp) : State :=
  let s : State := if o.visit = domSecurity then { s with io := { s.io with rptgo := false } } else s
  let s := o.todo.foldl (fun s p => if p.1 % 2 = 1 then putIoBytes s (p.1 - 1) (toBytes 4 p.2) else setIo s p.1 p.2) s
  let s := if o.block.2 = 0 then s else interrupt s ((o.block.2 - 1) / 2 ^ 24) ((o.block.2 - 1) % 2 ^ 24)
  if o.block.1 = 0 then s
  else
    let p := o.block.1 - 1
    (List.range 64).foldl (fun s q =>
      let b := nvmeBase p + 0x1000 + 64 * q
      let ctl := ioReg s (b + 24)
      let lo := iaLocal (ioReg s (b + 8))
      let n := 16 * (ioReg s (b + 16) / 65536 % 4096 + 1)
      if ctl / 2 ^ 62 = 3 ∧ !endpoint s p ∧ (o.results.any fun x => decide (lo ≤ iaLocal x.1) && decide (iaLocal x.1 < lo + n)) then
        interrupt s 3 q else s) s

/-- The first write of its ordering domain goes on, piece by piece, until it must wait; then the next of the domain (R230). A piece that
fails its check is discarded, and a write of a PCIe port is answered then as an Unsupported Request (R351). See log entry 42 (DESIGN CHOICE). -/
def inboundRun : Nat → Nat → State → State
  | 0, _, s => s
  | n + 1, dom, s =>
    match s.io.domains.find? fun p => p.1 == dom with
    | none => s
    | some (_, id) =>
      match s.op? id with
      | none => { s with io := { s.io with domains := s.io.domains.filter fun p => p.2 != id } }
      | some o =>
        match o.lanes.head? with
        | none =>
          let s := ({ s with io := { s.io with domains := s.io.domains.filter fun p => p.2 != id } } : State).dropOp id
          inboundRun n dom (inboundDone s o)
        | some x =>
          let skip (s : State) (ok : Bool) : State :=
            let s := if ok || o.failed || o.block.1 = 0 then s else sendOutside s (31 + o.block.1) x.ia []
            (unpend s x.ia id 0).setOp id
              { o with lanes := o.lanes.drop 1, failed := o.failed || !ok, results := if ok then o.results ++ [(x.ia, x.size)] else o.results }
          if place s x.ia ≠ .here ∨ Config.dieCount s.part ≤ iaDie x.ia then inboundRun n dom (skip s false)
          else if blocked s (x.ia, x.size) id 0 then invalidate (pendAt s x.ia id 0) x.ia x.size
          else match openLine s (x.ia, x.size) id o.who true true with
            | .error none => pendAt (askMark s x.ia id true) x.ia id 0
            | .error (some _) => inboundRun n dom (skip (walked s x.ia) false)
            | .ok (_, _, s) => inboundRun n dom (skip (homeWrite s x.ia (x.args.map (BitVec.ofNat 8))) true)

/-- How often a domain can go on at most. -/
def inboundFuel (s : State) : Nat := (s.io.domains.map fun p => match s.op? p.2 with | some o => o.lanes.length + 2 | none => 1).foldl (· + ·) 2

/-- Start a write of an ordering domain: `port` is 1 more than the PCIe port, `msg` 1 more than source and event, `regs` the registers that
it sets. A write of no bytes brings its message or its registers only, after the earlier writes of its domain.
See log entry 42 (DESIGN CHOICE). -/
def inboundWrite (s : State) (dom tenant ia : Nat) (bs : List Byte) (port msg : Nat) (user : Bool := false) (regs : List (Nat × Nat) := []) : State :=
  let o : MemOp :=
    { kind := .inbound, core := 100000, slot := 0, gen := 0, ctx := 0, wix := 0, user, tenant, pc := 0, f := {}, todo := regs,
      lanes := lineParts (bs.length / 512 + 2) ia bs, block := (port, msg), visit := dom, since := s.cycle, tick := s.now }
  let (id, s) := newOp s o
  let s : State := { s with io := { s.io with domains := s.io.domains ++ [(dom, id)] } }
  inboundRun (inboundFuel s) dom s

/-- Domain keys: PCIe requesters of a port, a write with Relaxed Ordering (a domain of its own), a transport context, a
peer package. See log entry 42 (DESIGN CHOICE). -/
def domPcie (p requester : Nat) : Nat := 4 * (requester * 2 + p)
/-- See log entry 42 (DESIGN CHOICE). -/
def domRelaxed (s : State) : Nat := 4 * s.nextId + 1
/-- See log entry 42 (DESIGN CHOICE). -/
def domUe (ctx : Nat) : Nat := 4 * ctx + 2
/-- See log entry 42 (DESIGN CHOICE). -/
def domDusel (n : Nat) : Nat := 4 * n + 7

/-! ### Answers to accesses of I/O space -/

/-- Answer a load of I/O space: its value, or not present (R347). -/
def ioAnswer (s : State) (id k : Nat) (v : Option Nat) : State :=
  match s.op? id with
  | none => s
  | some o =>
    let p := o.part k
    let o := match v with
      | some x => o.onLanes p.lanes fun y => { y with got := x % 2 ^ (8 * y.size) }
      | none => failLeg o k 0x0A false
    sendBack (s.setOp id o) o.core p.ia 0 (.loadResponse id k)

/-- Acknowledge a store to I/O space, with the cause of its failure if it has one. -/
def ioEnd (s : State) (id : Nat) (cause : Option Nat) : State :=
  match s.op? id with
  | none => s
  | some o =>
    match o.lanes.head? with
    | none => s.dropOp id
    | some x =>
      let o := match cause with
        | none => o
        | some c => { o with failed := true, lanes := [{ x with cause := c }] }
      sendBack (s.setOp id o) o.core x.ia 0 (.storeAcknowledgement id)

/-- Acknowledge a store to I/O space, or refuse it as not present. -/
def ioAck (s : State) (id : Nat) (present : Bool) : State := ioEnd s id (if present then none else some 0x0A)

/-! ### The map (R347): what a load finds -/

/-- Security block (R345, R346). See log entry 37 (DEDUCED). -/
def readSecurity (s : State) (a n : Nat) : Option Nat :=
  let seed := shake256 ((List.range 64).map Config.fuseUds ++ ioBytes s 0 64) 32
  if a + n ≤ 0x240 then some (leBytes (ioBytes s a n))
  else if 0x240 ≤ a ∧ a + n ≤ 0x248 then some (s.io.extgo / 2 ^ (8 * (a % 8)))
  else if 0x280 ≤ a ∧ a + n ≤ 0x2C8 then some (leBytes (ioBytes s a n))
  else if 0x2C8 ≤ a ∧ a + n ≤ 0x2D0 then some (s.io.rptgo.toNat / 2 ^ (8 * (a % 8)))
  else if 0x2D0 ≤ a ∧ a + n ≤ 0x2D8 then some (s.io.errstat.toNat / 2 ^ (8 * (a % 8)))
  else if 0x1000 ≤ a ∧ a + n ≤ 0x1000 + 1952 then
    some (leBytes ((List.range n).map fun i => Config.mldsaPublic seed (a - 0x1000 + i)))
  else none

/-- PCIe port `p`, offset `a` (R350): the registers of 8 bytes. See log entry 37 (DEDUCED). -/
def readPcie (s : State) (p a : Nat) : Option Nat :=
  let v := ioReg s (pcieBase p + a)
  let ep := endpoint s p
  if a = 0x0000 then
    let up := v / 2 ^ 16 % 2
    some (v % 2 ^ 17 + 2 ^ 17 * ep.toNat + 2 ^ 18 * (up * (ioReg s (pcieBase p + 8) / 2 ^ 16 % 2)))
  else if a = 0x0008 then some v
  else if a = 0x0010 then some (Config.pcieId % 2 ^ 40)
  else if (decide (0x100 ≤ a) && decide (a < 0x300)) || (decide (0x400 ≤ a) && decide (a < 0x480)) then some v
  else if a = 0x800 ∨ a = 0x810 ∨ a = 0x900 then some (if ep then 0 else v)
  else if a = 0xA00 ∨ (0x2000 ≤ a ∧ a < 0x2200) then some (if ep then v else 0)
  else if a = 0x2400 then some 0
  else none

/-- NVMe half `p` (R352). -/
def readNvme (s : State) (p a : Nat) : Option Nat :=
  let v := ioReg s (nvmeBase p + a)
  if a = 0 then some v
  else if a = 8 then some (v / 256 % 256 * 256 + ioReg s (nvmeBase p) % 2)
  else if 0x1000 ≤ a ∧ a < 0x2000 ∧ a % 64 < 48 then some v
  else none

/-- Ultra Ethernet (R354). -/
def readUe (s : State) (a : Nat) : Option Nat :=
  let v := ioReg s (ueBase + a)
  if a = 0 then some v
  else if a = 8 then some (v / 16 % 16 * 16 + ioReg s ueBase % 2)
  else if 0x1000 ≤ a ∧ a < 0x1100 ∧ a % 64 < 40 then some v
  else if a = 0x2000 ∨ a = 0x2008 then some v
  else if 0x100000 ≤ a ∧ a < 0x104000 ∧ (a % 64 < 32 ∨ a % 64 = 40 ∨ a % 64 = 48) then some v
  else none

/-- Dusel (R356). -/
def readDusel (s : State) (a : Nat) : Option Nat :=
  let v := ioReg s (duselBase + a)
  if !Config.dusel s.part then none
  else if a = 0 then some (s.pkg % 256 + 256 * (!s.io.domain.isEmpty).toNat +
    2 ^ 16 * (if s.io.domain.isEmpty then 0 else if s.hold ≤ 4 then 2 else 1))
  else if 0x20 ≤ a ∧ a < 0x38 then
    some (((List.range 64).filter fun i => s.io.domain.contains ((a - 0x20) * 8 + i)).foldl (fun x i => x + 2 ^ i) 0)
  else if 0x100 ≤ a ∧ a < 0x700 ∧ a % 64 ≤ 16 then some v
  else if 0x1000 ≤ a ∧ a < 0x1600 then
    some (v % 2 ^ 62 + 2 ^ 62 * (s.io.fenced.getLsbD ((a - 0x1000) / 8)).toNat + v / 2 ^ 63 * 2 ^ 63)
  else none

/-- The aperture of a port: the outbound window that takes an offset, and the PCIe address (R351). -/
def outboundWindow (s : State) (p o : Nat) : Option Nat :=
  (List.range 4).findSome? fun k =>
    let b := pcieBase p + 0x400 + 32 * k
    let off := ioReg s b
    if ioReg s (b + 24) / 2 ^ 63 = 1 ∧ off ≤ o ∧ o < off + ioReg s (b + 8) then some (ioReg s (b + 16) + (o - off)) else none

/-- The PCIe port whose window an address lies in, and the offset. -/
def pciePort (a : Nat) : Option (Nat × Nat) :=
  if 0x01000000 ≤ a ∧ a < 0x03000000 then some ((a - 0x01000000) / 0x01000000, a % 0x01000000) else none

/-- A load of `n` bytes at an I/O-space address: registers of 8 bytes and those of other sizes, the reads that have an effect, and the
aperture. See log entry 37 (DEDUCED). -/
def ioLoad (s : State) (id k a n : Nat) : State :=
  let whole (v : Option Nat) : State := ioAnswer s id k (if n = 8 ∧ a % 8 = 0 then v else none)
  if a < 0x10000 then ioAnswer s id k (readSecurity s a n)
  else if filterBase ≤ a ∧ a < filterBase + 512 then whole (some (ioReg s a))
  else if routeBase ≤ a ∧ a < routeBase + 2048 then whole (some (ioReg s a))
  else match pciePort a with
    | some (p, o) =>
      if 0x400000 ≤ o then
        match outboundWindow s p (o - 0x400000) with
        | none => ioAnswer s id k none
        | some x =>
          let v := leBytes ((List.range n).map (Config.outsideByte s.free))
          ioAnswer { (sendOutside s (64 + p) x [BitVec.ofNat 8 n]) with free := s.free + 1 } id k (if Config.outsideStatus s.free = 0 then some v else none)
      else if o = 0x0018 then (if n = 8 then postFirst s .replaysRead { a := id, b := k, c := p } else ioAnswer s id k none)
      else if o = 0x0808 then (if n = 4 then postFirst s .configRead { a := id, b := k, c := p } else ioAnswer s id k none)
      else whole (readPcie s p o)
    | none =>
      if 0x03000000 ≤ a ∧ a < 0x04000000 then whole (readNvme s ((a - 0x03000000) / 0x800000) (a % 0x800000))
      else if ueBase ≤ a ∧ a < 0x08000000 then whole (readUe s (a - ueBase))
      else if duselBase ≤ a ∧ a < errBase then whole (readDusel s (a - duselBase))
      else if errBase ≤ a ∧ a < errBase + 64 then whole (some (ioReg s a))
      else ioAnswer s id k none

/-- Add to an error counter (R360): 0 register file, 1 L1, 2 L2, 3 B bank, 4 HBM4, 5 Dusel replays, 6 Ultra Ethernet link retries, 7 PCIe
replays. See log entry 17 (DESIGN CHOICE). -/
def countError (s : State) (i n : Nat) : State := setIo s (errBase + 8 * i) (ioReg s (errBase + 8 * i) + n)

/-- REPLAYS_READ (R350, R360): link replays are what the link saw, and are counted. See log entry 17 (DESIGN CHOICE). -/
def execReplaysRead (s : State) : Host.Outcome State Fault Refusal :=
  let x := s.input
  let n := (Config.freeWord s.free).toNat
  .next (ioAnswer (countError { s with free := s.free + 1 } 7 n) x.a x.b (some n))

/-- How a configuration access ends (R350): CFGSTAT. See log entry 14 (DESIGN CHOICE). -/
def cfgStatus (s : State) : Nat :=
  match Config.outsideStatus s.free % 5 with
  | 0 => 0
  | 1 => 1
  | 2 => 2
  | 3 => 4
  | _ => 256

/-- CONFIG_READ (R350): the request leaves with CFGADDR, and its completion brings the value. See log entry 14 (DESIGN CHOICE). -/
def execConfigRead (s : State) : Host.Outcome State Fault Refusal :=
  let x := s.input
  .next (
    if endpoint s x.c then ioAnswer s x.a x.b (some 0)
    else
      let st := cfgStatus s
      let v := if st = 0 then leBytes ((List.range 4).map (Config.outsideByte s.free)) else 0xFFFFFFFF
      let s := sendOutside { s with free := s.free + 1 } (288 + x.c) (ioReg s (pcieBase x.c + 0x800)) []
      ioAnswer (setIo s (pcieBase x.c + 0x810) st) x.a x.b (some v))

/-! ### Stores to registers (R350) -/

/-- The bits of a register of 8 bytes that a store may set; none when it is not listed, 0 when it is read only.
See log entry 37 (DEDUCED). -/
def writeMask (s : State) (a : Nat) : Option Nat :=
  let all := bits 63 0
  if filterBase ≤ a ∧ a < filterBase + 512 then some (bits 63 63 + bits 15 0)
  else if routeBase ≤ a ∧ a < routeBase + 2048 then some (if routeListed ((a - routeBase) / 8) then bits 63 63 + bits 15 0 else 0)
  else match pciePort a with
    | some (p, o) =>
      let ep := endpoint s p
      if o = 0x08 then some (bits 16 16 + bits 11 8 + bits 1 0)
      else if 0x100 ≤ o ∧ o < 0x300 then some (if o % 32 = 24 then bits 63 63 + bits 31 16 + bits 1 0 else all)
      else if 0x400 ≤ o ∧ o < 0x480 then some (if o % 32 = 24 then bits 63 63 else all)
      else if o = 0x800 then some (if ep then 0 else bits 27 2)
      else if o = 0x900 then some (if ep then 0 else bits 63 12 + 1)
      else if o = 0xA00 then some (if ep then bits 5 0 else 0)
      else if (readPcie s p o).isSome ∨ o = 0x18 then some 0
      else none
    | none =>
      if 0x03000000 ≤ a ∧ a < 0x04000000 then
        let o := a % 0x800000
        if o = 0 then some 1
        else if 0x1000 ≤ o ∧ o < 0x2000 then
          match o % 64 with
          | 0 | 8 => some (bits 63 12)
          | 16 => some (bits 27 16 + bits 11 0)
          | 24 => some (bits 63 62 + bits 31 0)
          | 32 | 40 => some all
          | _ => none
        else if o = 8 then some 0 else none
      else if ueBase ≤ a ∧ a < 0x08000000 then
        let o := a - ueBase
        if o = 0 then some (bits 11 8 + 1)
        else if 0x1000 ≤ o ∧ o < 0x1100 ∧ o % 64 = 0 then some (bits 47 0)
        else if o = 0x2000 then some (bits 63 16)
        else if o = 0x2008 then some (bits 16 0)
        else if 0x100000 ≤ o ∧ o < 0x104000 ∧ o % 64 < 32 then some all
        else if 0x100000 ≤ o ∧ o < 0x104000 ∧ o % 64 = 48 then some (bits 63 63 + bits 25 0)
        else if (readUe s o).isSome then some 0 else none
      else if duselBase ≤ a ∧ a < errBase ∧ Config.dusel s.part then
        let o := a - duselBase
        if 0x1000 ≤ o ∧ o < 0x1600 then some (bits 63 63 + bits 23 0)
        else if (readDusel s o).isSome then some 0 else none
      else none

/-- What a register's new value does at once: a PCIe port whose link enable is clear has no link (R350), and queues that are enabled look for a
descriptor (R354). See log entries 38 and 39 (DEDUCED). -/
def regEffect (s : State) (a : Nat) : State :=
  let look (s : State) (k : Nat) : State := postFirst s .ueSend { a := k, flag := true }
  let tails := (List.range 256).filter fun k => ioReg s (ueBase + 0x100000 + 64 * k + 32) % 2 ^ 32 != ioReg s (ueBase + 0x100000 + 64 * k + 40)
  match pciePort a with
  | some (p, o) => if o = 0x0008 ∧ ioReg s a % 2 = 0 ∧ ioReg s (pcieBase p) ≠ 0 then setIo s (pcieBase p) 0 else s
  | none =>
    if a = ueBase ∧ ioReg s a % 2 = 1 then tails.foldl look s
    else if ueBase + 0x100000 ≤ a ∧ a < ueBase + 0x104000 ∧ a % 64 = 48 ∧ ioReg s a / 2 ^ 63 = 1 then look s ((a - ueBase - 0x100000) / 64)
    else s

/-- Store into plain storage: a value that sets a reserved bit is discarded (R350). See log entry 37 (DEDUCED). -/
def storeReg (s : State) (a v : Nat) : State :=
  match writeMask s a with
  | some m => if m = 0 ∨ Nat.land v m ≠ v then s else regEffect (setIo s a v) a
  | none => s

/-- A store that sets a reserved bit of a filter entry or of an interrupt route, for which no other end is stated, fails with cause 0x02 (00_scope
R9; 14_tables R310; R348). -/
def reservedStore (s : State) (a v : Nat) : Bool :=
  ((decide (filterBase ≤ a) && decide (a < filterBase + 512)) || (decide (routeBase ≤ a) && decide (a < routeBase + 2048))) &&
  (match writeMask s a with
   | some m => Nat.land v m != v
   | none => false)

/-- The event with a behaviour of its own that a store of `n` bytes is, if it is one: with the size it takes, and what the event is told. EXTGO
and RPTGO take a store of any size to any of their bytes. See log entry 37 (DEDUCED). -/
def storeEvent (s : State) (id a n v : Nat) : Option (Nat × Instr × EvData) :=
  let d : EvData := { a := id, c := v }
  if 0x240 ≤ a ∧ a + n ≤ 0x248 then some (n, .extend, { d with c := v * 256 ^ (a - 0x240) })
  else if 0x2C8 ≤ a ∧ a + n ≤ 0x2D0 then some (n, .report, { d with c := v * 256 ^ (a - 0x2C8) })
  else if filterBase ≤ a ∧ a < filterBase + 512 ∧ a % 8 = 0 ∧ v < 2 ^ 63 ∧ ioReg s a / 2 ^ 63 = 1 then
    some (8, .filterEntryClear, { d with b := a })
  else match pciePort a with
    | some (p, o) =>
      if o = 0x0808 then some (4, .configWrite, { d with b := p })
      else if o = 0x2400 then some (8, .msixSend, { d with b := p })
      else if o = 0x0008 ∧ v / 2 % 2 = 1 then some (8, .pcieRetrain, { d with b := p })
      else none
    | none =>
      if 0x03000000 ≤ a ∧ a < 0x04000000 ∧ 0x1000 ≤ a % 0x800000 ∧ a % 0x800000 < 0x2000 then
        let q := (a - 0x03000000) / 0x800000 * 64 + (a % 0x800000 - 0x1000) / 64
        if a % 64 = 48 then some (4, .nvmeSqTailWrite, { d with b := q })
        else if a % 64 = 52 then some (4, .nvmeCqHeadWrite, { d with b := q })
        else none
      else if ueBase + 0x100000 ≤ a ∧ a < ueBase + 0x104000 then
        let k := (a - ueBase - 0x100000) / 64
        if a % 64 = 32 then some (4, .ueTailWrite, { d with b := k })
        else if a % 64 = 36 then some (4, .ueCqHeadWrite, { d with b := k })
        else none
      else if duselBase + 0x100 ≤ a ∧ a < duselBase + 0x700 ∧ a % 64 = 24 ∧ Config.dusel s.part then
        let k := (a - duselBase - 0x100) / 64
        if v = 1 then some (8, .duselPortFence, { d with b := k, flag := true })
        else if v = 2 then some (8, .duselPortReturn, { d with b := k, flag := true })
        else none
      else if errBase ≤ a ∧ a < errBase + 64 ∧ v = 0 then some (8, .errorCounterClear, { d with b := (a - errBase) / 8 })
      else none

/-- Storage of the security block (R345, R346): EXTBUF, NONCE and RPTADDR, and the error bit. See log entry 37 (DEDUCED). -/
def storeSecurity (s : State) (a : Nat) (bs : List Byte) : State :=
  let n := bs.length
  if (0x200 ≤ a ∧ a + n ≤ 0x240) ∨ (0x280 ≤ a ∧ a + n ≤ 0x2C8) then putIoBytes s a bs
  else if a = 0x2D0 then { s with io := { s.io with errstat := BitVec.ofNat 1 (leBytes bs) } }
  else s

/-- A store of I/O space is performed (R191, R350). See log entry 37 (DEDUCED). -/
def ioStore (s : State) (id a : Nat) (bs : List Byte) : State :=
  let n := bs.length
  let v := leBytes bs
  if n = 8 ∧ a % 8 = 0 ∧ reservedStore s a v then ioEnd s id (some 0x02)
  else match storeEvent s id a n v with
  | some (size, ev, d) => if n = size then postFirst s ev d else ioAck s id false
  | none =>
    if a < 0x10000 then
      (if (readSecurity s a n).isSome then ioAck (storeSecurity s a bs) id true else ioAck s id false)
    else match (match pciePort a with | some (p, o) => if 0x400000 ≤ o then some (p, o) else none | none => none) with
      | some (p, o) =>
        match outboundWindow s p (o - 0x400000) with
        | none => ioAck s id false
        | some x => ioAck (sendOutside s p x bs) id true
      | none =>
        let isCtl : Bool := Config.dusel s.part && decide (duselBase + 0x100 ≤ a) && decide (a < duselBase + 0x700) && a % 64 == 24
        let isErr : Bool := decide (errBase ≤ a) && decide (a < errBase + 64)
        if n = 8 ∧ a % 8 = 0 ∧ ((writeMask s a).isSome ∨ isCtl ∨ isErr) then ioAck (storeReg s a v) id true
        else ioAck s id false

/-- REGISTER_WRITE (R350): a store reaches the I/O die. -/
def execRegisterWrite (id : Nat) (s : State) : Host.Outcome State Fault Refusal :=
  .next (match s.op? id with
    | none => s
    | some o => match o.lanes.head? with
      | none => s.dropOp id
      | some x => ioStore s id (x.ia % 2 ^ 56) (x.args.map (BitVec.ofNat 8)))

/-- ERROR_COUNTER_CLEAR (R360). -/
def execErrorCounterClear (s : State) : Host.Outcome State Fault Refusal :=
  .next (ioAck (setIo s (errBase + 8 * s.input.b) 0) s.input.a true)

/-- HBM_SCRUB (R360): locations are read and corrected; the `a` errors it corrects are counted, and no value changes. With `flag` the 32 bytes
of HBM4 around address `b` are found in error beyond correction (16_events R341). The row also tells the corrected errors of the other
structures of R341: `c` is 1 for the register file, 2 L1, 3 L2, 4 the B bank. See log entry 17 (DESIGN CHOICE). -/
def execHbmScrub (s : State) : Host.Outcome State Fault Refusal :=
  .next (
    let x := s.input
    let s := countError s (if x.c = 0 then 4 else (x.c - 1) % 4) x.a
    if x.flag && !s.hbmErrs.contains (x.b / 32) then { s with hbmErrs := s.hbmErrs ++ [x.b / 32] } else s)

/-! ### Partition filters (R310) -/

/-- PARTITION_FILTER_PROBE (R310): a probe from another package, with the tenant `a` and the line's address `b`, is answered "not present" at
the filter, or passed to the slice of its local number on each die; each drops its copy, once the leases on it have run out, and answers.
See log entry 14 (DESIGN CHOICE). -/
def execPartitionFilterProbe (s : State) : Host.Outcome State Fault Refusal :=
  .next (
    let x := s.input
    if !filterPasses s x.a then sendOutside s 128 x.b [0]
    else
      let ns := (List.range (Config.dieCount s.part)).map (48 * · + iaSliceNo x.b)
      let key := l1Key s x.b
      let live := ns.any fun n => match Sparse.get? (s.slice n).copies key with
        | some c => anyLease c.lease s.now
        | none => false
      if live then s.postWith { at_ := s.cycle + 1, ev := .partitionFilterProbe, data := x }
      else
        let s := ns.foldl (fun s n => s.setSlice n { s.slice n with copies := Sparse.erase (s.slice n).copies key }) s
        sendOutside s 128 x.b (ns.map fun _ => 1))

/-- Copies of a tenant's lines that slices hold for other dies' homes. -/
def tenantCopies (s : State) (tenant : Nat) : List (Nat × Nat) :=
  (s.slices.map fun p => (p.2.copies.filter fun c => c.2.pte.tenant == tenant).map fun c => (p.1, c.1)).flatten

/-- FILTER_ENTRY_CLEAR (R310): the tenant's requester-side copies are invalidated, and then the store is acknowledged. -/
def execFilterEntryClear (s : State) : Host.Outcome State Fault Refusal :=
  .next (
    let x := s.input
    let tenant := ioReg s x.b % 65536
    let live := (tenantCopies s tenant).filter fun p =>
      match Sparse.get? (s.slice p.1).copies p.2 with
      | some c => anyLease c.lease s.now
      | none => false
    if live.isEmpty then
      let s := (tenantCopies s tenant).foldl (fun s p => eraseCopy s p.1 p.2) s
      ioAck (storeReg s x.b x.c) x.a true
    else s.postWith { at_ := s.cycle + 1, ev := .filterEntryClear, data := x })

/-! ### The security block (R345, R346) -/

/-- EXTEND (R345). -/
def execExtend (s : State) : Host.Outcome State Fault Refusal :=
  .next (
    let x := s.input
    let s := ioAck s x.a true
    if s.io.extgo ≠ 0 ∨ x.c = 0 ∨ 7 < x.c then { s with io := { s.io with errstat := 1 } }
    else
      let s : State := { s with io := { s.io with extgo := x.c, extDigest := ioBytes s 0x200 64 }, free := s.free + 1 }
      s.post (s.cycle + 1 + Config.extraDelay (s.free - 1)) .extendComplete)

/-- EXTEND_COMPLETE (R345). -/
def execExtendComplete (s : State) : Host.Outcome State Fault Refusal :=
  .next (if s.io.extgo = 0 then s
    else
      let a := 64 * s.io.extgo
      let s := putIoBytes s a (shake256 (ioBytes s a 64 ++ s.io.extDigest) 64)
      { s with io := { s.io with extgo := 0 } })

/-- REPORT (R346). -/
def execReport (s : State) : Host.Outcome State Fault Refusal :=
  .next (
    let x := s.input
    let s := ioAck s x.a true
    if x.c ≠ 1 ∨ s.io.rptgo then s
    else
      let s : State := { s with io := { s.io with rptgo := true }, free := s.free + 1 }
      s.post (s.cycle + 1 + Config.extraDelay (s.free - 1)) .reportComplete)

/-- The 4 096 bytes of a report (R346). See log entry 15 (DESIGN CHOICE). -/
def reportBytes (s : State) : List Byte :=
  let msg := ioBytes s 0x280 64 ++ ioBytes s 0 512 ++ toBytes 8 (Config.caps s.part).toNat ++ toBytes 8 s.pkg
  let seed := shake256 ((List.range 64).map Config.fuseUds ++ ioBytes s 0 64) 32
  msg ++ ((List.range 3309).map fun i => Config.mldsaSign seed msg i) ++ List.replicate 195 0

/-- REPORT_COMPLETE (R346): the report is written, and RPTGO is cleared after it. -/
def execReportComplete (s : State) : Host.Outcome State Fault Refusal :=
  .next (inboundWrite s domSecurity 0 (ioReg s 0x2C0) (reportBytes s) 0 0)

/-! ### PCIe (R350, R351) -/

/-- PCIE_RETRAIN (R350): the rest of PCTL is written, and the link retrains outside. See log entry 38 (DEDUCED). -/
def execPcieRetrain (s : State) : Host.Outcome State Fault Refusal :=
  .next (
    let x := s.input
    let a := pcieBase x.b + 8
    if Nat.land x.c (bits 16 16 + bits 11 8 + bits 1 0) ≠ x.c then ioAck s x.a true
    else ioAck (sendOutside (regEffect (setIo s a (x.c - 2)) a) (256 + x.b) 0 []) x.a true)

/-- CONFIG_WRITE (R350). -/
def execConfigWrite (s : State) : Host.Outcome State Fault Refusal :=
  .next (
    let x := s.input
    if endpoint s x.b then ioAck s x.a true
    else
      let st := cfgStatus s
      let s := sendOutside { s with free := s.free + 1 } (272 + x.b) (ioReg s (pcieBase x.b + 0x800)) (toBytes 4 x.c)
      ioAck (setIo s (pcieBase x.b + 0x810) st) x.a true)

/-- MSIX_SEND (R351): the vector's message leaves as a posted write of the port. See log entry 38 (DEDUCED). -/
def execMsixSend (s : State) : Host.Outcome State Fault Refusal :=
  .next (
    let x := s.input
    if !endpoint s x.b ∨ 31 < x.c then ioAck s x.a true
    else
      let t := msixAt x.b + 16 * x.c
      ioAck (sendOutside s x.b (ioReg s t) (ioBytes s (t + 8) 4)) x.a true)

/-- The inbound window that takes an access (R351): its target, and its tenant. -/
def inboundWindow (s : State) (p x : Nat) (write : Bool) : Option (Nat × Nat) :=
  (List.range 16).findSome? fun k =>
    let b := pcieBase p + 0x100 + 32 * k
    let base := ioReg s b
    let ctl := ioReg s (b + 24)
    if ctl / 2 ^ 63 = 1 ∧ base ≤ x ∧ x < base + ioReg s (b + 8) ∧ ctl / (if write then 2 else 1) % 2 = 1 then
      some (ioReg s (b + 16) + (x - base), ctl / 65536 % 65536)
    else none

/-- INBOUND_PCIE_WRITE (R230, R349 to R351): a write beyond the maximum payload is an Unsupported Request; otherwise it is a message of the
interrupt page, or a write through a window, after the earlier writes of its domain. `a` is the port, `b` the address, `c` the requester;
`flag` is Relaxed Ordering. The row also brings the writes of other packages, which the table gives no row of their own: `a` is then 2 more
than the peer's number, `b` the intermediate address, `c` the tenant, `flag` the user bit. See log entry 14 (DESIGN CHOICE). -/
def execInboundPcieWrite (s : State) : Host.Outcome State Fault Refusal :=
  .next (
    let x := s.input
    let p := x.a
    let dom := if x.flag then domRelaxed s else domPcie p x.c
    let msi := ioReg s (pcieBase p + 0x900)
    if 2 ≤ p then (if Config.dusel s.part then inboundWrite s (domDusel (p - 2)) x.c x.b x.bytes 0 0 x.flag else s)
    else if 512 < x.bytes.length then sendOutside s (32 + p) x.b []
    else if !endpoint s p ∧ msi % 2 = 1 ∧ x.b / 4096 = msi / 4096 then
      inboundWrite s dom 0 0 [] 0 ((1 + p) * 2 ^ 24 + leBytes x.bytes % 2 ^ 24 + 1)
    else match inboundWindow s p x.b true with
      | none => sendOutside s (32 + p) x.b []
      | some (ia, tenant) => inboundWrite s dom tenant ia x.bytes (1 + p) 0)

/-- A read that another unit makes for what its event brings: the event comes again in the next cycle while A of a page it reads must wait
(14_tables R302); otherwise the pages are accessed (R193), and the answer is made of the bytes, or of none where a check fails. See log entry 9
(DESIGN CHOICE). -/
def ioRead (s : State) (ev : Instr) (ia n tenant : Nat) (go : State → Option (List Byte) → State) : State :=
  if hwReadWaits s ia n then (hwReadAsk s ia n).postWith { at_ := s.cycle + 1, ev, data := s.input }
  else go (hwSeen s ia n) (hwRead s ia n ⟨false, tenant⟩).toOption

/-- A read of a PCIe port that a window takes, within the maximum read request (R349, R351), is answered with the bytes; any other as an
Unsupported Request. -/
def pcieRead (s : State) : State :=
  let x := s.input
  let p := x.a % 2
  match if 4096 < x.c then none else inboundWindow s p x.b false with
  | none => sendOutside s (32 + p) x.b []
  | some (ia, tenant) => ioRead s .inboundPcieRead ia x.c tenant fun s r => match r with
    | some bs => sendOutside s (16 + p) x.b bs
    | none => sendOutside s (32 + p) x.b []

/-- A request of another package over Dusel, other than a store, comes to the home of address `b` (R355): `a` is 2 more than the package, `c` the
tenant, `flag` the user bit. Its bytes are 0 kind, 1 and 2 operation code, 3 sub-operation, 4 type, 5 size, 6 and 7 LEASELEN, and from 16
the operands, of 16 bytes each. Kind 0 is a load, 1 an atomic, a `RED` or a weighbridge operation, 2 the lock request of an `MCAS` for one line,
with 24 bytes for each entry (offset in the line, EXPECTED, NEW), 3 its commit, 4 its unlock, 5 a `WAITC`. See log entry 14 (DESIGN CHOICE). -/
def duselRequest (s : State) : State :=
  let x := s.input
  let get (i n : Nat) : Nat := descAt x.bytes i n
  let ty : Ty := (Ty.ofCode (get 4 1)).getD .dflt
  let size := min (get 5 1) (512 - x.b % 512)
  let f : Fields := { sub := BitVec.ofNat 8 (get 3 1), ty }
  let lane : Lane := { lane := 0, va := x.b, ia := x.b, size, args := (List.range 2).map fun i => get (16 + 16 * i) 16 }
  let entry (i : Nat) : Lane :=
    { lane := i, va := x.b, ia := x.b / 512 * 512 + get (16 + 24 * i) 8 % 512 / 8 * 8, size := 8, args := [get (24 + 24 * i) 8, get (32 + 24 * i) 8] }
  let start (kind : OpKind) (stage : Nat) (lanes : List Lane) (ev : Nat → Instr) : State :=
    let (id, s) := newOp s
      { kind, core := farCore (x.a - 2), slot := 0, gen := 0, ctx := 2 ^ 64, wix := 0, user := x.flag, tenant := x.c, pc := 0, f, op := get 1 2, lanes
        parts := [{ ia := x.b, lanes := lanes.map (·.lane) }], visit := 1, left := 1, stage, since := s.cycle, tick := s.now, lease := get 6 2 }
    postFirst s (ev id) {}
  match get 0 1 with
  | 0 => start .load 0 [lane] fun id => .loadAtHomeSlice id 0
  | 1 => match get 1 2 with
    | 0x140 => start .atom 0 [lane] fun id => .atomicAtHome id 0
    | 0x141 => start .acas 0 [lane] fun id => .atomicAtHome id 0
    | 0x142 => start .red 0 [lane] .storePerformed
    | 0x145 => start .acas2 0 [lane] fun id => .atomicAtHome id 0
    | _ => if 0x163 ≤ get 1 2 ∧ get 1 2 ≤ 0x167 ∧ get 1 2 ≠ 0x166 then start .wb 0 [lane] fun id => .atomicAtHome id 0 else s
  | 2 => start .mcas 2 ((List.range (min 8 (get 5 1))).map entry) .mcasLockGrant
  | 5 => start .waitc 1 [lane] fun id => .atomicAtHome id 0
  | n => if n ≠ 3 ∧ n ≠ 4 then s
    else match s.ops.find? fun p => p.2.kind == .mcas && p.2.core == farCore (x.a - 2) && p.2.stage == 2 && (p.2.part 0).ia / 512 == x.b / 512 with
      | none => s
      | some (id, o) =>
        let lanes := if n = 3 then o.lanes else o.lanes.map fun y => { y with ok := false }
        postFirst (s.setOp id { o with stage := 3, lanes }) (.atomicAtHome id 0) {}

/-- INBOUND_PCIE_READ (R351): a read of port `a`, of `c` bytes at `b`. The row also brings the requests of other packages that the table gives no
row of their own (R355): `a` is then 2 or more. See log entry 14 (DESIGN CHOICE). -/
def execInboundPcieRead (s : State) : Host.Outcome State Fault Refusal :=
  .next (if s.input.a < 2 then pcieRead s else if Config.dusel s.part then duselRequest s else s)

/-- The bytes of BAR2 from an offset, as a host reads them (R351): the doorbells, the MSI-X table, and its pending bits, none of which is ever set
as a vector is sent at once. See log entry 38 (DEDUCED). -/
def bar2Bytes (s : State) (p o n : Nat) : List Byte :=
  (List.range n).map fun i =>
    let a := o + i
    if a < 0x200 then ioByte s (pcieBase p + 0x2000 + a) else if 0x1000 ≤ a ∧ a < 0x1200 then ioByte s (msixAt p + (a - 0x1000)) else 0

/-- HOST_DOORBELL_WRITE (R351), a write of its requester's domain (R230). `a` is the port and twice the requester, `b` the doorbell, `c` the
value. The row also brings the other accesses of the host to BAR2, which the table gives no row of their own: `b` is 64 more than the
offset in BAR2 of a write of 4 bytes into the MSI-X table, or with `flag` of a read of `c` bytes. See log entry 38 (DEDUCED). -/
def execHostDoorbellWrite (s : State) : Host.Outcome State Fault Refusal :=
  .next (
    let x := s.input
    let p := x.a % 2
    let o := x.b - 64
    let write (msg : Nat) (reg : Nat × Nat) : State := inboundWrite s (domPcie p (x.a / 2)) 0 0 [] 0 msg false [reg]
    if !endpoint s p then s
    else if x.b < 64 then write ((1 + p) * 2 ^ 24 + x.b + 1) (pcieBase p + 0x2000 + 8 * x.b, x.c)
    else if x.flag then (if o + x.c ≤ 0x4000 then sendOutside s (48 + p) o (bar2Bytes s p o x.c) else s)
    else if 0x1000 ≤ o ∧ o < 0x1200 ∧ o % 4 = 0 then write 0 (msixAt p + (o - 0x1000) + 1, x.c)
    else s)

/-- A hot reset, or a link-down from the host, of an endpoint (R351): the link is down, and the MSI-X state is reset. See log entry 38 (DEDUCED). -/
def hostReset (s : State) (p : Nat) : State :=
  let s := setIo s (pcieBase p) (ioReg s (pcieBase p) % 2 ^ 16)
  let s := (List.range 64).foldl (fun s i => setIo s (msixAt p + 8 * i) 0) s
  interrupt s (1 + p) 0xFFFFFF

/-- HOT_RESET (R351). -/
def execHotReset (s : State) : Host.Outcome State Fault Refusal :=
  .next (let p := s.input.a % 2; if !endpoint s p then s else hostReset s p)

/-- Set the link of a PCIe port: one of the widths and rates of R349, at most the highest rate that PCTL allows (R350), comes up while the link is
enabled; one that goes down at an endpoint is a link-down of the host (R351). See log entry 38 (DEDUCED). -/
def pcieLink (s : State) (p : Nat) (up : Bool) (width rate : Nat) : State :=
  let ctl := ioReg s (pcieBase p + 8)
  let rate := min rate (ctl / 256 % 16)
  if up ∧ ctl % 2 = 1 ∧ (width = 1 ∨ width = 4 ∨ width = 8 ∨ width = 16) ∧ 1 ≤ rate ∧ rate ≤ 7 then
    setIo s (pcieBase p) (width + rate * 256 + 2 ^ 16)
  else if endpoint s p ∧ ioReg s (pcieBase p) / 2 ^ 16 % 2 = 1 then setIo (hostReset s p) (pcieBase p) 0
  else setIo s (pcieBase p) 0

/-- Add to a counter of an Ultra Ethernet port (R354): 8 frames received, 16 sent, 24 dropped, 32 link-level retries. See log entry 39 (DEDUCED). -/
def countUe (s : State) (port reg n : Nat) : State :=
  let a := ueBase + 0x1000 + 64 * (port % 4) + reg
  setIo s a (ioReg s a + n)

/-- LINK_UP (R350, R354): a link comes up or goes down. `a` is 0 and 1 for the PCIe ports, with the width `b` and the rate code `c`; 2 to 5 for
those of the Ultra Ethernet controller, which has dropped `b` frames for a bad checksum and made `c` link-level retries since it last told.
See log entry 38 (DEDUCED). -/
def execLinkUp (s : State) : Host.Outcome State Fault Refusal :=
  .next (
    let x := s.input
    if x.a < 2 then pcieLink s x.a x.flag x.b x.c
    else
      let k := 2 ^ (4 + (x.a - 2) % 4)
      let v := ioReg s (ueBase + 8)
      let off := v / (2 * k) * (2 * k) + v % k
      let s := setIo s (ueBase + 8) (if x.flag then off + k else off)
      countError (countUe (countUe s (x.a - 2) 24 x.b) (x.a - 2) 32 x.c) 6 x.c)

/-! ### NVMe (R352) -/

/-- Set the last error of an engine half. -/
def nvmeError (s : State) (p e : Nat) : State := setIo s (nvmeBase p + 8) (256 * e)

/-- A doorbell is forwarded: `tail` tells the submission doorbell from the completion one. See log entry 38 (DEDUCED). -/
def nvmeDoorbell (s : State) (tail : Bool) : State :=
  let x := s.input
  let p := x.b / 64
  let b := nvmeBase p + 0x1000 + 64 * (x.b % 64)
  let size := ioReg s (b + 16) / (if tail then 1 else 65536) % 4096
  let s := ioAck s x.a true
  if endpoint s p ∨ ioReg s (nvmeBase p) % 2 = 0 ∨ ioReg s (b + 24) / 2 ^ 63 = 0 then nvmeError s p 1
  else if size < x.c then nvmeError s p 2
  else
    let s := sendOutside { s with free := s.free + 1 } p (ioReg s (b + if tail then 32 else 40)) (toBytes 4 x.c)
    if Config.outsideStatus (s.free - 1) = 0 then s else nvmeError s p 3

/-- NVME_SQ_TAIL_WRITE (R352). -/
def execNvmeSqTailWrite (s : State) : Host.Outcome State Fault Refusal := .next (nvmeDoorbell s true)
/-- NVME_CQ_HEAD_WRITE (R352). -/
def execNvmeCqHeadWrite (s : State) : Host.Outcome State Fault Refusal := .next (nvmeDoorbell s false)

/-! ### Ultra Ethernet (R353, R354) -/

def ueQueue (k : Nat) : Nat := ueBase + 0x100000 + 64 * k

/-- Fields of a descriptor. -/
def ueOp (d : List Byte) : Nat := descAt d 0 1
def ueFlags (d : List Byte) : Nat := descAt d 1 1
def ueCtx (d : List Byte) : Nat := descAt d 4 4
def ueLocal (d : List Byte) : Nat := descAt d 8 8
def ueLength (d : List Byte) : Nat := descAt d 16 4
def ueRaddr (d : List Byte) : Nat := descAt d 24 8
def ueRkey (d : List Byte) : Nat := descAt d 32 8
def ueTag (d : List Byte) : Nat := descAt d 40 8

/-- A descriptor is well formed for its queue (R354). -/
def ueOk (s : State) (k : Nat) (d : List Byte) : Bool :=
  let recv := ioReg s (ueQueue k + 48) / 2 ^ 25 % 2 == 1
  descAt d 2 2 == 0 && descAt d 20 4 == 0 && descAt d 48 16 == 0 && decide (ueFlags d < 4) && decide (1 ≤ ueLength d) &&
  decide (ueCtx d < ioReg s (ueBase + 0x2008)) && (if recv then ueOp d == 1 else decide (1 ≤ ueOp d) && decide (ueOp d ≤ 3))

/-- The tenant of a queue. -/
def ueTenant (s : State) (k : Nat) : Nat := ioReg s (ueQueue k + 48) % 65536

/-- Write a completion entry of a queue, after the writes of its context (R353, R354), and raise the queue's message when it asks
for one. The first pass round a ring has phase 1. See log entry 39 (DEDUCED). -/
def ueComplete (s : State) (k : Nat) (d : List Byte) (count status : Nat) : State :=
  let q := ueQueue k
  let n := Sparse.get 0 s.io.cqDone k
  let size := max 1 (ioReg s (q + 24))
  let entry := toBytes 8 (ueTag d) ++ toBytes 4 count ++ toBytes 1 status ++ toBytes 1 (1 - n / size % 2) ++ toBytes 2 0
  let ctl := ioReg s (q + 48)
  let msg := if ctl / 2 ^ 24 % 2 = 1 then 4 * 2 ^ 24 + ctl / 65536 % 256 + 1 else 0
  let s : State := { s with io := { s.io with cqDone := Sparse.put s.io.cqDone k (n + 1) } }
  inboundWrite s (domUe (ueCtx d)) (ueTenant s k) (ioReg s (q + 16) + 16 * (n % size)) entry 0 msg

/-- Where the next descriptor of a queue lies, if it has one and is enabled, and none of its descriptors is being started (R354). -/
def ueAt (s : State) (k : Nat) : Option Nat :=
  let q := ueQueue k
  let size := max 1 (ioReg s (q + 8))
  let head := ioReg s (q + 40)
  let busy := s.agenda.any fun d => (d.ev == .ueSend || d.ev == .ueRemoteWrite || d.ev == .ueRemoteRead) && d.data.a == k
  if ioReg s ueBase % 2 = 0 ∨ ioReg s (q + 48) / 2 ^ 63 = 0 ∨ head % size = ioReg s (q + 32) % size ∨ busy then none
  else some (ioReg s q + 64 * (head % size))

/-- The next descriptor of a queue, when there is one that can be read (R193) and it may start: FLAGS bit 1 waits for the queue's earlier
reads. See log entry 39 (DEDUCED). -/
def ueNext (s : State) (k : Nat) : Option (List Byte) :=
  (ueAt s k).bind fun ia =>
    match hwRead s ia 64 ⟨false, ueTenant s k⟩ with
    | .error _ => none
    | .ok d => if ueFlags d / 2 % 2 = 1 ∧ s.io.flying.any fun p => p.1 == k && ueOp p.2 == 3 then none else some d

/-- Hand the next descriptor of a queue to the controller, which takes it as the event of its kind; while A of its page must wait, the queue is
looked at again in the next cycle (14_tables R302). -/
def ueStep (s : State) (k : Nat) : State :=
  match ueAt s k with
  | none => s
  | some ia =>
    if hwReadWaits s ia 64 then (hwReadAsk s ia 64).postWith { at_ := s.cycle + 1, ev := .ueSend, data := { a := k, flag := true } }
    else match ueNext s k with
      | none => hwSeen s ia 64
      | some d =>
        let q := ueQueue k
        let size := max 1 (ioReg s (q + 8))
        let s := setIo (hwSeen s ia 64) (q + 40) ((ioReg s (q + 40) + 1) % size)
        let ev : Instr := match ueOp d with
          | 2 => .ueRemoteWrite
          | 3 => .ueRemoteRead
          | _ => .ueSend
        postFirst s ev { a := k, bytes := d }

/-- UE_TAIL_WRITE (R354). -/
def execUeTailWrite (s : State) : Host.Outcome State Fault Refusal :=
  .next (
    let x := s.input
    ueStep (ioAck (setIo s (ueQueue x.b + 32) (x.c + ioReg s (ueQueue x.b + 32) / 2 ^ 32 * 2 ^ 32)) x.a true) x.b)

/-- UE_CQ_HEAD_WRITE (R354): completion entries are free again. See log entry 39 (DEDUCED). -/
def execUeCqHeadWrite (s : State) : Host.Outcome State Fault Refusal :=
  .next (
    let x := s.input
    let a := ueQueue x.b + 32
    ioAck (setIo s a (ioReg s a % 2 ^ 32 + x.c * 2 ^ 32)) x.a true)

/-- A bad descriptor completes with status 3. -/
def ueBad (s : State) (k : Nat) (d : List Byte) : State := if ueFlags d % 2 = 1 then ueComplete s k d 0 3 else s

/-- A descriptor that starts, a bad one being no more than completed; then the queue goes on. See log entry 39 (DEDUCED). -/
def ueStart (s : State) (go : State → State) : State :=
  let k := s.input.a
  let d := s.input.bytes
  ueStep (if ueOk s k d then go s else ueBad s k d) k

/-- Where the entry of a transport context lies, of which software writes 64 bytes (R354). -/
def ueEntryAt (s : State) (ctx : Nat) : Nat := ioReg s (ueBase + 0x2000) + 256 * ctx

/-- An operation is in flight to its peer, with bytes that it carries: it leaves by a port towards the network address of its transport
context, with what the context's entry says (context at the peer, delivery mode, algorithm, entropy values, tenant), and is counted there
as one frame or more. See log entry 39 (DEDUCED). -/
def ueFly (s : State) (entry bs : List Byte) : State :=
  let k := s.input.a
  let d := s.input.bytes
  let head := (entry.drop 8).take 14 ++ toBytes 1 (ueOp d) ++ toBytes 8 (ueRkey d) ++ toBytes 8 (ueRaddr d) ++ toBytes 4 (ueLength d)
  let s := sendOutside s (512 + k) (descAt entry 0 8) (head ++ bs)
  let s := countUe { s with free := s.free + 1 } (Config.outsideStatus s.free) 16 (1 + Config.extraDelay s.free)
  { s with io := { s.io with flying := s.io.flying ++ [(k, d)] } }

/-- A descriptor that starts, and that needs `n` bytes of its local buffer, has the entry of its transport context read, and the bytes
(R193, R354): where they cannot be read the operation is not made, as of a bad descriptor. See log entry 39 (DEDUCED). -/
def ueCarry (s : State) (ev : Instr) (n : Nat) : State :=
  let k := s.input.a
  let d := s.input.bytes
  if !ueOk s k d then ueStart s id
  else ioRead s ev (ueEntryAt s (ueCtx d)) 64 0 fun s e =>
    match e with
    | none => ueStart s fun s => ueBad s k d
    | some e =>
      if n = 0 then ueStart s fun s => ueFly s e []
      else ioRead s ev (ueLocal d) n (ueTenant s k) fun s r =>
        match r with
        | some bs => ueStart s fun s => ueFly s e bs
        | none => ueStart s fun s => ueBad s k d

/-- UE_SEND (R354): a message leaves, or a receive buffer is posted; with `flag` the queue is looked at for a descriptor. -/
def execUeSend (s : State) : Host.Outcome State Fault Refusal :=
  .next (
    let k := s.input.a
    if s.input.flag then ueStep s k
    else if ioReg s (ueQueue k + 48) / 2 ^ 25 % 2 = 1 then
      ueStart s fun s => { s with io := { s.io with posted := s.io.posted ++ [(k, s.input.bytes)] } }
    else ueCarry s .ueSend (ueLength s.input.bytes))

/-- UE_REMOTE_WRITE (R354). -/
def execUeRemoteWrite (s : State) : Host.Outcome State Fault Refusal := .next (ueCarry s .ueRemoteWrite (ueLength s.input.bytes))

/-- UE_REMOTE_READ (R354). -/
def execUeRemoteRead (s : State) : Host.Outcome State Fault Refusal := .next (ueCarry s .ueRemoteRead 0)

/-- Frames have come in by a port, and are counted there. See log entry 39 (DEDUCED). -/
def ueArrive (s : State) : State :=
  countUe { s with free := s.free + 1 } (Config.outsideStatus s.free) 8 (1 + Config.extraDelay s.free)

/-- UE_COMPLETION_ENTRY (R354): the peer has answered the operation of queue `a` that is number `b` in flight, with status `c`; a read
brings its bytes. -/
def execUeCompletionEntry (s : State) : Host.Outcome State Fault Refusal :=
  .next (
    let x := s.input
    let mine := s.io.flying.filter fun p => p.1 == x.a
    match mine[x.b]? with
    | none => s
    | some (k, d) =>
      let rest := (s.io.flying.filter fun p => p.1 != x.a) ++ (mine.take x.b ++ mine.drop (x.b + 1))
      let s : State := ueArrive { s with io := { s.io with flying := rest } }
      let s := if ueOp d = 3 ∧ x.c = 0 then inboundWrite s (domUe (ueCtx d)) (ueTenant s k) (ueLocal d) (x.bytes.take (ueLength d)) 0 0 else s
      let s := if ueFlags d % 2 = 1 then ueComplete s k d (if x.c = 0 then ueLength d else 0) (x.c % 3) else s
      ueStep s k)

/-- UE_MESSAGE_RECEIVE (R230, R353, R354): a message of context `b` for receive queue `a` is written to the buffer posted first, and then its
completion entry, both in the ordering domain of that context. With no buffer it is not taken. See log entry 39 (DEDUCED). -/
def execUeMessageReceive (s : State) : Host.Outcome State Fault Refusal :=
  .next (
    let x := s.input
    match s.io.posted.find? fun p => p.1 == x.a with
    | none => s
    | some (k, d) =>
      let rest := s.io.posted.filter (fun p => p.1 != x.a) ++ (s.io.posted.filter fun p => p.1 == x.a).drop 1
      let s : State := ueArrive { s with io := { s.io with posted := rest } }
      let bs := x.bytes.take (ueLength d)
      let s := inboundWrite s (domUe (x.b % 2 ^ 32)) (ueTenant s k) (ueLocal d) bs 0 0
      ueComplete s k (d.take 4 ++ toBytes 4 x.b ++ d.drop 8) bs.length 0)

/-- Where the key table has the entry of a remote memory key (R354). -/
def ueKeyAt (s : State) (key : Nat) : Nat := ioReg s (ueBase + 0x2000) + 2 ^ 24 + 32 * (key % 65536)

/-- UE_INBOUND_REMOTE_ACCESS (R354): a peer's access under key `a` at distance `b` from the region's start; `flag` tells a write, and `c` is
then its transport context, whose ordering domain the write joins (R230); of a read it is the length. See log entry 39 (DEDUCED). -/
def execUeInboundRemoteAccess (s : State) : Host.Outcome State Fault Refusal :=
  .next (
    let x := s.input
    let n := if x.flag then x.bytes.length else x.c
    if ioReg s ueBase % 2 = 0 then sendOutside s 768 x.a []
    else ioRead s .ueInboundRemoteAccess (ueKeyAt s x.a) 32 0 fun s e =>
      let e := leBytes (e.getD [])
      let (region, len, rights, tenant) := (fieldAt e 0 8, fieldAt e 8 8, fieldAt e 16 1, fieldAt e 18 2)
      if len < x.b + n ∨ rights / (if x.flag then 1 else 2) % 2 = 0 then sendOutside (ueArrive s) 768 x.a []
      else if x.flag then inboundWrite (ueArrive s) (domUe x.c) tenant (region + x.b) x.bytes 0 0
      else ioRead s .ueInboundRemoteAccess (region + x.b) n tenant fun s r => match r with
        | some bs => sendOutside (ueArrive s) 769 x.a bs
        | none => sendOutside (ueArrive s) 768 x.a [])

/-! ### Dusel (R355 to R357) -/

def duselPort (k : Nat) : Nat := duselBase + 0x100 + 64 * k

/-- Members that no working port reaches any more are fenced (R357). See log entry 40 (DEDUCED). -/
def fenceUnreached (s : State) : State :=
  (s.io.domain.filter fun n => n != s.pkg && !s.io.fenced.getLsbD n && ioReg s (duselBase + 0x1000 + 8 * n) / 2 ^ 63 == 1 && !reachable s n).foldl
    (fun s n => postFirst s .packageFenced { a := n }) s

/-- Fence a port (R356, R357), with the notice of a fenced link. See log entry 40 (DEDUCED). -/
def fencePort (s : State) (k : Nat) : State :=
  let v := ioReg s (duselPort k)
  if v / 4 % 2 = 1 then s
  else fenceUnreached (interrupt (setIo s (duselPort k) (v + 4)) 0x10 (0x100 + k))

/-- DUSEL_PORT_FENCE (R356). -/
def execDuselPortFence (s : State) : Host.Outcome State Fault Refusal :=
  .next (let x := s.input; fencePort (if x.flag then ioAck s x.a true else s) x.b)

/-- DUSEL_PORT_RETURN (R356). -/
def execDuselPortReturn (s : State) : Host.Outcome State Fault Refusal :=
  .next (
    let x := s.input
    let s := if x.flag then ioAck s x.a true else s
    let v := ioReg s (duselPort x.b)
    setIo s (duselPort x.b) (v / 8 * 8 + v % 4))

/-- A lane is down (R357): a port with no lane is fenced. See log entry 40 (DEDUCED). -/
def laneDown (s : State) (k lane : Nat) : State :=
  let v := ioReg s (duselPort k)
  let b := 2 ^ (lane % 2)
  let v' := v / (2 * b) * (2 * b) + v % b
  let s := setIo s (duselPort k) v'
  if v' % 4 = 0 then fencePort s k else s

/-- DUSEL_LANE_FAILURE (R357): port `a`, lane `b`. -/
def execDuselLaneFailure (s : State) : Host.Outcome State Fault Refusal :=
  .next (if Config.dusel s.part ∧ s.input.a < 24 then laneDown s s.input.a s.input.b else s)

/-- DUSEL_FLIT_REPLAY (R355, R356): a flit is replayed by port `a`, or arrives there in error with `flag`; nothing else changes.
See log entry 17 (DESIGN CHOICE). -/
def execDuselFlitReplay (s : State) : Host.Outcome State Fault Refusal :=
  .next (
    let x := s.input
    let a := duselPort (x.a % 24) + if x.flag then 16 else 8
    let s := setIo s a (ioReg s a + 1)
    if x.flag then s else countError s 5 1)

/-- The home slices release, without commit, the locks that they hold for a fenced package, and those it waits for (R357). -/
def freeLocks (s : State) (n : Nat) : State :=
  (s.ops.filter fun p => p.2.kind == .mcas && p.2.core == farCore n).foldl
    (fun s p => (unlockAll s p.1 [(p.2.part 0).ia]).dropOp p.1) s

/-- An `MCAS` of this package that holds a lock in a fenced one, and still waits for another lock, is answered as not present: that request is
withdrawn, and every line is unlocked (R357; 11_atomics R244). -/
def fenceMcas (s : State) (n : Nat) : State :=
  (s.ops.filter fun p => p.2.kind == .mcas && p.2.stage == 2 && !p.2.far && p.2.parts.any fun q => q.done && iaPkg q.ia == n).foldl
    (fun s p => match p.2.parts.findIdx? (!·.done) with
      | none => s
      | some k =>
        let s := unlockAll s p.1 [(p.2.part k).ia]
        let agenda := s.agenda.filter fun d => d.ev != .mcasLockGrant p.1 && d.ev != .loadResponse p.1 k
        mcasEnd { s with agenda } p.1 (mcasFenced s p.2) (k + 1)) s

/-- PACKAGE_FENCED (R357): requests to package `a` are answered not present, its locks are released, and an `MCAS` that holds a lock there goes
no further; a message gives notice. See log entry 40 (DEDUCED). -/
def execPackageFenced (s : State) : Host.Outcome State Fault Refusal :=
  .next (
    let n := s.input.a
    if 192 ≤ n ∨ s.io.fenced.getLsbD n then s
    else
      let s : State := { s with io := { s.io with fenced := s.io.fenced ||| BitVec.ofNat 192 (2 ^ n) } }
      interrupt (fenceMcas (freeLocks s n) n) 0x10 n)

end Sys2Proof.Machine
end

