-- ==== Sys2Proof/Machine/Boot.lean ====
section
/-! DEFINITION. Boot, time and management (15_counters R322, R324; 17_platform R343, R344, R355 to R361). -/

namespace Sys2Proof.Machine

/-! ### The image and the boot ROM (R343, R344) -/

def flashBytes (s : State) (a n : Nat) : List Byte := Memory.readAll s.flash a n
def flashNat (s : State) (a n : Nat) : Nat := leBytes (flashBytes s a n)

/-- Limits of the header (R343); the payload lies on die 0. See log entry 41 (DEDUCED). -/
def headerOk (s : State) : Bool :=
  let len := flashNat s 8 8
  let load := flashNat s 24 8
  flashNat s 0 4 == 0x4E56455A && decide (1 ≤ len) && decide (len ≤ 536862720) && flashNat s 23 1 == 0xFF &&
  load % 65536 == 0 && decide (0x4000000 ≤ load) && decide (load + len ≤ 2 ^ 38) && decide (flashNat s 32 1 < 4) &&
  ((flashBytes s 33 31).all fun b => b == 0) && ((flashBytes s 5325 2867).all fun b => b == 0)

def publicKey (s : State) : List Byte := flashBytes s 64 1952
def signature (s : State) : List Byte := flashBytes s 2016 3309
/-- Header bytes 0 to 2 015 followed by the payload. -/
def signedBytes (s : State) : List Byte := flashBytes s 0 2016 ++ flashBytes s 8192 (flashNat s 8 8)

/-- The first of steps 1 to 3 that fails, if any (R344). See log entry 15 (DESIGN CHOICE). -/
def bootFailure (s : State) : Option Nat :=
  if !headerOk s then some 1
  else if shake256 (publicKey s) 64 ≠ (List.range 64).map Config.fuseKeyHash then some 2
  else if !Config.mldsaVerify (publicKey s) (signedBytes s) (signature s) then some 3
  else none

/-- The entry that the boot ROM gives a table page or a page of the payload (R344 step 5). -/
def bootPte (p : Nat) : Nat := 1 + 2 + 8 + 2 * 2 ^ 12 + p * 2 ^ 20

/-- Write the page table of die `d`: the listed pages, and 0 for every other (R344 step 5). -/
def bootTable (m : Memory) (d : Nat) (pages : List Nat) : Memory :=
  pages.foldl (fun m p => Memory.writeAll m (d * 2 ^ 38 + 16 * p) (toBytes 16 (bootPte p))) (Memory.without m (d * 2 ^ 38) (2 ^ 26))

/-- An S-lane as it starts (R51, R344). -/
def bootLane (c : Nat) (entry : Va) : Warp :=
  { single := true, priv := true, threads := [(0, { life := .live, pc := entry })], fronts := [{ lanes := 1 }], cur := some 0
    regs := Sparse.set 0 [] 0 (BitVec.ofNat 32 c) }

/-- Start the S-lane of core `c`. -/
def startLane (entry : Va) (s : State) (c : Nat) : State :=
  let k := s.core c
  s.setCore c { k with warps := Sparse.put k.warps 64 (bootLane c entry), sl := { k.sl with started := true } }

/-- The rings that a reset leaves as they are (13_queues R276): the record ring of each core, and the tip ring of each cluster, as address and
length. -/
def ringSpans (s : State) : List (Nat × Nat) :=
  (s.cores.filter fun p => p.2.svqbase != 0).map (fun p => (areaOf p.2, 0x4000)) ++
  s.clusters.filterMap fun p => p.2.desc.map fun d => (d.tipIa, 256 * 2 ^ d.tipLog)

/-- The slice lines of the rings are written to HBM4. -/
def keepRings (s : State) : State :=
  let inRing (key : Nat) : Bool := (ringSpans s).any fun p => decide (iaLocal p.1 < 512 * key + 512) && decide (512 * key < iaLocal p.1 + p.2)
  let keys := (s.slices.map fun p => (p.2.lines.filter fun q => q.2.dirty != 0 && inRing q.1).map (·.1)).flatten
  keys.foldl dropLine s

/-- The state that a reset leaves: what is fused, on the board or in HBM4 stays (log entry 2), and the rings with it (13_queues R276; log
entry 13). -/
def afterReset (s : State) : State :=
  let s := keepRings s
  { State.reset with
    part := s.part, flash := s.flash, hbm := s.hbm, hbmErrs := s.hbmErrs, free := s.free
    clusters := (s.clusters.filter fun p => !p.2.tips.isEmpty).map fun p => (p.1, { tips := p.2.tips, tipAt := p.2.tipAt }) }

/-- The boot ROM (R344); what it writes whole is in error no longer (16_events R341). See log entry 1 (DESIGN CHOICE), entry 41 (DEDUCED). -/
def bootRom (s : State) : State :=
  match bootFailure s with
  | some n => { s with boot := .failed n }
  | none =>
    let len := flashNat s 8 8
    let load := flashNat s 24 8
    let entry : Va := BitVec.ofNat 72 (flashNat s 16 8)
    let hbm := Memory.copyIn s.hbm load len s.flash 8192
    let pages := List.range 1024
    let mine := (List.range ((len + 65535) / 65536)).map (load / 65536 + ·)
    let hbm := (List.range (Config.dieCount s.part)).foldl (fun m d => bootTable m d (if d = 0 then pages ++ mine else pages)) hbm
    let written (a : Nat) : Bool := decide (32 * a % 2 ^ 38 < 2 ^ 26) || (decide (load ≤ 32 * a) && decide (32 * a + 32 ≤ load + len))
    let hbmErrs := s.hbmErrs.filter fun a => !written a
    let meas := shake256 (List.replicate 64 0 ++ shake256 (signedBytes s) 64) 64
    let s := putIoBytes { s with hbm, hbmErrs, boot := .done, io := { s.io with pcieMode := BitVec.ofNat 2 (flashNat s 32 1) } } 0 meas
    (List.range (Config.cores s.part)).foldl (startLane entry) s

/-- PACKAGE_RESET (R344). When the package has run, it is reset first. -/
def execPackageReset (s : State) : Host.Outcome State Fault Refusal :=
  .next (if s.boot = .before then bootRom s else bootRom { (afterReset s) with agenda := [] })

/-- RESET_COMMAND (R358): the package is reset, and the boot ROM follows. -/
def execResetCommand (s : State) : Host.Outcome State Fault Refusal := .next (afterReset s)

/-! ### Time (R322, R324) -/

/-- The global time moves on to `t`: timers that it reaches expire (R324). See log entry 41 (DEDUCED). -/
def advanceTo (s : State) (t : Nat) : State :=
  let due := s.cores.filter fun p => decide (s.now < p.2.timecmp.toNat) && decide (p.2.timecmp.toNat ≤ t)
  due.reverse.foldl (fun s p => s.postNow (.timerExpiry p.1)) { s with now := t }

/-- One tick passes: it is held back, or the time moves on by one. -/
def tick (s : State) : State := if 0 < s.hold then { s with hold := s.hold - 1 } else advanceTo s (s.now + 1)

/-- TIME_ADJUSTMENT (R322): the domain's time differs by `a` ticks; with `flag` the domain is ahead. The counter advances by two at once,
which takes the place of the next tick, or is held for one tick. See log entry 41 (DEDUCED). -/
def execTimeAdjustment (s : State) : Host.Outcome State Fault Refusal :=
  .next (
    let x := s.input
    let free := match s.lastAdjust with | none => true | some t => decide (t + 1024 ≤ s.now)
    if s.io.domain.isEmpty ∨ x.a ≤ 2 ∨ !free then s
    else
      let s : State := { s with lastAdjust := some s.now, hold := s.hold + 1 }
      if x.flag then advanceTo s (s.now + 2) else s)

/-- DUSEL_DOMAIN_JOIN (R322, R355): the members are `bytes`, the domain's time is `a`. A counter that is behind is brought to it, one that
is ahead is held, since the time never decreases. The links are up. See log entry 40 (DEDUCED). -/
def execDuselDomainJoin (s : State) : Host.Outcome State Fault Refusal :=
  .next (
    let x := s.input
    if !Config.dusel s.part then s
    else
      let members := ((x.bytes.map BitVec.toNat).filter fun n => decide (n < 192)).eraseDups
      let members := if members.contains s.pkg then members else members ++ [s.pkg]
      let s : State := { s with io := { s.io with domain := members }, hold := s.hold + (s.now - x.a) }
      let meets (k : Nat) : Nat := 256 * (Config.outsideByte s.free k).toNat
      let s := (List.range 24).foldl (fun s k => setIo s (duselPort k) (meets k + (ioReg s (duselPort k) % 256 ||| 3))) { s with free := s.free + 1 }
      if s.now < x.a then advanceTo s x.a else s)

/-! ### Clock (R358) -/

/-- The next cycle whose count is a multiple of 4 096. See log entry 41 (DEDUCED). -/
def clockBoundary (cycle : Nat) : Nat := (cycle / 4096 + 1) * 4096

/-- Ask for a clock step. See log entry 41 (DEDUCED). -/
def askClock (s : State) (n : Nat) : State := { s with clockCmd := s.clockCmd ++ [n] }.post (clockBoundary s.cycle) .clockStepChange

/-- CLOCK (R358): step `a`; a step that does not exist is refused. -/
def execClock (s : State) : Host.Outcome State Fault Refusal := .next (if s.input.a ≤ 4 then askClock s s.input.a else s)

/-- CLOCK_STEP_CHANGE (R358): the first step that is still to take effect does. -/
def execClockStepChange (s : State) : Host.Outcome State Fault Refusal :=
  .next (match s.clockCmd with
    | n :: r => { s with clockStep := n, clockCmd := r, phase := s.phase * Config.freq n / Config.freq s.clockStep }
    | [] => s)

/-- THERMAL_STEP_DOWN (R358): die `a` has reached 105 °C; the next slower step is taken as if it had been commanded, and STATUS tells. -/
def execThermalStepDown (s : State) : Host.Outcome State Fault Refusal :=
  .next (
    let d := s.input.a
    let hot := if s.hot.contains d then s.hot else s.hot ++ [d]
    askClock { s with hot } (min 4 (s.clockCmd.getLastD s.clockStep + 1)))

/-! ### Management (R355, R357 to R359, R361) -/

/-- A warp is resident on a die. -/
def dieInUse (s : State) (d : Nat) : Bool := s.cores.any fun p => p.1 / 48 == d && p.2.warps.any fun w => w.1 != 64

/-- DIESLEEP_SLEEP (R359, R361): die `a`. See log entry 41 (DEDUCED). -/
def execDiesleepSleep (s : State) : Host.Outcome State Fault Refusal :=
  .next (
    let d := s.input.a
    if Config.dieCount s.part ≤ d ∨ dieInUse s d then s else s.setDie d { s.die d with asleep := true })

/-- DIESLEEP_WAKE (R359). -/
def execDiesleepWake (s : State) : Host.Outcome State Fault Refusal :=
  .next (
    let d := s.input.a
    if Config.dieCount s.part ≤ d then s else s.setDie d { s.die d with asleep := false })

/-- GATEIDLE_COMMAND (R358): the value `a` for every core; it stands over a `CWR` of the same cycle. See log entry 23 (DEDUCED). -/
def execGateidleCommand (s : State) : Host.Outcome State Fault Refusal :=
  .next { s with late := s.late ++ (List.range (Config.cores s.part)).map fun c => (c, 0x10042, BitVec.ofNat 64 (s.input.a % 2 ^ 32)) }

/-- FENCE_PACKAGE (R357, R361). -/
def execFencePackage (s : State) : Host.Outcome State Fault Refusal :=
  .next (if !Config.dusel s.part ∨ 192 ≤ s.input.a then s else postFirst s .packageFenced { a := s.input.a })

/-- FENCE_PORT_LANE (R357, R361): lane `b` of port `a`. -/
def execFencePortLane (s : State) : Host.Outcome State Fault Refusal :=
  .next (
    let x := s.input
    if !Config.dusel s.part ∨ 24 ≤ x.a ∨ 2 ≤ x.b then s else laneDown s x.a x.b)

/-- FLASH (R358): up to 4 KiB at offset `a`. -/
def execFlash (s : State) : Host.Outcome State Fault Refusal :=
  .next (
    let x := s.input
    if 4096 < x.bytes.length ∨ 2 ^ 29 < x.a + x.bytes.length then s else { s with flash := Memory.writeAll s.flash x.a x.bytes })

/-- What STATUS reports of boot: 0 before it is over, the step that failed, 0xFF when it is over. See log entry 16 (DESIGN CHOICE). -/
def Boot.code : Boot → Nat
  | .before => 0
  | .failed n => n
  | .done => 0xFF

/-- STATUS_COMMAND (R51, R358, R360): boot step, clock step, dies that stepped the clock down, a temperature for each die, the error
counters, core, TRAPCAUSE and TRAPPC of every halted S-lane, and core and PC of every S-lane that stands at a `WFI` (16_events R335), in the
same form with cause 0 (log entry 16). -/
def execStatusCommand (s : State) : Host.Outcome State Fault Refusal :=
  .next (
    let dies := List.range (Config.dieCount s.part)
    let halted := s.cores.filter fun p => p.2.sl.halted
    let waits := s.cores.filter fun p => p.2.sl.wfi && !p.2.sl.halted
    let one (c cause : Nat) (pc : Va) : List Byte := toBytes 2 c ++ toBytes 1 cause ++ toBytes 9 pc.toNat
    let lanes := ((halted.map fun p => let w := s.warpAt p.1 64; one p.1 w.trap.cause.toNat w.trap.pc) ++
      waits.map fun p => one p.1 0 ((s.warpAt p.1 64).thread 0).pc).flatten
    let bs := toBytes 1 s.boot.code ++ toBytes 1 s.clockStep ++ (dies.map fun d => if s.hot.contains d then (1 : Byte) else 0) ++
      (dies.map fun d => Config.outsideByte s.free d) ++ ((List.range 8).map fun i => toBytes 8 (ioReg s (errBase + 8 * i))).flatten ++ lanes
    sendOutside { s with free := s.free + 1 } 1024 0 bs)

/-- PKGNUM (R355, R361): refused once boot is over. See log entry 41 (DEDUCED). -/
def execPkgnum (s : State) : Host.Outcome State Fault Refusal :=
  .next (if s.boot = .done ∨ 192 ≤ s.input.a ∨ !Config.dusel s.part then s else { s with pkg := s.input.a })

end Sys2Proof.Machine
end

