-- ==== Sys2Proof/Machine/Fetch.lean ====
section
/-! DEFINITION. Fetching an instruction's words (03_encoding R57 to R59; 22_program_issue_trace R365). -/

namespace Sys2Proof.Machine

/-- One word of an instruction: it is there, its fetch faults (cause, address), or it is not in the L1. -/
inductive FetchWord where
  | word (x : Nat)
  | bad (cause : Nat) (va : Nat)
  | miss (ia : Nat)
deriving DecidableEq, Repr

/-- The word at an address as the executing warp reads it (R58, R59): from a live copy, or as it arrived. A fetch from I/O
space faults with cause 0x0B (R191). See log entry 19 (DEDUCED). -/
def fetchWord (s : State) (va0 va : Nat) : FetchWord :=
  let w := s.warp
  match translateFor s w .fetch va with
  | .error c => .bad c va
  | .ok ia =>
    if place s ia = .io then .bad 0x0B va
    else if l1Hit s s.selfCore ⟨!w.priv, w.tenant.toNat⟩ ia 4 then
      if (match l1? s s.selfCore ia with | some l => l.errs / 2 ^ (ia % 512 / 32) % 2 == 1 | none => false) then .bad 0x12 va else .word (leBytes (l1Bytes s s.selfCore ia 4))
    else match w.fetched with
      | some (v, ws) => if v.toNat = va0 ∧ va0 ≤ va then
          match ws[(va - va0) / 4]? with
          | some x => .word x
          | none => .miss ia
        else .miss ia
      | none => .miss ia

/-- What the fetch at the current front's PC gives; `miss` tells the first word that is not there. -/
inductive Fetched where
  | words (ws : List Nat)
  | bad (cause : Nat) (va : Nat)
  | miss (i : Nat)
deriving DecidableEq, Repr

/-- Words `i` to `i + n - 1` of the instruction, after those read. -/
def fetchMore (s : State) (va0 : Nat) : Nat → Nat → List Nat → Fetched
  | _, 0, acc => .words acc
  | i, n + 1, acc =>
    match fetchWord s va0 ((va0 + 4 * i) % 2 ^ 72) with
    | .bad c va => .bad c va
    | .miss _ => .miss i
    | .word x => fetchMore s va0 (i + 1) n (acc ++ [x])

/-- The words of the instruction at the current front's PC (R57, R58); an instruction that is held at its release has its own. See log entry 19
(DEDUCED). -/
def fetchAt (s : State) : Fetched :=
  let pc := s.warp.pc.toNat
  match (if s.warp.held then s.warp.seen else none) with
  | some x => .words x.words
  | none =>
  if pc % 4 ≠ 0 then .bad 0x07 pc
  else match fetchWord s pc pc with
    | .bad c va => .bad c va
    | .miss _ => .miss 0
    | .word x => fetchMore s pc 1 (wordCount x - 1) [x]

/-- The warp could issue something now (R41): the checks of `issue` that do not depend on the instruction. A front with loads that
have not passed their check issues only loads (R196); a fetch fault waits. -/
def fetchReady (s : State) : Bool := mayIssue s s.warp 0x100
def faultReady (s : State) : Bool := mayIssue s s.warp 0x0C9

/-- Begin to bring the words from the one numbered `i` on in (R365): they are read as relaxed loads (R59), all that are known to miss at once.
See log entry 19 (DEDUCED). -/
def startFetch (s : State) (i : Nat) : State :=
  let w := s.warp
  if w.fetching.isSome then s
  else
    let pc := w.pc.toNat
    let n := match fetchWord s pc pc with | .word x => wordCount x | _ => 1
    let lanes : List Lane := ((List.range (n - i)).map (· + i)).filterMap fun j =>
      match fetchWord s pc ((pc + 4 * j) % 2 ^ 72) with
      | .miss ia => some { lane := j, va := (pc + 4 * j) % 2 ^ 72, ia, size := 4 }
      | _ => none
    let parts := legsOf lanes []
    let (id, s) := newOp s { opOf s .fetch 0 {} with lanes, parts, left := parts.length }
    sendLegs (s.setWarp { w with fetching := some id }) id parts.length

/-- The sector of a word is in error in the L1 (16_events R341). -/
def fetchErr (s : State) (va : Nat) : Bool :=
  match translateFor s s.warp .fetch va with
  | .ok ia => (match l1? s s.selfCore ia with | some l => l.errs / 2 ^ (ia % 512 / 32) % 2 == 1 | none => false)
  | .error _ => false

/-- A fault of a fetch (R58, R193, R195): TRAPADDR is the word's address, and the lane is the front's lowest. For data in error TRAPINFO
names the structure and the sector (16_events R341). See log entries 10, 19 (DEDUCED). -/
def fetchFault (s : State) (cause va : Nat) (rfmt : Bool) : State :=
  let w := s.warp
  let l := Warp.lowest w.frontMask
  takeFault s { cause, addr := BitVec.ofNat 72 va, pc := w.pc,
                info := if cause = 0x12 then
                    BitVec.ofNat 64 ((if fetchErr s va then 2 else if rfmt then 6 else 3) + 256 * l + 65536 * (va % 512 / 32))
                  else memInfo l false (cause == 0x0B && rfmt) false (cause == 0x0A && rfmt) }

/-- Word `i` of an instruction once its reads are back: as its read brought it, as it came before, from the L1, or out of a line that an answer
brought. -/
def wordBack (s : State) (o : MemOp) (i : Nat) : Option Nat :=
  let va := (o.pc + 4 * i) % 2 ^ 72
  match o.lanes.find? (·.lane == i) with
  | some x => some x.got
  | none => match fetchWord s o.pc va with
    | .word x => some x
    | .bad _ _ => none
    | .miss ia => (o.parts.find? fun p => l1Key s p.ia == l1Key s ia && (sectorsOver ia 4).all fun j =>
        (legUnits p.pte.cls ((o.lanes.filter fun x => p.lanes.contains x.lane).map fun x => (x.ia, x.size))).contains (32 * j / grain p.pte.cls) &&
        p.had / 2 ^ j % 2 == 1).map fun p => leBytes ((List.range 4).map fun j => Memory.read p.snap (iaLocal (ia + j)))

/-- Up to `n` words from word `i` on that have come, of an instruction. -/
def wordsBack (s : State) (o : MemOp) : Nat → Nat → List Nat → List Nat
  | _, 0, acc => acc
  | i, n + 1, acc =>
    if i ≠ 0 ∧ wordCount (acc.headD 0) ≤ i then acc
    else match wordBack s o i with
      | some x => wordsBack s o (i + 1) n (acc ++ [x])
      | none => acc

/-- INSTRUCTION_WORDS_ARRIVE (R365): a read of instruction words is answered, and fills the L1; when all are, the words are captured, unless
the front has gone elsewhere. A memory-side check that fails faults at the instruction (R194). -/
def execInstructionWordsArrive (c k : Nat) (s : State) : Host.Outcome State Fault Refusal :=
  let id := s.input.a
  match s.op? id, Sparse.get? (s.core c).warps k with
  | some o, some w =>
    if o.kind ≠ .fetch ∨ o.core ≠ c ∨ o.slot ≠ k then .next s
    else if w.gen ≠ o.gen then .next (s.dropOp id)
    else match legBack s id s.input.b o with
      | (s, none) => .next s
      | (s, some o) =>
        if o.left ≠ 0 then .next (s.setOp id o)
        else if w.fetching ≠ some id then .next (s.dropOp id)
        else
          let s := ((s.dropOp id).select c k).setWarp { w with fetching := none }
          if w.pc.toNat ≠ o.pc ∨ w.front?.isNone then .next s
          else match o.lanes.find? (!·.ok) with
            | some x => .next (if faultReady s then fetchFault s x.cause x.va (x.info % 256 == 6 || (x.info == 1 && x.cause == 0x0A)) else s)
            | none => .next (s.setWarp { s.warp with fetched := some (w.pc, wordsBack s o 0 5 []) })
  | some o, none => .next (if o.kind = .fetch then s.dropOp id else s)
  | none, _ => .next s

end Sys2Proof.Machine
end

