-- ==== Sys2Proof/Machine/Integer.lean ====
section
/-! DEFINITION. Integer and address instructions (06_integer_instructions R110 to R132). -/

namespace Sys2Proof.Machine

/-- A result of an integer expression of A and B, saturated when the bit is set (R112, R116). -/
def intBody2 (op : Nat) (g : Ty → Int → Int → Int) (f : Fields) (s : State) : Act :=
  let t := f.tyOf op
  alu op f s fun w l => putTy t f l f.d.toNat (outInt t f.sat (g t (srcInt t f w l f.a) (srcInt t f w l f.b)))

/-- As `intBody2`, of A alone. -/
def intBody1 (op : Nat) (g : Ty → Int → Int) (f : Fields) (s : State) : Act :=
  let t := f.tyOf op
  alu op f s fun w l => putTy t f l f.d.toNat (outInt t f.sat (g t (srcInt t f w l f.a)))

def addBody : Fields → State → Act := intBody2 0x000 fun _ a b => a + b
def subBody : Fields → State → Act := intBody2 0x001 fun _ a b => a - b
def mulBody : Fields → State → Act := intBody2 0x002 fun _ a b => a * b
def minBody : Fields → State → Act := intBody2 0x009 fun _ a b => if a < b then a else b
def maxBody : Fields → State → Act := intBody2 0x00A fun _ a b => if b < a then a else b

def execIadd (f : Fields) (s : State) := issueX 0x000 f s addBody
def execIsub (f : Fields) (s : State) := issueX 0x001 f s subBody
def execImul (f : Fields) (s : State) := issueX 0x002 f s mulBody
/-- The high half of the product, by floor (R116). -/
def execImulh (f : Fields) (s : State) := issueX 0x003 f s (intBody2 0x003 fun t a b => (a * b) / 2 ^ t.width)
def execImad (f : Fields) (s : State) := issueX 0x004 f s fun f s =>
  let t := f.tyOf 0x004
  alu 0x004 f s fun w l => putTy t f l f.d.toNat
    (outInt t f.sat (srcInt t f w l f.a * srcInt t f w l f.b + srcInt t f w l f.c))
/-- 32 by 32 bits plus 64 (R118). -/
def execImadw (f : Fields) (s : State) := issueX 0x005 f s fun f s =>
  let t := f.tyOf 0x005
  let t64 : Ty := if t.signed then .s64 else .z64
  alu 0x005 f s fun w l => put64 f l f.d.toNat
    (BitVec.ofInt 64 (srcInt t f w l f.a * srcInt t f w l f.b + srcInt t64 f w l f.c))
def execIabs (f : Fields) (s : State) := issueX 0x008 f s (intBody1 0x008 fun _ a => if a < 0 then -a else a)
def execImin (f : Fields) (s : State) := issueX 0x009 f s minBody
def execImax (f : Fields) (s : State) := issueX 0x00A f s maxBody

/-- Quotient and remainder (R119). -/
def divide (t : Ty) (a b : Int) : Int × Int :=
  if b = 0 then (2 ^ t.width - 1, a)
  else if t.signed ∧ a = tyMin t ∧ b = -1 then (a, 0)
  else (a.tdiv b, a - a.tdiv b * b)

/-- The quarter's divider accepts the instruction (R120): the next cycle it is free, as the type of the instruction accepted last says, and the
landing time. The S-lane has a divider of its own. See log entry 55 (DESIGN CHOICE). -/
def divider (op : Nat) (g : Int × Int → Int) (f : Fields) (s : State) : Act :=
  let t := f.tyOf op
  let q := quarterOf s.selfSlot
  let k := s.core s.selfCore
  let x : Quarter := Sparse.get {} k.quarters q
  if s.cycle < x.divNext then .wait
  else
    let y : Quarter := { x with divNext := s.cycle + if t.width = 64 then 16 else 8 }
    let s := s.setCore s.selfCore { k with quarters := Sparse.put k.quarters q y }
    slow f s (s.cycle + if t.width = 64 then 42 else 26) fun w l =>
      putTy t f l f.d.toNat (outInt t false (g (divide t (srcInt t f w l f.a) (srcInt t f w l f.b))))

def execIdiv (f : Fields) (s : State) := issueX 0x006 f s (divider 0x006 (·.1))
def execIrem (f : Fields) (s : State) := issueX 0x007 f s (divider 0x007 (·.2))

/-- `IADDC` and `ISUBB` (R117): the result and the carry or borrow land together. -/
def carryBody (op : Nat) (g : Int → Int → Int → Int) (out : Nat → Int → Bool) (f : Fields) (s : State) : Act :=
  let t := f.tyOf op
  alu op f s fun w l =>
    let x := g (srcInt t f w l f.a) (srcInt t f w l f.b) (srcPred w l f.c).toNat
    putTy t f l f.d.toNat (outInt t false x) ++ putPred f w l (f.clsBits 0 3) (out t.width x)
def execIaddc (f : Fields) (s : State) := issueX 0x00B f s (carryBody 0x00B (fun a b c => a + b + c) carryOut)
def execIsubb (f : Fields) (s : State) :=
  issueX 0x00C f s (carryBody 0x00C (fun a b c => a - b - c) fun _ x => borrowOut x)

/-- A 64-bit base and a scaled index (R121). -/
def execLea (f : Fields) (s : State) := issueX 0x00D f s fun f s =>
  let t := f.tyOf 0x00D
  alu 0x00D f s fun w l => put64 f l f.d.toNat
    (BitVec.ofInt 64 ((src64 false f w l f.a).toNat + srcInt t f w l f.b * 2 ^ f.clsBits 0 5))

/-- `ISETP` (R130). -/
def execIsetp (f : Fields) (s : State) := issueX 0x00E f s fun f s =>
  let t := f.tyOf 0x00E
  alu 0x00E f s fun w l => putPred f w l f.d.toNat
    (combine (f.clsBits 3 2) (cmpInt (f.clsBits 0 3) (srcInt t f w l f.a) (srcInt t f w l f.b)) (srcPred w l f.c))

/-- `ISEL` (R131). -/
def execIsel (f : Fields) (s : State) := issueX 0x00F f s fun f s =>
  let t := f.tyOf 0x00F
  alu 0x00F f s fun w l =>
    let sel := srcPred w l f.c != (f.clsBits 0 1 == 1)
    putTy t f l f.d.toNat (srcBits t f w l (if sel then f.a else f.b))

/-- A bitwise result of A and B (R122). -/
def logic2 (op : Nat) (g : Dword → Dword → Dword) (f : Fields) (s : State) : Act :=
  let t := f.tyOf op
  alu op f s fun w l => putTy t f l f.d.toNat
    ((g (BitVec.ofNat 64 (srcBits t f w l f.a)) (BitVec.ofNat 64 (srcBits t f w l f.b))).toNat % 2 ^ t.width)
def andBody : Fields → State → Act := logic2 0x010 fun a b => a &&& b
def orBody : Fields → State → Act := logic2 0x011 fun a b => a ||| b
def xorBody : Fields → State → Act := logic2 0x012 fun a b => a ^^^ b
def execAnd (f : Fields) (s : State) := issueX 0x010 f s andBody
def execOr (f : Fields) (s : State) := issueX 0x011 f s orBody
def execXor (f : Fields) (s : State) := issueX 0x012 f s xorBody
def execAndn (f : Fields) (s : State) := issueX 0x013 f s (logic2 0x013 fun a b => a &&& ~~~ b)
def execNot (f : Fields) (s : State) := issueX 0x014 f s fun f s =>
  let t := f.tyOf 0x014
  alu 0x014 f s fun w l => putTy t f l f.d.toNat (2 ^ t.width - 1 - srcBits t f w l f.a)

/-- The shifts (R123): A as bits or as a signed integer, n the count. -/
def shiftBody (op : Nat) (g : Nat → Nat → Int → Nat → Nat) (f : Fields) (s : State) : Act :=
  let t := f.tyOf op
  alu op f s fun w l =>
    let a := srcBits t f w l f.a
    putTy t f l f.d.toNat (g t.width a (intOf t a) (src32 f w l f.b).toNat)
def shlBody : Fields → State → Act := shiftBody 0x015 fun w a _ n => if n < w then a * 2 ^ n % 2 ^ w else 0
def shrBody : Fields → State → Act := shiftBody 0x016 fun w a _ n => if n < w then a / 2 ^ n else 0
def sarBody : Fields → State → Act := shiftBody 0x017 fun w _ i n =>
  ((if n < w then i / 2 ^ n else if i < 0 then -1 else 0) % 2 ^ w).toNat
def execShl (f : Fields) (s : State) := issueX 0x015 f s shlBody
def execShr (f : Fields) (s : State) := issueX 0x016 f s shrBody
def execSar (f : Fields) (s : State) := issueX 0x017 f s sarBody
def execRotl (f : Fields) (s : State) := issueX 0x018 f s (shiftBody 0x018 fun w a _ n =>
  a * 2 ^ (n % w) % 2 ^ w + a / 2 ^ (w - n % w))

/-- `FSHF` (R124). -/
def execFshf (f : Fields) (s : State) := issueX 0x019 f s fun f s =>
  let t := f.tyOf 0x019
  alu 0x019 f s fun w l =>
    let y := srcBits t f w l f.a * 2 ^ t.width + srcBits t f w l f.b
    let n := (src32 f w l f.c).toNat % t.width
    putTy t f l f.d.toNat
      (if f.clsBits 0 1 = 0 then y / 2 ^ n % 2 ^ t.width else y * 2 ^ n / 2 ^ t.width % 2 ^ t.width)

/-- The field that `BFX` extracts (R125). -/
def bitField (t : Ty) (a pos length : Nat) : Int :=
  let len := min length t.width
  let sign := t.signed && a / 2 ^ (t.width - 1) % 2 == 1
  let v := (List.range len).foldl (fun v i =>
    let b := if pos + i < t.width then a / 2 ^ (pos + i) % 2 == 1 else sign
    if b then v + 2 ^ i else v) 0
  if t.signed && decide (0 < len) && v / 2 ^ (len - 1) % 2 == 1 then (v : Int) - 2 ^ len else v
def execBfx (f : Fields) (s : State) := issueX 0x01A f s fun f s =>
  let t := f.tyOf 0x01A
  alu 0x01A f s fun w l =>
    let b := (src32 f w l f.b).toNat
    putTy t f l f.d.toNat (outInt t false (bitField t (srcBits t f w l f.a) (b % 256) (b / 256 % 256)))

/-- The value that `BFI` makes (R125). -/
def insertField (w a b pos length : Nat) : Nat :=
  (List.range (min length w)).foldl (fun x i =>
    if pos + i < w then
      x - x / 2 ^ (pos + i) % 2 * 2 ^ (pos + i) + b / 2 ^ i % 2 * 2 ^ (pos + i)
    else x) a
def execBfi (f : Fields) (s : State) := issueX 0x01B f s fun f s =>
  let t := f.tyOf 0x01B
  alu 0x01B f s fun w l =>
    let c := (src32 f w l f.c).toNat
    putTy t f l f.d.toNat (insertField t.width (srcBits t f w l f.a) (srcBits t f w l f.b) (c % 256) (c / 256 % 256))

/-- Bits of a number that are 1, among the lowest `w`. -/
def onesIn (w a : Nat) : Nat := ((List.range w).filter fun i => a / 2 ^ i % 2 = 1).length
/-- Zero bits above the highest one (R126). -/
def leadingZeros (w a : Nat) : Nat := if a = 0 then w else w - 1 - Nat.log2 a
/-- Zero bits below the lowest one (R126). -/
def trailingZeros (w a : Nat) : Nat := ((List.range w).find? fun i => a / 2 ^ i % 2 = 1).getD w
/-- Bit i moved to bit w − 1 − i (R126). -/
def reverseBits (w a : Nat) : Nat := (List.range w).foldl (fun x i => x + a / 2 ^ i % 2 * 2 ^ (w - 1 - i)) 0

/-- A count, to one 32-bit register (R126). -/
def countBody (op : Nat) (g : Nat → Nat → Nat) (f : Fields) (s : State) : Act :=
  let t := f.tyOf op
  alu op f s fun w l => put32 f l f.d.toNat (BitVec.ofNat 32 (g t.width (srcBits t f w l f.a)))
def execPopc (f : Fields) (s : State) := issueX 0x01C f s (countBody 0x01C onesIn)
def execClz (f : Fields) (s : State) := issueX 0x01D f s (countBody 0x01D leadingZeros)
def execCtz (f : Fields) (s : State) := issueX 0x01E f s (countBody 0x01E trailingZeros)
def execBrev (f : Fields) (s : State) := issueX 0x01F f s fun f s =>
  let t := f.tyOf 0x01F
  alu 0x01F f s fun w l => putTy t f l f.d.toNat (reverseBits t.width (srcBits t f w l f.a))

/-- One byte of `PRMB` (R127): FILL, then INV, then REV. -/
def permByte (pool sel : Nat) : Nat :=
  let b := pool / 2 ^ (8 * (sel % 8)) % 256
  let x := match sel / 16 % 4 with
    | 0 => b
    | 1 => 0
    | 2 => 0xFF
    | _ => if 128 ≤ b then 0xFF else 0
  let x := if sel / 64 % 2 = 1 then 255 - x else x
  if sel / 128 % 2 = 1 then reverseBits 8 x else x
def execPrmb (f : Fields) (s : State) := issueX 0x020 f s fun f s =>
  alu 0x020 f s fun w l =>
    let pool := (src32 f w l f.a).toNat + 2 ^ 32 * (src32 f w l f.b).toNat
    let c := (src32 f w l f.c).toNat
    put32 f l f.d.toNat (BitVec.ofNat 32
      ((List.range 4).foldl (fun x i => x + 2 ^ (8 * i) * permByte pool (c / 2 ^ (8 * i) % 256)) 0))

/-- `LUT3` (R128). -/
def execLut3 (f : Fields) (s : State) := issueX 0x021 f s fun f s =>
  let t := f.tyOf 0x021
  alu 0x021 f s fun w l =>
    let a := srcBits t f w l f.a
    let b := srcBits t f w l f.b
    let c := srcBits t f w l f.c
    putTy t f l f.d.toNat ((List.range t.width).foldl (fun x i =>
      if tableBit f.sub (a / 2 ^ i % 2 == 1) (b / 2 ^ i % 2 == 1) (c / 2 ^ i % 2 == 1) then x + 2 ^ i else x) 0)

/-- Element `i` of `k` bits, signed or not. -/
def elemInt (k i x : Nat) (sg : Bool) : Int :=
  let e := x / 2 ^ (k * i) % 2 ^ k
  if sg && decide (2 ^ (k - 1) ≤ e) then (e : Int) - 2 ^ k else e
/-- `IDOT4` and `IDOT2` (R129): `n` products of `k` bits. -/
def dotBody (op n k : Nat) (f : Fields) (s : State) : Act :=
  let t := f.tyOf op
  alu op f s fun w l =>
    let a := (src32 f w l f.a).toNat
    let b := (src32 f w l f.b).toNat
    put32 f l f.d.toNat (BitVec.ofNat 32 (outInt t f.sat ((List.range n).foldl (fun x i =>
      x + elemInt k i a (f.clsBits 0 1 == 1) * elemInt k i b (f.clsBits 1 1 == 1)) (srcInt t f w l f.c))))
def execIdot4 (f : Fields) (s : State) := issueX 0x022 f s (dotBody 0x022 4 8)
def execIdot2 (f : Fields) (s : State) := issueX 0x023 f s (dotBody 0x023 2 16)

/-- `PSET` (R132). -/
def execPset (f : Fields) (s : State) := issueX 0x024 f s fun f s =>
  alu 0x024 f s fun w l => putPred f w l f.d.toNat
    (tableBit f.sub (srcPred w l f.a) (srcPred w l f.b) (srcPred w l f.c))

/-! ### Short forms (03_encoding R61) -/

def execIaddShort (k : Short) (s : State) := issueK 0x02 k s addBody
def execIsubShort (k : Short) (s : State) := issueK 0x03 k s subBody
def execAndShort (k : Short) (s : State) := issueK 0x04 k s andBody
def execOrShort (k : Short) (s : State) := issueK 0x05 k s orBody
def execXorShort (k : Short) (s : State) := issueK 0x06 k s xorBody
def execShlShort (k : Short) (s : State) := issueK 0x07 k s shlBody
def execShrShort (k : Short) (s : State) := issueK 0x08 k s shrBody
def execSarShort (k : Short) (s : State) := issueK 0x09 k s sarBody
def execImulShort (k : Short) (s : State) := issueK 0x0A k s mulBody
def execIminShort (k : Short) (s : State) := issueK 0x0B k s minBody
def execImaxShort (k : Short) (s : State) := issueK 0x0C k s maxBody

end Sys2Proof.Machine
end

