-- ==== Sys2Proof/Machine/Responses.lean ====
section
/-! DEFINITION. What happens at the slices and back at the cores: the events of operations in flight, each by the kind of its
operation (09_memory_spaces R191, R196 to R200, R214; 10_ordering R230 to R233; 11_atomics R237 to R249; 12_matrix_and_copy R272; 13_queues R283 to R292). -/

namespace Sys2Proof.Machine

/-- Forget an operation whose warp is gone: loads merged with it are sent on their own (10_ordering R228). -/
def forget (s : State) (id : Nat) : State :=
  let s := unmerge s id
  { (s.dropOp id) with slices := s.slices.map fun p => (p.1, { p.2 with pend := p.2.pend.filter fun q => q.1 != id }) }

/-- A request of another package is answered over Dusel (17_platform R355): for each lane how it ended, whether its condition held, the ticks of
its lease, and its value; the result that the slice keeps is confirmed. The lock request of an `MCAS` leaves its operation, which holds the lock.
See log entry 14 (DESIGN CHOICE). -/
def answerFar (s : State) (id k : Nat) (o : MemOp) : State :=
  let p := o.part k
  let lease := match p.expiry with | some t => t - s.now | none => 0
  let bytes (x : Lane) : List Byte := toBytes 1 (if x.ok then x.cause else max 1 x.cause) ++ toBytes 1 x.info ++ toBytes 4 lease ++ toBytes x.size x.got
  let s := sendOutside s (4096 + (o.core - 300)) p.ia (o.lanes.map bytes).flatten
  let locked := o.kind = .mcas ∧ o.stage = 2
  let s := if o.kind = .load then s else confirm s o p.ia id (if o.kind = .mcas ∧ o.stage = 3 then 16 + k else k)
  if locked then s else s.dropOp id

/-- A response reaches its core, and is taken as its operation takes it. -/
def respond (s : State) (id k : Nat) : State :=
  match s.op? id with
  | none => s
  | some o =>
    if o.kind = .done then completed s id
    else if !here s o then (if o.far then answerFar s id k o else forget s id)
    else match o.kind with
      | .load | .ldx => respondLoad s id k
      | .stx => respondStx s id k
      | .mst => respondMst s id k
      | .pref => respondPref s id k
      | .probe => respondProbe s id
      | .atom | .acas | .acas2 | .wb => respondVisit s id k
      | .mcas => respondMcas s id k
      | .waitc => respondWaitc s id k
      | .wbwait => respondWbwait s id k
      | .tcall => respondTcall s id k
      | .svpop => respondSvpop s id k
      | .svdone => respondSvdone s id
      | .push => respondPush s id
      | .depsig => respondDepsig s id k
      | .lease => respondLease s id
      | .saved => (s.dropOp id).postNow (.savedSyscallWake o.core o.slot (o.lanes.headD { lane := 0, va := 0, ia := 0, size := 1 }).lane)
      | .store | .writeBack | .red | .copy | .xinv | .rmode | .io | .inbound | .fetch | .done => s

/-- LOAD_RESPONSE (R196). -/
def execLoadResponse (id k : Nat) (s : State) : Host.Outcome State Fault Refusal := .next (respond s id k)

/-- STORE_PERFORMED (R199, R231); a `RED` that was sent again comes as a copy (R247). -/
def execStorePerformed (id : Nat) (s : State) : Host.Outcome State Fault Refusal :=
  .next (if s.input.flag then copyAtHome s id s.input.a else storeAtHome s id)

/-- STORE_ACKNOWLEDGEMENT (R231): to the warp that stored, or to its save area (R232). -/
def execStoreAcknowledgement (id : Nat) (s : State) : Host.Outcome State Fault Refusal :=
  .next (match s.op? id with
    | some o => if here s o then storeAcked s id else if o.far then answerFar s id 0 o
      else if o.left ≠ 0 then s.postNow (.lateAcknowledgement id) else storeAcked s id
    | none => s)

/-- LATE_ACKNOWLEDGEMENT (R232): an atomic at the home of the saved counter, which waits for the leases there (R199, R236). -/
def execLateAcknowledgement (id : Nat) (s : State) : Host.Outcome State Fault Refusal :=
  .next (match s.op? id with
    | some o =>
      if blocked s (o.left + 0x40, 0x50) id 0 then (invalidate s (o.left + 0x40) 0x50).post (s.cycle + 1) (.lateAcknowledgement id)
      else lateAcked s id
    | none => s)

/-- ATOMIC_AT_HOME (R237 to R245); a request that was sent again comes as a copy (R247). -/
def execAtomicAtHome (id k : Nat) (s : State) : Host.Outcome State Fault Refusal :=
  .next (if s.input.flag then copyAtHome s id k else match s.op? id with
    | none => s
    | some o => match o.kind with
      | .mcas => mcasCommit s id k o
      | .waitc | .wbwait | .saved => waitHome s id k o
      | .done => completeAtHome s id o
      | .copy => if o.stage = 1 then copyArrive s id o else s
      | _ => visitHome s id k o)

/-- The read of a record of the supervisor ring (13_queues R283) is performed when it reaches the record's home (01_package R375). -/
def serveRecord (s : State) (id k : Nat) (o : MemOp) : State :=
  let p := o.part k
  if lockedFor s p.ia id then pendAt s p.ia id k
  else match openLine s (p.ia, 64) id ⟨false, 0⟩ false false with
    | .error none => pendAt (askMark s p.ia id false) p.ia id k
    | .error (some c) => answerRead ((walked (unpend s p.ia id k) p.ia).setOp id (failLeg o k c false)) o id k 0
    | .ok (_, extra, s) =>
      let errs := homeErrs s p.ia
      let o := (o.onLanes p.lanes fun x => markErr errs (if extra = 0 then 3 else 6) { x with got := homeNat s x.ia 64 }).setPart k { p with seen := true }
      sendBack ((unpend s p.ia id k).setOp id o) o.core p.ia extra (.loadResponse id k)

/-- LOAD_AT_HOME_SLICE (R191, R199, R214): a read reaches its slice, or the I/O die. -/
def execLoadAtHomeSlice (id k : Nat) (s : State) : Host.Outcome State Fault Refusal :=
  .next (match s.op? id with
    | none => s
    | some o =>
      let p := o.part k
      if place s p.ia = .io then
        ioLoad s id k (p.ia % 2 ^ 56) ((o.lanes.find? fun x => p.lanes.contains x.lane).map (·.size) |>.getD 4)
      else match o.kind with
        | .probe => serveProbe s id k o
        | .svpop => serveRecord s id k o
        | _ => serve s id k)

/-- MCAS_LOCK_GRANT (R244): the lock request whose number the event brings; one that was sent again comes as a copy (R247). -/
def execMcasLockGrant (id : Nat) (s : State) : Host.Outcome State Fault Refusal :=
  .next (if s.input.flag then copyAtHome s id s.input.a else mcasAtHome s id s.input.a)

/-- A leg that waits at its slice is tried again, by the kind of its operation. See log entry 35 (DEDUCED). -/
def retryLeg (s : State) (id k : Nat) : State :=
  match s.op? id with
  | none => s
  | some o => match o.kind with
    | .store | .writeBack | .red => storeAtHome s id
    | .atom | .acas | .acas2 | .wb | .depsig => visitHome s id k o
    | .mcas => if o.stage = 2 then mcasAtHome s id k else serve s id k
    | .waitc | .wbwait | .saved => waitHome s id k o
    | .done => completeAtHome s id o
    | .copy => if o.stage = 1 then copyArrive s id o else s
    | .inbound => inboundRun (inboundFuel s) o.visit s
    | .xinv | .rmode => s
    | .svpop => serveRecord s id k o
    | _ => serve s id k

/-- LEASED_SET_FILL (R199 step 5). -/
def execLeasedSetFill (id k : Nat) (s : State) : Host.Outcome State Fault Refusal := .next (retryLeg s id k)

/-- REQUESTER_COPY_INVALIDATION (R200, R201): of the grain unit that the event brings. -/
def execRequesterCopyInvalidation (n line : Nat) (s : State) : Host.Outcome State Fault Refusal := .next (dropCopy s n line s.input.a)

/-- WAITC_WAKE (R248). -/
def execWaitcWake (n i : Nat) (s : State) : Host.Outcome State Fault Refusal := .next (wakeEntry s n i)

/-- WAITC_POLL (R249): another package is told that its request is refused, and polls by itself. -/
def execWaitcPoll (id : Nat) (s : State) : Host.Outcome State Fault Refusal :=
  .next (match s.op? id with
    | some o => if !here s o && o.far then answerFar s id 0 o else pollWait s id
    | none => s)

/-- RETRANSMISSION_TIMEOUT (R247). -/
def execRetransmissionTimeout (id : Nat) (s : State) : Host.Outcome State Fault Refusal := .next (retransmit s id)

/-- RESULT_STORE_ENTRY_FREE (R247). -/
def execResultStoreEntryFree (n : Nat) (s : State) : Host.Outcome State Fault Refusal := .next (freeResult s n)

/-- RESULTS_LAND (R74, R76): everything of the warp that is due. -/
def execResultsLand (c k : Nat) (s : State) : Host.Outcome State Fault Refusal :=
  .next (match Sparse.get? (s.core c).warps k with
    | some w => s.setWarpAt c k (landDue s.cycle w)
    | none => s)

end Sys2Proof.Machine
end

