-- ==== Sys2Proof/Machine/Dispatch.lean ====
section
/-! DEFINITION. The meaning of every instruction and of every event of the package, one arm each. -/

namespace Sys2Proof.Machine

def exec (i : Instr) (s : State) : Host.Outcome State Fault Refusal :=
  match i with
  | .iadd f => Sys2Proof.Machine.execIadd f s
  | .isub f => Sys2Proof.Machine.execIsub f s
  | .imul f => Sys2Proof.Machine.execImul f s
  | .imulh f => Sys2Proof.Machine.execImulh f s
  | .imad f => Sys2Proof.Machine.execImad f s
  | .imadw f => Sys2Proof.Machine.execImadw f s
  | .idiv f => Sys2Proof.Machine.execIdiv f s
  | .irem f => Sys2Proof.Machine.execIrem f s
  | .iabs f => Sys2Proof.Machine.execIabs f s
  | .imin f => Sys2Proof.Machine.execImin f s
  | .imax f => Sys2Proof.Machine.execImax f s
  | .iaddc f => Sys2Proof.Machine.execIaddc f s
  | .isubb f => Sys2Proof.Machine.execIsubb f s
  | .lea f => Sys2Proof.Machine.execLea f s
  | .isetp f => Sys2Proof.Machine.execIsetp f s
  | .isel f => Sys2Proof.Machine.execIsel f s
  | .and f => Sys2Proof.Machine.execAnd f s
  | .or f => Sys2Proof.Machine.execOr f s
  | .xor f => Sys2Proof.Machine.execXor f s
  | .andn f => Sys2Proof.Machine.execAndn f s
  | .not f => Sys2Proof.Machine.execNot f s
  | .shl f => Sys2Proof.Machine.execShl f s
  | .shr f => Sys2Proof.Machine.execShr f s
  | .sar f => Sys2Proof.Machine.execSar f s
  | .rotl f => Sys2Proof.Machine.execRotl f s
  | .fshf f => Sys2Proof.Machine.execFshf f s
  | .bfx f => Sys2Proof.Machine.execBfx f s
  | .bfi f => Sys2Proof.Machine.execBfi f s
  | .popc f => Sys2Proof.Machine.execPopc f s
  | .clz f => Sys2Proof.Machine.execClz f s
  | .ctz f => Sys2Proof.Machine.execCtz f s
  | .brev f => Sys2Proof.Machine.execBrev f s
  | .prmb f => Sys2Proof.Machine.execPrmb f s
  | .lut3 f => Sys2Proof.Machine.execLut3 f s
  | .idot4 f => Sys2Proof.Machine.execIdot4 f s
  | .idot2 f => Sys2Proof.Machine.execIdot2 f s
  | .pset f => Sys2Proof.Machine.execPset f s
  | .fadd f => Sys2Proof.Machine.execFadd f s
  | .fsub f => Sys2Proof.Machine.execFsub f s
  | .fmul f => Sys2Proof.Machine.execFmul f s
  | .ffma f => Sys2Proof.Machine.execFfma f s
  | .fmin f => Sys2Proof.Machine.execFmin f s
  | .fmax f => Sys2Proof.Machine.execFmax f s
  | .fsetp f => Sys2Proof.Machine.execFsetp f s
  | .fclass f => Sys2Proof.Machine.execFclass f s
  | .frcp f => Sys2Proof.Machine.execFrcp f s
  | .frsq f => Sys2Proof.Machine.execFrsq f s
  | .fsqrt f => Sys2Proof.Machine.execFsqrt f s
  | .fexp2 f => Sys2Proof.Machine.execFexp2 f s
  | .flog2 f => Sys2Proof.Machine.execFlog2 f s
  | .fsin f => Sys2Proof.Machine.execFsin f s
  | .fcos f => Sys2Proof.Machine.execFcos f s
  | .ftanh f => Sys2Proof.Machine.execFtanh f s
  | .fscale f => Sys2Proof.Machine.execFscale f s
  | .frnd f => Sys2Proof.Machine.execFrnd f s
  | .fcvt f => Sys2Proof.Machine.execFcvt f s
  | .i2f f => Sys2Proof.Machine.execI2f f s
  | .f2i f => Sys2Proof.Machine.execF2i f s
  | .hadd2 f => Sys2Proof.Machine.execHadd2 f s
  | .hmul2 f => Sys2Proof.Machine.execHmul2 f s
  | .hfma2 f => Sys2Proof.Machine.execHfma2 f s
  | .fdot2 f => Sys2Proof.Machine.execFdot2 f s
  | .mov f => Sys2Proof.Machine.execMov f s
  | .movk f => Sys2Proof.Machine.execMovk f s
  | .movi f => Sys2Proof.Machine.execMovi f s
  | .movx f => Sys2Proof.Machine.execMovx f s
  | .s2v f => Sys2Proof.Machine.execS2v f s
  | .v2s f => Sys2Proof.Machine.execV2s f s
  | .rds f => Sys2Proof.Machine.execRds f s
  | .perm f => Sys2Proof.Machine.execPerm f s
  | .shfl f => Sys2Proof.Machine.execShfl f s
  | .qswap f => Sys2Proof.Machine.execQswap f s
  | .qbcast f => Sys2Proof.Machine.execQbcast f s
  | .lut16 f => Sys2Proof.Machine.execLut16 f s
  | .vote f => Sys2Proof.Machine.execVote f s
  | .redux f => Sys2Proof.Machine.execRedux f s
  | .scanx f => Sys2Proof.Machine.execScanx f s
  | .p2v f => Sys2Proof.Machine.execP2v f s
  | .v2p f => Sys2Proof.Machine.execV2p f s
  | .bra f => Sys2Proof.Machine.execBra f s
  | .brx f => Sys2Proof.Machine.execBrx f s
  | .call f => Sys2Proof.Machine.execCall f s
  | .callx f => Sys2Proof.Machine.execCallx f s
  | .ret f => Sys2Proof.Machine.execRet f s
  | .split f => Sys2Proof.Machine.execSplit f s
  | .join f => Sys2Proof.Machine.execJoin f s
  | .exit f => Sys2Proof.Machine.execExit f s
  | .yield f => Sys2Proof.Machine.execYield f s
  | .nop f => Sys2Proof.Machine.execNop f s
  | .sleep f => Sys2Proof.Machine.execSleep f s
  | .tcall f => Sys2Proof.Machine.execTcall f s
  | .tret f => Sys2Proof.Machine.execTret f s
  | .safept f => Sys2Proof.Machine.execSafept f s
  | .idemb f => Sys2Proof.Machine.execIdemb f s
  | .ideme f => Sys2Proof.Machine.execIdeme f s
  | .solo f => Sys2Proof.Machine.execSolo f s
  | .soloe f => Sys2Proof.Machine.execSoloe f s
  | .ld f => Sys2Proof.Machine.execLd f s
  | .st f => Sys2Proof.Machine.execSt f s
  | .ldx f => Sys2Proof.Machine.execLdx f s
  | .stx f => Sys2Proof.Machine.execStx f s
  | .pref f => Sys2Proof.Machine.execPref f s
  | .cflush f => Sys2Proof.Machine.execCflush f s
  | .cinv f => Sys2Proof.Machine.execCinv f s
  | .cwb f => Sys2Proof.Machine.execCwb f s
  | .fence f => Sys2Proof.Machine.execFence f s
  | .probe f => Sys2Proof.Machine.execProbe f s
  | .atom f => Sys2Proof.Machine.execAtom f s
  | .acas f => Sys2Proof.Machine.execAcas f s
  | .red f => Sys2Proof.Machine.execRed f s
  | .mcas f => Sys2Proof.Machine.execMcas f s
  | .waitc f => Sys2Proof.Machine.execWaitc f s
  | .acas2 f => Sys2Proof.Machine.execAcas2 f s
  | .bar f => Sys2Proof.Machine.execBar f s
  | .tbar f => Sys2Proof.Machine.execTbar f s
  | .gbar f => Sys2Proof.Machine.execGbar f s
  | .wbinit f => Sys2Proof.Machine.execWbinit f s
  | .wbexpect f => Sys2Proof.Machine.execWbexpect f s
  | .wbarrive f => Sys2Proof.Machine.execWbarrive f s
  | .wbwait f => Sys2Proof.Machine.execWbwait f s
  | .wbtest f => Sys2Proof.Machine.execWbtest f s
  | .macq f => Sys2Proof.Machine.execMacq f s
  | .mrel f => Sys2Proof.Machine.execMrel f s
  | .mzero f => Sys2Proof.Machine.execMzero f s
  | .mloop f => Sys2Proof.Machine.execMloop f s
  | .mstep f => Sys2Proof.Machine.execMstep f s
  | .mrd f => Sys2Proof.Machine.execMrd f s
  | .mst f => Sys2Proof.Machine.execMst f s
  | .mldacc f => Sys2Proof.Machine.execMldacc f s
  | .tcopy f => Sys2Proof.Machine.execTcopy f s
  | .tmcast f => Sys2Proof.Machine.execTmcast f s
  | .tcancel f => Sys2Proof.Machine.execTcancel f s
  | .tstat f => Sys2Proof.Machine.execTstat f s
  | .spawn f => Sys2Proof.Machine.execSpawn f s
  | .spawnj f => Sys2Proof.Machine.execSpawnj f s
  | .depsig f => Sys2Proof.Machine.execDepsig f s
  | .alloc f => Sys2Proof.Machine.execAlloc f s
  | .free f => Sys2Proof.Machine.execFree f s
  | .syscall f => Sys2Proof.Machine.execSyscall f s
  | .svpop f => Sys2Proof.Machine.execSvpop f s
  | .svdone f => Sys2Proof.Machine.execSvdone f s
  | .trap f => Sys2Proof.Machine.execTrap f s
  | .eret f => Sys2Proof.Machine.execEret f s
  | .eretHeader f => Sys2Proof.Machine.execEretHeader f s
  | .eretStep f => Sys2Proof.Machine.execEretStep f s
  | .crd f => Sys2Proof.Machine.execCrd f s
  | .cwr f => Sys2Proof.Machine.execCwr f s
  | .xinv f => Sys2Proof.Machine.execXinv f s
  | .rmode f => Sys2Proof.Machine.execRmode f s
  | .ctxsvArm f => Sys2Proof.Machine.execCtxsvArm f s
  | .ctxsvReq f => Sys2Proof.Machine.execCtxsvReq f s
  | .ctxsvEnd f => Sys2Proof.Machine.execCtxsvEnd f s
  | .ctxld f => Sys2Proof.Machine.execCtxld f s
  | .wfi f => Sys2Proof.Machine.execWfi f s
  | .ipiWake f => Sys2Proof.Machine.execIpiWake f s
  | .ipiStop f => Sys2Proof.Machine.execIpiStop f s
  | .ipiSl f => Sys2Proof.Machine.execIpiSl f s
  | .bkpt f => Sys2Proof.Machine.execBkpt f s
  | .reggrow f => Sys2Proof.Machine.execReggrow f s
  | .regshrink f => Sys2Proof.Machine.execRegshrink f s
  | .lease f => Sys2Proof.Machine.execLease f s
  | .nopShort k => Sys2Proof.Machine.execNopShort k s
  | .movShort k => Sys2Proof.Machine.execMovShort k s
  | .iaddShort k => Sys2Proof.Machine.execIaddShort k s
  | .isubShort k => Sys2Proof.Machine.execIsubShort k s
  | .andShort k => Sys2Proof.Machine.execAndShort k s
  | .orShort k => Sys2Proof.Machine.execOrShort k s
  | .xorShort k => Sys2Proof.Machine.execXorShort k s
  | .shlShort k => Sys2Proof.Machine.execShlShort k s
  | .shrShort k => Sys2Proof.Machine.execShrShort k s
  | .sarShort k => Sys2Proof.Machine.execSarShort k s
  | .imulShort k => Sys2Proof.Machine.execImulShort k s
  | .iminShort k => Sys2Proof.Machine.execIminShort k s
  | .imaxShort k => Sys2Proof.Machine.execImaxShort k s
  | .faddShort k => Sys2Proof.Machine.execFaddShort k s
  | .fmulShort k => Sys2Proof.Machine.execFmulShort k s
  | .fminShort k => Sys2Proof.Machine.execFminShort k s
  | .fmaxShort k => Sys2Proof.Machine.execFmaxShort k s
  | .movkShort k => Sys2Proof.Machine.execMovkShort k s
  | .sbra k => Sys2Proof.Machine.execSbra k s
  | .retShort k => Sys2Proof.Machine.execRetShort k s
  | .exitShort k => Sys2Proof.Machine.execExitShort k s
  | .yieldShort k => Sys2Proof.Machine.execYieldShort k s
  | .joinShort k => Sys2Proof.Machine.execJoinShort k s
  | .barShort k => Sys2Proof.Machine.execBarShort k s
  | .ldShort k => Sys2Proof.Machine.execLdShort k s
  | .stShort k => Sys2Proof.Machine.execStShort k s
  | .svqbaseWrite f => Sys2Proof.Machine.execSvqbaseWrite f s
  | .timecmpWrite f => Sys2Proof.Machine.execTimecmpWrite f s
  | .pmselWrite f => Sys2Proof.Machine.execPmselWrite f s
  | .mirrorCounterWrite f => Sys2Proof.Machine.execMirrorCounterWrite f s
  | .registerWrite id => Sys2Proof.Machine.execRegisterWrite id s
  | .timerExpiry core => Sys2Proof.Machine.execTimerExpiry core s
  | .sLaneInterruptEntry core => Sys2Proof.Machine.execSLaneInterruptEntry core s
  | .wfiWake core => Sys2Proof.Machine.execWfiWake core s
  | .interruptMessage source event => Sys2Proof.Machine.execInterruptMessage source event s
  | .ipiDelivery kind core slot sender => Sys2Proof.Machine.execIpiDelivery kind core slot sender s
  | .heldRecordEntry core => Sys2Proof.Machine.execHeldRecordEntry core s
  | .safepointOverrun core slot => Sys2Proof.Machine.execSafepointOverrun core slot s
  | .eviction core => Sys2Proof.Machine.execEviction core s
  | .reggrowGrant core => Sys2Proof.Machine.execReggrowGrant core s
  | .loadResponse id part => Sys2Proof.Machine.execLoadResponse id part s
  | .storePerformed id => Sys2Proof.Machine.execStorePerformed id s
  | .requesterCopyInvalidation slice line => Sys2Proof.Machine.execRequesterCopyInvalidation slice line s
  | .leasedSetFill id part => Sys2Proof.Machine.execLeasedSetFill id part s
  | .storeAcknowledgement id => Sys2Proof.Machine.execStoreAcknowledgement id s
  | .lateAcknowledgement id => Sys2Proof.Machine.execLateAcknowledgement id s
  | .atomicAtHome id part => Sys2Proof.Machine.execAtomicAtHome id part s
  | .mcasLockGrant id => Sys2Proof.Machine.execMcasLockGrant id s
  | .waitcWake slice index => Sys2Proof.Machine.execWaitcWake slice index s
  | .waitcPoll id => Sys2Proof.Machine.execWaitcPoll id s
  | .retransmissionTimeout id => Sys2Proof.Machine.execRetransmissionTimeout id s
  | .resultStoreEntryFree slice => Sys2Proof.Machine.execResultStoreEntryFree slice s
  | .sleepWake core slot => Sys2Proof.Machine.execSleepWake core slot s
  | .savedSyscallWake core slot lane => Sys2Proof.Machine.execSavedSyscallWake core slot lane s
  | .matrixLoopStart core => Sys2Proof.Machine.execMatrixLoopStart core s
  | .matrixLoopCompletion core => Sys2Proof.Machine.execMatrixLoopCompletion core s
  | .benchGate core bench => Sys2Proof.Machine.execBenchGate core bench s
  | .copyEntryGrant core => Sys2Proof.Machine.execCopyEntryGrant core s
  | .copyCompletion core entry => Sys2Proof.Machine.execCopyCompletion core entry s
  | .copyFault core entry => Sys2Proof.Machine.execCopyFault core entry s
  | .leasePreparation cluster => Sys2Proof.Machine.execLeasePreparation cluster s
  | .groupLaunch cluster => Sys2Proof.Machine.execGroupLaunch cluster s
  | .gangReserve cluster => Sys2Proof.Machine.execGangReserve cluster s
  | .gangCommit cluster => Sys2Proof.Machine.execGangCommit cluster s
  | .gangRequeue cluster => Sys2Proof.Machine.execGangRequeue cluster s
  | .groupEnd context => Sys2Proof.Machine.execGroupEnd context s
  | .spill cluster => Sys2Proof.Machine.execSpill cluster s
  | .refill cluster => Sys2Proof.Machine.execRefill cluster s
  | .stealRequest thief victim => Sys2Proof.Machine.execStealRequest thief victim s
  | .stealRetryTimeout cluster => Sys2Proof.Machine.execStealRetryTimeout cluster s
  | .exchangeTimeout cluster cls => Sys2Proof.Machine.execExchangeTimeout cluster cls s
  | .exchangeBatchReceive owner cls blocks => Sys2Proof.Machine.execExchangeBatchReceive owner cls blocks s
  | .capturePeriodSample core => Sys2Proof.Machine.execCapturePeriodSample core s
  | .loadAtHomeSlice id part => Sys2Proof.Machine.execLoadAtHomeSlice id part s
  | .resultsLand core slot => Sys2Proof.Machine.execResultsLand core slot s
  | .instructionWordsArrive core slot => Sys2Proof.Machine.execInstructionWordsArrive core slot s
  | .packageReset => Sys2Proof.Machine.execPackageReset s
  | .timeAdjustment => Sys2Proof.Machine.execTimeAdjustment s
  | .clock => Sys2Proof.Machine.execClock s
  | .clockStepChange => Sys2Proof.Machine.execClockStepChange s
  | .thermalStepDown => Sys2Proof.Machine.execThermalStepDown s
  | .diesleepSleep => Sys2Proof.Machine.execDiesleepSleep s
  | .diesleepWake => Sys2Proof.Machine.execDiesleepWake s
  | .gateidleCommand => Sys2Proof.Machine.execGateidleCommand s
  | .fencePackage => Sys2Proof.Machine.execFencePackage s
  | .fencePortLane => Sys2Proof.Machine.execFencePortLane s
  | .flash => Sys2Proof.Machine.execFlash s
  | .statusCommand => Sys2Proof.Machine.execStatusCommand s
  | .resetCommand => Sys2Proof.Machine.execResetCommand s
  | .pkgnum => Sys2Proof.Machine.execPkgnum s
  | .extend => Sys2Proof.Machine.execExtend s
  | .extendComplete => Sys2Proof.Machine.execExtendComplete s
  | .report => Sys2Proof.Machine.execReport s
  | .reportComplete => Sys2Proof.Machine.execReportComplete s
  | .pcieRetrain => Sys2Proof.Machine.execPcieRetrain s
  | .replaysRead => Sys2Proof.Machine.execReplaysRead s
  | .configRead => Sys2Proof.Machine.execConfigRead s
  | .configWrite => Sys2Proof.Machine.execConfigWrite s
  | .msixSend => Sys2Proof.Machine.execMsixSend s
  | .inboundPcieWrite => Sys2Proof.Machine.execInboundPcieWrite s
  | .inboundPcieRead => Sys2Proof.Machine.execInboundPcieRead s
  | .hostDoorbellWrite => Sys2Proof.Machine.execHostDoorbellWrite s
  | .hotReset => Sys2Proof.Machine.execHotReset s
  | .nvmeSqTailWrite => Sys2Proof.Machine.execNvmeSqTailWrite s
  | .nvmeCqHeadWrite => Sys2Proof.Machine.execNvmeCqHeadWrite s
  | .ueTailWrite => Sys2Proof.Machine.execUeTailWrite s
  | .ueCqHeadWrite => Sys2Proof.Machine.execUeCqHeadWrite s
  | .ueSend => Sys2Proof.Machine.execUeSend s
  | .ueRemoteWrite => Sys2Proof.Machine.execUeRemoteWrite s
  | .ueRemoteRead => Sys2Proof.Machine.execUeRemoteRead s
  | .ueMessageReceive => Sys2Proof.Machine.execUeMessageReceive s
  | .duselPortFence => Sys2Proof.Machine.execDuselPortFence s
  | .duselPortReturn => Sys2Proof.Machine.execDuselPortReturn s
  | .duselFlitReplay => Sys2Proof.Machine.execDuselFlitReplay s
  | .duselLaneFailure => Sys2Proof.Machine.execDuselLaneFailure s
  | .packageFenced => Sys2Proof.Machine.execPackageFenced s
  | .partitionFilterProbe => Sys2Proof.Machine.execPartitionFilterProbe s
  | .filterEntryClear => Sys2Proof.Machine.execFilterEntryClear s
  | .errorCounterClear => Sys2Proof.Machine.execErrorCounterClear s
  | .hbmScrub => Sys2Proof.Machine.execHbmScrub s
  | .duselDomainJoin => Sys2Proof.Machine.execDuselDomainJoin s
  | .linkUp => Sys2Proof.Machine.execLinkUp s
  | .ueCompletionEntry => Sys2Proof.Machine.execUeCompletionEntry s
  | .ueInboundRemoteAccess => Sys2Proof.Machine.execUeInboundRemoteAccess s

end Sys2Proof.Machine
end

