-- ==== Sys2Proof/Machine/Pick.lean ====
section
/-! DEFINITION. Which warp an issue unit takes, and what it issues (02_execution_model R41 to R44, R51; 03_encoding R81;
22_program_issue_trace R365, R366). An issue unit is a quarter of a core, 0 to 3, or its S-lane, 4; unit 5 stands for the
instructions of the core that are held at a release. -/

namespace Sys2Proof.Machine

/-- A `CWR` of a register that has a row of its own in the opcode table. See log entry 44 (DEDUCED). -/
def resolve (i : Instr) (s : State) : Instr :=
  match i with
  | .cwr f =>
    if f.idx = 0x030 then .svqbaseWrite f
    else if f.idx = 0x040 then .timecmpWrite f
    else if f.idx = 0x100 then .pmselWrite f
    else if 0x110 ≤ f.idx ∧ f.idx < 0x120 ∧ 0xF0 ≤ (Sparse.get {} (s.core s.selfCore).pmcs (f.idx - 0x110)).evt then .mirrorCounterWrite f
    else .cwr f
  | j => j

/-- The S-lane of a core runs (R51; 17_platform R359). -/
def slRuns (s : State) (c : Nat) : Bool :=
  let k := s.core c
  k.sl.started && !k.sl.halted && !k.sl.wfi && !asleep s c

/-- Supervisor before user, then higher priority (R42). -/
def classKey (w : Warp) : Nat := (if w.priv then 0 else 4) + (3 - w.prio)

/-- The greedy-then-oldest order (R43): the holder first while it has its hold, and last once its count has reached 256; the others by
age, and by slot at equal age (R40). -/
def greedyKey (x : Quarter) (slot : Nat) : Nat :=
  if x.holder = some slot then (if x.count < 256 then 0 else 2) else 1

/-- The round-robin order (R44, R366). -/
def robinKey (q : Nat) (x : Quarter) (slot : Nat) : Nat := (slot + 15 - x.ptr.getD (16 * q + 15) % 16) % 16

/-- The warps of a unit in the order in which they may take its cycle. -/
def candidates (s : State) (c q : Nat) : List Nat :=
  let k := s.core c
  if q = 4 then (if slRuns s c && !(s.warpAt c 64).held then [64] else [])
  else
    let ws := k.warps.filter fun p => decide (p.1 / 16 = q) && !p.2.held
    let x : Quarter := Sparse.get {} k.quarters q
    let order := if k.pick then sortOn (fun p => robinKey q x p.1) ws
      else sortOn (fun p => greedyKey x p.1) (sortOn (fun p => p.2.stamp) ws)
    (sortOn (fun p => classKey p.2) order).map (·.1)

/-- An instruction that is not one: cause 0x01 or 0x02, with its words (R81). -/
def badWords (s : State) (cause : Nat) (ws : List Nat) : State :=
  if faultReady s then faulted (issueCount s 0 {} none) { cause, info := trapWords ws, pc := s.warp.pc } else s

/-- The selected warp issues the instruction at its program counter, if it is ready. -/
def tryIssue (s : State) : Host.Outcome State Fault Refusal :=
  if !fetchReady s then .next s
  else match fetchAt s with
    | .bad cause va => .next (if faultReady s then fetchFault s cause va (cause == 0x0B) else s)
    | .miss i => .next (startFetch s i)
    | .words ws =>
      match decodeWords ws with
      | .instr i => exec (resolve i s) s
      | .bad cause => .next (badWords s cause ws)

/-- The first warp of a list that issues (R42). A quarter in which none does counts event 0x03 (15_counters R325). -/
def issueFirst (c q : Nat) : List Nat → State → Host.Outcome State Fault Refusal
  | [], s => .next (if q = 4 then s else countEvent s c 0x03 1 false)
  | k :: r, s =>
    match tryIssue (s.select c k) with
    | .next t => if t.issued then .next t else issueFirst c q r t
    | .fault x => .fault x
    | .refused x => .refused x

/-- The instructions of a core that are held at their release look whether its wait is over (10_ordering R374); they take no issue
cycle. -/
def lookHeld (c : Nat) : List Nat → State → Host.Outcome State Fault Refusal
  | [], s => .next s
  | k :: r, s =>
    match tryIssue (s.select c k) with
    | .next t => lookHeld c r t
    | .fault x => .fault x
    | .refused x => .refused x

def heldSlots (s : State) (c : Nat) : List Nat := ((s.core c).warps.filter fun p => p.2.held).map (·.1)

/-- One unit's cycle. -/
def issueUnit (s : State) (c q : Nat) : Host.Outcome State Fault Refusal :=
  if q = 5 then lookHeld c (heldSlots s c) s else issueFirst c q (candidates s c q) s

end Sys2Proof.Machine
end

