-- ==== Sys2Proof/Machine/Cycle.lean ====
section
/-! DEFINITION. What happens from one cycle to the next: time moves on, what waits is looked at again, and the issue units get their
turn (00_scope R6; 02_execution_model R41, R47, R48; 09_memory_spaces R199; 13_queues R281, R291 to R295; 15_counters R322 to R327;
16_events R334, R337, R340). -/

namespace Sys2Proof.Machine

/-! ### Time -/

/-- The clock makes a cycle; the global time counts ticks of 1 ns, `Config.freq` tenths of a cycle each (R6, R322). -/
def clockCycle (s : State) : State :=
  let s := { s with cycle := s.cycle + 1 }
  let p := s.phase + 10
  if Config.freq s.clockStep ≤ p then tick { s with phase := p - Config.freq s.clockStep } else { s with phase := p }

/-! ### Legs that wait at slices (R199, R244) -/

/-- A leg still waits at its slice. -/
def waiting (s : State) (n : Nat) (q : Nat × Nat) : Bool := (s.slice n).pend.contains q

/-- The event by which a waiting leg goes on. -/
def goEvent (s : State) (id k : Nat) : Instr :=
  match s.op? id with
  | none => .leasedSetFill id k
  | some o =>
    let ia := match o.kind with
      | .store | .writeBack | .red | .inbound | .done | .copy => (o.lanes.headD { lane := 0, va := 0, ia := 0, size := 1 }).ia
      | _ => (o.part k).ia
    if (sline? s ia).isNone then .leasedSetFill id k
    else match o.kind with
      | .store | .writeBack | .red => .storePerformed id
      | .atom | .acas | .acas2 | .wb | .depsig | .waitc | .wbwait | .saved | .done | .copy => .atomicAtHome id k
      | .mcas => if o.stage = 2 then .mcasLockGrant id else .loadAtHomeSlice id k
      | .inbound => .leasedSetFill id k
      | _ => .loadAtHomeSlice id k

/-- A waiting leg is tried: one that can go on does so in an event of its own; one that cannot asks again for what it waits for to go (R200,
R302). -/
def retryOne (n : Nat) (s : State) (q : Nat × Nat) : State :=
  let t := retryLeg s q.1 q.2
  if waiting t n q then t else s.postWith { at_ := s.cycle, ev := goEvent s q.1 q.2, data := { a := q.2 } }

/-- Every waiting leg that can go on now does so, in order of arrival at each slice. See log entry 35 (DEDUCED). -/
def retryWaiting (s : State) : State :=
  (s.slices.filter fun p => !p.2.pend.isEmpty).foldl (fun s p => p.2.pend.foldl (retryOne p.1) s) s

/-! ### Warps and groups -/

/-- What a warp comes to between instructions: a stop, an end, a deadline. -/
def warpTick (s : State) (c k : Nat) : State :=
  let s := debugStopNow (stepStop s c k) c k
  let s := if sleepDue s (s.warpAt c k) then s.post s.cycle (.sleepWake c k) else s
  retireWarp s c k

/-- What a group comes to: its save or its discarding, the end of its stay on the core, its own end. -/
def groupTick (s : State) (ctx : Nat) : State :=
  match s.group? ctx with
  | none => s
  | some g =>
    let s := if !g.saveReq || g.ending.isSome then s else if g.idem then discardGroup s ctx else saveGroup s ctx
    let s := if g.ending.isSome then s else finishSave s ctx
    match s.group? ctx with
    | some g => if groupOver s ctx g then s.post s.cycle (.groupEnd ctx) else s
    | none => s

/-! ### Cores, clusters and the S-lanes -/

/-- The S-lane leaves its `WFI`, or takes a pending source (R334, R335). -/
def laneTick (s : State) (c : Nat) : State :=
  let k := s.core c
  if (pendingSource s c).isNone then s
  else if k.sl.wfi then (if k.sl.halted || asleep s c then s else s.post s.cycle (.wfiWake c))
  else if slReady s c then s.post s.cycle (.sLaneInterruptEntry c) else s

/-- A capture unit of the core samples a quantity by period (R327). -/
def samplesPeriod (k : Core) : Bool :=
  k.capts.any fun p => decide (p.2.cfg.toNat / 2 ^ 63 = 1) && (p.2.cfg.toNat % 256 == 5 || p.2.cfg.toNat % 256 == 7)

/-- The core's ring, for which something waits, asks for what keeps its next write waiting to go (13_queues R281; 09_memory_spaces R200). -/
def ringTick (s : State) (c : Nat) : State :=
  let s := holdStalled (releaseTraps s c) c
  if wantsHeld s c then s.post s.cycle (.heldRecordEntry c)
  else if heldWaits s c && ringFree (s.core c) then hwAsk s (ringIa (s.core c)) 64 else s

/-- One core's cycle, but for its issue units. See log entry 34 (DEDUCED). -/
def coreTick (s : State) (c : Nat) : State :=
  let s := ((s.core c).warps.map (·.1)).foldl (fun s k => warpTick s c k) s
  let s := copyTick (gateBenches (loopTick s c) c) c
  let s := countEvent s c 0x01 1 false
  let s := ringTick s c
  let s := if (growNext s c).isSome then s.post s.cycle (.reggrowGrant c)
    else if wantsEviction s c then s.post s.cycle (.eviction c) else s
  let s := if s.cycle % 1024 = 0 && samplesPeriod (s.core c) then s.post s.cycle (.capturePeriodSample c) else s
  laneTick s c

/-- An idle cluster sends a steal request, and sends no other until it is answered (R295). -/
def askSteal (s : State) (g v : Nat) : State :=
  let r := 5000000 + g * 64 + v
  let s := sendOn s r (outward s (4 * g) (4 * v)) (.stealRequest g v)
  s.setCluster g { s.cluster g with stealAt := Sparse.get 0 s.routes r + 1 }

/-- One cluster's cycle: what arrives, the cards at the heads of their priorities, its dispatcher, its tip ring, its donations. -/
def clusterTick (s : State) (g : Nat) : State :=
  let s := arriveAll s g
  let s := if (s.cluster g).running then s.setCluster g (cutHead (s.cluster g)) else s
  let x := s.cluster g
  let s := match dispatcherNext s g with
    | some ev => s.post s.cycle ev
    | none => recordAsk s g
  let s := if wantsSpill x then (if tipsOpen s x then s.post s.cycle (.spill g) else tipsAsk s x) else if wantsRefill x then s.post s.cycle (.refill g) else s
  if idle s g && decide (x.stealAt ≤ s.cycle) then
    match victimOf s g with
    | some v => askSteal s g v
    | none => s
  else s

/-- Pushes that wait for room in a bank (R288), or for their range lists (R302). -/
def pushTick (s : State) : State :=
  (s.ops.filter fun p => p.2.kind == .push && decide (2 ≤ p.2.stage)).foldl (fun s p => retryPush s p.1) s

/-! ### The issue units -/

/-- The units of a core that have something to do in a cycle: its held instructions, its S-lane, quarters with warps, and quarters whose empty cycles are
counted. See log entry 5 (DESIGN CHOICE). -/
def unitsOf (s : State) (c : Nat) : List (Nat × Nat) :=
  let k := s.core c
  let counts := k.pmcs.any fun p => p.2.en && p.2.evt == 0x03
  (if k.warps.any fun p => p.2.held then [(c, 5)] else []) ++ (if slRuns s c then [(c, 4)] else []) ++
  (((List.range 4).filter fun q => counts || k.warps.any fun p => decide (p.1 / 16 = q)).map fun q => (c, q))

/-- Begin the next cycle. See log entry 5 (DESIGN CHOICE). -/
def advanceCycle (s : State) : State :=
  let s := applyLate (clockCycle s)
  let s := retryWaiting s
  let s := pushTick (tablesTick (deliverMsgs s))
  let s := (s.cores.map (·.1)).foldl coreTick s
  let s := (s.groups.map (·.1)).foldl groupTick s
  let s := (s.gangs.map (·.1)).foldl gangCheck s
  let s := (s.clusters.map (·.1)).foldl clusterTick s
  { s with units := ((s.cores.map (·.1)).map (unitsOf s)).flatten }

/-! ### One step -/

/-- An event happens: it leaves the agenda, and its meaning finds what it brings in `input`. See log entry 5 (DESIGN CHOICE). -/
def happen (d : Due) (r : List Due) (s : State) : Host.Outcome State Fault Refusal := exec d.ev { s with agenda := r, input := d.data }

/-- The next issue unit has its turn; when all have had theirs, the next cycle begins. See log entry 5 (DESIGN CHOICE). -/
def turn (s : State) : Host.Outcome State Fault Refusal :=
  match s.units with
  | (c, q) :: r => issueUnit { s with units := r } c q
  | [] => .next (advanceCycle s)

/-! ### Placing an instruction (log entry 1) -/

/-- Where the placed instruction lies: the first page that is not a table page. -/
def placedAt : Nat := 0x4000000

/-- The one range of the placed warp: all local addresses of this package, every permission. -/
def placedRange : RangeReg :=
  { base := BitVec.ofNat 64 (31 * 2 ^ 59), lim := BitVec.ofNat 64 (2 ^ 19 - 1), map := BitVec.ofNat 64 (0xFF * 2 ^ 56) }

/-- A supervisor warp of 32 threads about to issue its first instruction. See log entry 1 (DESIGN CHOICE). -/
def placedWarp (s : State) : Warp :=
  { gen := s.nextId, blocks := 64, priv := true, ranges := [(0, placedRange)], nextIssue := s.cycle, lastAcq := s.now
    threads := lanes32.map fun l => (l, { life := .live, pc := BitVec.ofNat 72 placedAt, rank := BitVec.ofNat 10 l })
    fronts := [{ lanes := BitVec.allOnes 32 }], cur := some 0 }

/-- The group of the placed warp. -/
def placedGroup : Group := { core := 0, gang := 0, index := 0, sett := { threads := 32, regs := 512, ctl := 4, entry := placedAt }, doneIa := 0 }

/-- The bytes of words, each lowest byte first (03_encoding R57). -/
def wordBytes (ws : List Nat) : List Byte := (ws.map (toBytes 4)).flatten

/-- The line of core 0's L1 that holds the placed words. See log entry 1 (DESIGN CHOICE). -/
def placedLine (ws : List Nat) : L1Line := { cls := 3, writable := true, valid := 2 ^ 16 - 1, data := Memory.writeAll [] 0 (wordBytes ws) }

/-- Words are placed before a warp of slot 0 of core 0, whose quarter is the unit that has its turn. See log entry 1 (DESIGN CHOICE). -/
def placeWords (s : State) (ws : List Nat) : State :=
  let k := s.core 0
  let warps := Sparse.put (k.warps.filter fun p => decide (16 ≤ p.1)) 0 (placedWarp s)
  let k := { k with warps, l1 := Sparse.put k.l1 (placedAt / 512) (placedLine ws) }
  let s := (s.setCore 0 k).setGroup 0 placedGroup
  { s with agenda := [], units := [(0, 0)], nextId := s.nextId + 1 }

end Sys2Proof.Machine
end

