-- ==== Sys2Proof/Machine/Step.lean ====
section
/-! DEFINITION. One step of the package: the first event that is due happens; otherwise the next issue unit has its turn, or the
next cycle begins (log entry 5). -/

namespace Sys2Proof.Machine

/-- One step. -/
def step (s : State) : Host.Outcome State Fault Refusal :=
  match s.agenda with
  | d :: r => if d.at_ ≤ s.cycle then happen d r s else turn s
  | [] => turn s

/-- The state with the instruction whose bits are `w` where the next step fetches (log entry 1). -/
def State.withFetchWord (s : State) (nbits w : Nat) : State := placeWords s (tableWords nbits w)

end Sys2Proof.Machine
end

