-- ==== Sys2Proof/Safety.lean ====
section
/-! DEFINITION. The terms in which claims about the machine are stated: when an instruction may issue and what its issue leaves, what
a claim reads of a state, the canonical form of all memory, and what keeps a step from stopping. -/

namespace Sys2Proof.Machine

/-! ### Issue -/

/-- The fields as the executing warp takes them: `.one` has no effect on the S-lane (03_encoding R71). -/
def used (f : Fields) (s : State) : Fields := { f with one := f.one && !s.onSl }

/-- The registers and predicates that an extended instruction reads and writes (R64, R75). -/
def usesIn (op : Nat) (f : Fields) (s : State) : Uses := usesOf op f (used f s).one

/-- An extended instruction may issue at the current front: it has its turn (R41), and has not issued before to be held at its release, and none of the checks of R82 up to 0x05, nor the
one of its spanned registers (R64), refuses it, and no register that it reads is in error (16_events R341). -/
def ready (op : Nat) (f : Fields) (s : State) : Bool :=
  let w := s.warp
  let F := (form op).getD {}
  let one := (used f s).one
  let u := usesIn op f s
  mayIssue s w op && !w.held && !(one && !F.one) && !((F.super || (op == 0x1E5 && !userReads f.idx)) && !w.priv) &&
  !wrongUnit s op f F.sl && namedOk w op f one && !scoreboard w u &&
  !earlyUse w s.cycle u F.lat && (spanBad w op f u one).isNone &&
  (regErr w op f u one).isNone

/-- A short form may issue: the extended form that it stands for may (R61). -/
def readyShort (sop : Nat) (k : Short) (s : State) : Bool := ready (k.ext sop).1 (k.ext sop).2 s

/-- The state in which an instruction's own effect begins: its issue has been counted (R73, R43, R78). -/
def begun (op : Nat) (f : Fields) (s : State) : State := issueGo s f (usesIn op f s) (used f s).one

/-- An instruction whose effect has given `t` is complete, the program counters being set (R337, R340). -/
def jumped (s t : State) : State := afterIssue t s.warp.stepped

/-- An instruction of `n` words whose effect has given `t` is complete: its front goes on after it (R58). -/
def ended (n : Nat) (s t : State) : State := jumped s (t.setWarp (t.warp.advance (4 * n)))

/-- Words of an extended instruction (R57). -/
def wordsX (f : Fields) : Nat := (encodeExt 0 f).length

/-- The results of the executing lanes of a warp. -/
def results (f : Fields) (w : Warp) (g : Warp → Nat → List Write) : List Write := ((execLanes f w).map (g w)).flatten

/-- The executing warp sees its own results `W` at cycle `due`, and nothing else of the state changes but what the issue counts. -/
def lands (op : Nat) (f : Fields) (s : State) (due : Nat) (fixed : Bool) (W : List Write) : State :=
  ended (wordsX f) s (land (begun op f s) due fixed W)

/-- As `lands`, for a short form of one word. -/
def landsShort (sop : Nat) (k : Short) (s : State) (due : Nat) (fixed : Bool) (W : List Write) : State :=
  ended 1 s (land (begun (k.ext sop).1 (k.ext sop).2 s) due fixed W)

/-- The state after a precise fault of the executing front: the front stands at the instruction (16 R329). -/
def faults (op : Nat) (f : Fields) (s : State) (cause : Nat) (addr : Va) (info : Dword) : State :=
  faulted (begun op f s) { cause, addr, info := trapInfo op f s info, pc := s.warp.pc }

/-- The state after a fault that the checks of R82 raise: the words are in TRAPINFO (R81). -/
def refusedAt (ws : List Nat) (s : State) (cause : Nat) : State :=
  faulted (issueCount s 0 {} none) { cause, info := trapWords ws, pc := s.warp.pc }

/-- The instruction computes `g` in each executing lane from the values before it, and the results land `delay` cycles after its issue
at a time fixed by its opcode (R74). -/
def computes (op : Nat) (mk : Fields → Instr) (delay : Nat) (g : Fields → Warp → Nat → List Write) : Prop :=
  ∀ (f : Fields) (s : State), ready op f s = true →
    exec (mk f) s = .next (lands op f s (s.cycle + delay) true (results (used f s) s.warp (g (used f s))))

/-- As `computes`, for a short form: the fields are those of the extended form that it stands for. -/
def computesShort (sop : Nat) (mk : Short → Instr) (delay : Nat) (g : Fields → Warp → Nat → List Write) : Prop :=
  ∀ (k : Short) (s : State), readyShort sop k s = true →
    exec (mk k) s = .next (landsShort sop k s (s.cycle + delay) true
      (results (used (k.ext sop).2 s) s.warp (g (used (k.ext sop).2 s))))

/-- The unit of the executing warp's quarter has taken an instruction (06 R120; 07 R144). -/
def occupied (s : State) (g : Quarter → Quarter) : State :=
  let k := s.core s.selfCore
  let q := quarterOf s.selfSlot
  s.setCore s.selfCore { k with quarters := Sparse.put k.quarters q (g (Sparse.get {} k.quarters q)) }

/-- What the executing warp's quarter remembers. -/
def quarterNow (s : State) : Quarter := Sparse.get {} (s.core s.selfCore).quarters (quarterOf s.selfSlot)

/-- The write of an integer result (06 R112): saturated when the bit is set, cut to the type's width. -/
def intResult (op : Nat) (g : Ty → Int → Int → Int → Int) (f : Fields) (w : Warp) (l : Nat) : List Write :=
  let t := f.tyOf op
  putTy t f l f.d.toNat (outInt t f.sat (g t (srcInt t f w l f.a) (srcInt t f w l f.b) (srcInt t f w l f.c)))

/-- The write of a result made of the operands' bits, of the type's width. -/
def bitResult (op : Nat) (g : Nat → Nat → Nat → Nat → Nat) (f : Fields) (w : Warp) (l : Nat) : List Write :=
  let t := f.tyOf op
  putTy t f l f.d.toNat (g t.width (srcBits t f w l f.a) (srcBits t f w l f.b) (srcBits t f w l f.c))

/-- The write of an F32 result (07 R136): rounded once from the exact value. -/
def floatResult (g : Rnd → Val → Val → Val → Val) (f : Fields) (w : Warp) (l : Nat) : List Write :=
  put32 f l f.d.toNat (BitVec.ofNat 32 (fmtF32.result f.rnd f.sat
    (g f.rnd (modA f (srcVal .f32 f w l f.a)) (modB f (srcVal .f32 f w l f.b)) (srcVal .f32 f w l f.c))))

/-- The write of a packed result (07 R145): each half rounded once from its exact value. -/
def packedResult (op : Nat) (g : Rnd → Val → Val → Val → Val) (f : Fields) (w : Warp) (l : Nat) : List Write :=
  let t := f.tyOf op
  let half (i : Nat) : Nat := (floatFmt t).result f.rnd f.sat
    (g f.rnd (modA f (halfVal t i f w l f.a)) (modB f (halfVal t i f w l f.b)) (halfVal t i f w l f.c))
  put32 f l f.d.toNat (BitVec.ofNat 32 (half 0 + 65536 * half 1))

/-! ### What an instruction leaves as it is -/

/-- `i` answers a next state, and `P` holds of it. -/
def answers (i : Instr) (s : State) (P : State → Prop) : Prop := ∃ t, exec i s = .next t ∧ P t

/-- Nothing has changed but the executing warp, what an issue counts on its core, and the agenda. -/
def onlyHere (s t : State) : Prop :=
  { t with cores := s.cores, issued := s.issued, agenda := s.agenda } = s ∧
  (∀ c, c ≠ s.selfCore → t.core c = s.core c) ∧
  (∀ k, k ≠ s.selfSlot → t.warpAt s.selfCore k = s.warpAt s.selfCore k) ∧
  { t.core s.selfCore with warps := [], quarters := [], pmcs := [] } =
    { s.core s.selfCore with warps := [], quarters := [], pmcs := [] }

/-- Registers, predicates, tags, status, trap registers, ranges, accumulated store counts and reconvergence entries of a warp are
unchanged. -/
def warpKept (w v : Warp) : Prop :=
  v.regs = w.regs ∧ v.sregs = w.sregs ∧ v.tags = w.tags ∧ v.blocks = w.blocks ∧
  (∀ l, (v.thread l).preds = (w.thread l).preds ∧ (v.thread l).life = (w.thread l).life) ∧
  v.priv = w.priv ∧ v.chk = w.chk ∧ v.ie = w.ie ∧ v.trap = w.trap ∧ v.ranges = w.ranges ∧ v.tenant = w.tenant ∧ v.unack = w.unack

/-- The executing threads of an instruction and the addresses that they name (R187). -/
def addresses (f : Fields) (s : State) : List (Nat × Nat) :=
  ((execLanes (used f s) s.warp).filter s.warp.live).map fun l => (l, vaOf (used f s) s.warp l)

/-- What an operation on its way is made of: the lane, its address, the translated address and its operands. -/
def onItsWay (o : MemOp) (n : Nat) : List (Nat × Nat × Nat × List Nat) := (o.lanes.take n).map fun y => (y.lane, y.va, y.ia, y.args)

/-- Every lane of the current front of `s` stands at `g` in `t`. -/
def frontAt (s t : State) (g : Nat → Va) : Prop := ∀ l, hasLane s.warp.frontMask l = true → (t.warp.thread l).pc = g l

/-- Every lane of the current front has gone on by `n` words. -/
def wentOn (n : Nat) (s t : State) : Prop := frontAt s t fun l => (s.warp.thread l).pc + BitVec.ofNat 72 (4 * n)

/-! ### Fetching -/

/-- The words at the current front's PC, as the executing warp fetches them. -/
def fetches (s : State) (ws : List Nat) : Prop :=
  s.warp.pc.toNat % 4 = 0 ∧
  ∀ j x, ws[j]? = some x → fetchWord s s.warp.pc.toNat ((s.warp.pc.toNat + 4 * j) % 2 ^ 72) = .word x

/-! ### Memory -/

/-- The canonical form of all memory of the package: addresses rise, and no entry equals what an unlisted address reads as. -/
def MemoryOk (s : State) : Prop := s.hbm.wf = true ∧ s.l2.wf = true ∧ s.flash.wf = true

/-- Nothing of memory has changed. -/
def sameMemory (s t : State) : Prop := t.hbm = s.hbm ∧ t.l2 = s.l2 ∧ t.flash = s.flash

/-! ### Safe runs -/

/-- A safe run of `n` steps: every step answers a next state. -/
def Safe : Nat → State → Prop
  | 0, _ => True
  | n + 1, s => ∃ t, step s = .next t ∧ Safe n t

end Sys2Proof.Machine
end

