-- ==== Sys2Proof/Certificates/Slice0/Obligations.lean ====
section
/-! DEFINITION. The statements about the Izuevon, one for each rule or group of rules of the spec. -/

open Sys2Proof Sys2Proof.Machine

/-- R116 to R118, R121, R130, R131: the integer arithmetic instructions. -/
def Obligations.IntegerArithmeticResults : Prop :=
  computes 0x000 .iadd 4 (intResult 0x000 fun _ a b _ => a + b) ∧
  computes 0x001 .isub 4 (intResult 0x001 fun _ a b _ => a - b) ∧
  computes 0x002 .imul 6 (intResult 0x002 fun _ a b _ => a * b) ∧
  computes 0x003 .imulh 6 (intResult 0x003 fun t a b _ => a * b / 2 ^ t.width) ∧
  computes 0x004 .imad 6 (intResult 0x004 fun _ a b c => a * b + c) ∧
  computes 0x005 .imadw 6 (fun f w l => put64 f l f.d.toNat (BitVec.ofInt 64
    (srcInt (f.tyOf 0x005) f w l f.a * srcInt (f.tyOf 0x005) f w l f.b +
      srcInt (if (f.tyOf 0x005).signed then .s64 else .z64) f w l f.c))) ∧
  computes 0x008 .iabs 4 (intResult 0x008 fun _ a _ _ => if a < 0 then -a else a) ∧
  computes 0x009 .imin 4 (intResult 0x009 fun _ a b _ => if a < b then a else b) ∧
  computes 0x00A .imax 4 (intResult 0x00A fun _ a b _ => if b < a then a else b) ∧
  computes 0x00B .iaddc 4 (fun f w l =>
    let x := srcInt (f.tyOf 0x00B) f w l f.a + srcInt (f.tyOf 0x00B) f w l f.b + (srcPred w l f.c).toNat
    putTy (f.tyOf 0x00B) f l f.d.toNat (outInt (f.tyOf 0x00B) false x) ++
      putPred f w l (f.clsBits 0 3) (carryOut (f.tyOf 0x00B).width x)) ∧
  computes 0x00C .isubb 4 (fun f w l =>
    let x := srcInt (f.tyOf 0x00C) f w l f.a - srcInt (f.tyOf 0x00C) f w l f.b - (srcPred w l f.c).toNat
    putTy (f.tyOf 0x00C) f l f.d.toNat (outInt (f.tyOf 0x00C) false x) ++ putPred f w l (f.clsBits 0 3) (borrowOut x)) ∧
  computes 0x00D .lea 4 (fun f w l => put64 f l f.d.toNat (BitVec.ofInt 64
    ((src64 false f w l f.a).toNat + srcInt (f.tyOf 0x00D) f w l f.b * 2 ^ f.clsBits 0 5))) ∧
  computes 0x00E .isetp 4 (fun f w l => putPred f w l f.d.toNat (combine (f.clsBits 3 2)
    (cmpInt (f.clsBits 0 3) (srcInt (f.tyOf 0x00E) f w l f.a) (srcInt (f.tyOf 0x00E) f w l f.b)) (srcPred w l f.c))) ∧
  computes 0x00F .isel 4 (fun f w l => putTy (f.tyOf 0x00F) f l f.d.toNat
    (srcBits (f.tyOf 0x00F) f w l (if srcPred w l f.c != (f.clsBits 0 1 == 1) then f.a else f.b)))

/-- R119, R120, R143, R144: the divider gives quotient and remainder, and never a trap: division by 0 gives all ones and the dividend.
The function unit takes an instruction every 2 cycles and answers after 18 cycles, or 26. The values of `FRCP` to `FTANH` are the fixed-point
readings of log entry 21 (PRESUMED); that the S-lane has units of its own, and what a division waits for after one of the other width, is log
entry 55 (DESIGN CHOICE). -/
def Obligations.SharedUnitResults : Prop :=
  (∀ (f : Fields) (s : State), (quarterNow s).divNext ≤ s.cycle →
     (ready 0x006 f s = true → exec (.idiv f) s = .next (ended (wordsX f) s (land
       (occupied (begun 0x006 f s) fun x => { x with divNext := s.cycle + if (f.tyOf 0x006).width = 64 then 16 else 8 })
       (s.cycle + if (f.tyOf 0x006).width = 64 then 42 else 26) false
       (results (used f s) s.warp (intResult 0x006 (fun ty a b _ => if b = 0 then 2 ^ ty.width - 1
         else if ty.signed ∧ a = tyMin ty ∧ b = -1 then a else a.tdiv b) { used f s with sat := false }))))) ∧
     (ready 0x007 f s = true → exec (.irem f) s = .next (ended (wordsX f) s (land
       (occupied (begun 0x007 f s) fun x => { x with divNext := s.cycle + if (f.tyOf 0x007).width = 64 then 16 else 8 })
       (s.cycle + if (f.tyOf 0x007).width = 64 then 42 else 26) false
       (results (used f s) s.warp (intResult 0x007 (fun ty a b _ => if b = 0 then a
         else if ty.signed ∧ a = tyMin ty ∧ b = -1 then 0 else a - a.tdiv b * b) { used f s with sat := false })))))) ∧
  ∀ (f : Fields) (s : State), (quarterNow s).fnNext ≤ s.cycle →
    let made (op delay : Nat) (g : Val → Val) : State := ended (wordsX f) s (land
      (occupied (begun op f s) fun x => { x with fnNext := s.cycle + 2 }) (s.cycle + delay) false
      (results (used f s) s.warp (floatResult (fun _ a _ _ => g a) (used f s))))
    (ready 0x048 f s = true → exec (.frcp f) s = .next (made 0x048 18 fnRcp)) ∧
    (ready 0x049 f s = true → exec (.frsq f) s = .next (made 0x049 18 fnRsq)) ∧
    (ready 0x04A f s = true → exec (.fsqrt f) s = .next (made 0x04A 18 fnSqrt)) ∧
    (ready 0x04B f s = true → exec (.fexp2 f) s = .next (made 0x04B 18 fnExp2)) ∧
    (ready 0x04C f s = true → exec (.flog2 f) s = .next (made 0x04C 18 fnLog2)) ∧
    (ready 0x04D f s = true → exec (.fsin f) s = .next (made 0x04D 26 fnSin)) ∧
    (ready 0x04E f s = true → exec (.fcos f) s = .next (made 0x04E 26 fnCos)) ∧
    (ready 0x04F f s = true → exec (.ftanh f) s = .next (made 0x04F 26 fnTanh))

/-- R122 to R129, R132: the logical, shift, field, count and dot-product instructions. -/
def Obligations.BitResults : Prop :=
  computes 0x010 .and 4 (fun f w l => putTy (f.tyOf 0x010) f l f.d.toNat ((BitVec.ofNat 64 (srcBits (f.tyOf 0x010) f w l f.a) &&&
    BitVec.ofNat 64 (srcBits (f.tyOf 0x010) f w l f.b)).toNat % 2 ^ (f.tyOf 0x010).width)) ∧
  computes 0x011 .or 4 (fun f w l => putTy (f.tyOf 0x011) f l f.d.toNat ((BitVec.ofNat 64 (srcBits (f.tyOf 0x011) f w l f.a) |||
    BitVec.ofNat 64 (srcBits (f.tyOf 0x011) f w l f.b)).toNat % 2 ^ (f.tyOf 0x011).width)) ∧
  computes 0x012 .xor 4 (fun f w l => putTy (f.tyOf 0x012) f l f.d.toNat ((BitVec.ofNat 64 (srcBits (f.tyOf 0x012) f w l f.a) ^^^
    BitVec.ofNat 64 (srcBits (f.tyOf 0x012) f w l f.b)).toNat % 2 ^ (f.tyOf 0x012).width)) ∧
  computes 0x013 .andn 4 (fun f w l => putTy (f.tyOf 0x013) f l f.d.toNat ((BitVec.ofNat 64 (srcBits (f.tyOf 0x013) f w l f.a) &&&
    ~~~ BitVec.ofNat 64 (srcBits (f.tyOf 0x013) f w l f.b)).toNat % 2 ^ (f.tyOf 0x013).width)) ∧
  computes 0x014 .not 4 (bitResult 0x014 fun w a _ _ => 2 ^ w - 1 - a) ∧
  computes 0x018 .rotl 4 (fun f w l => let a := srcBits (f.tyOf 0x018) f w l f.a
    let n := (src32 f w l f.b).toNat % (f.tyOf 0x018).width
    putTy (f.tyOf 0x018) f l f.d.toNat (a * 2 ^ n % 2 ^ (f.tyOf 0x018).width + a / 2 ^ ((f.tyOf 0x018).width - n))) ∧
  computes 0x015 .shl 4 (fun f w l => let a := srcBits (f.tyOf 0x015) f w l f.a
    let n := (src32 f w l f.b).toNat
    putTy (f.tyOf 0x015) f l f.d.toNat (if n < (f.tyOf 0x015).width then a * 2 ^ n % 2 ^ (f.tyOf 0x015).width else 0)) ∧
  computes 0x016 .shr 4 (fun f w l => let n := (src32 f w l f.b).toNat
    putTy (f.tyOf 0x016) f l f.d.toNat (if n < (f.tyOf 0x016).width then srcBits (f.tyOf 0x016) f w l f.a / 2 ^ n else 0)) ∧
  computes 0x017 .sar 4 (fun f w l => let i := intOf (f.tyOf 0x017) (srcBits (f.tyOf 0x017) f w l f.a)
    let n := (src32 f w l f.b).toNat
    putTy (f.tyOf 0x017) f l f.d.toNat
      ((if n < (f.tyOf 0x017).width then i / 2 ^ n else if i < 0 then -1 else 0) % 2 ^ (f.tyOf 0x017).width).toNat) ∧
  computes 0x019 .fshf 4 (fun f w l =>
    let y := srcBits (f.tyOf 0x019) f w l f.a * 2 ^ (f.tyOf 0x019).width + srcBits (f.tyOf 0x019) f w l f.b
    let n := (src32 f w l f.c).toNat % (f.tyOf 0x019).width
    putTy (f.tyOf 0x019) f l f.d.toNat (if f.clsBits 0 1 = 0 then y / 2 ^ n % 2 ^ (f.tyOf 0x019).width
      else y * 2 ^ n / 2 ^ (f.tyOf 0x019).width % 2 ^ (f.tyOf 0x019).width)) ∧
  computes 0x01A .bfx 4 (fun f w l => let b := (src32 f w l f.b).toNat
    putTy (f.tyOf 0x01A) f l f.d.toNat (outInt (f.tyOf 0x01A) false
      (bitField (f.tyOf 0x01A) (srcBits (f.tyOf 0x01A) f w l f.a) (b % 256) (b / 256 % 256)))) ∧
  computes 0x01B .bfi 4 (fun f w l => let c := (src32 f w l f.c).toNat
    putTy (f.tyOf 0x01B) f l f.d.toNat (insertField (f.tyOf 0x01B).width (srcBits (f.tyOf 0x01B) f w l f.a)
      (srcBits (f.tyOf 0x01B) f w l f.b) (c % 256) (c / 256 % 256))) ∧
  computes 0x01C .popc 4 (fun f w l => put32 f l f.d.toNat
    (BitVec.ofNat 32 (onesIn (f.tyOf 0x01C).width (srcBits (f.tyOf 0x01C) f w l f.a)))) ∧
  computes 0x01D .clz 4 (fun f w l => put32 f l f.d.toNat
    (BitVec.ofNat 32 (leadingZeros (f.tyOf 0x01D).width (srcBits (f.tyOf 0x01D) f w l f.a)))) ∧
  computes 0x01E .ctz 4 (fun f w l => put32 f l f.d.toNat
    (BitVec.ofNat 32 (trailingZeros (f.tyOf 0x01E).width (srcBits (f.tyOf 0x01E) f w l f.a)))) ∧
  computes 0x01F .brev 4 (bitResult 0x01F fun w a _ _ => reverseBits w a) ∧
  computes 0x020 .prmb 4 (fun f w l =>
    let pool := (src32 f w l f.a).toNat + 2 ^ 32 * (src32 f w l f.b).toNat
    let c := (src32 f w l f.c).toNat
    put32 f l f.d.toNat (BitVec.ofNat 32
      ((List.range 4).foldl (fun x i => x + 2 ^ (8 * i) * permByte pool (c / 2 ^ (8 * i) % 256)) 0))) ∧
  computes 0x021 .lut3 4 (fun f w l => bitResult 0x021 (fun n a b c => (List.range n).foldl (fun x i =>
    if tableBit f.sub (a / 2 ^ i % 2 == 1) (b / 2 ^ i % 2 == 1) (c / 2 ^ i % 2 == 1) then x + 2 ^ i else x) 0) f w l) ∧
  computes 0x022 .idot4 6 (fun f w l => put32 f l f.d.toNat (BitVec.ofNat 32 (outInt (f.tyOf 0x022) f.sat
    ((List.range 4).foldl (fun x i => x + elemInt 8 i (src32 f w l f.a).toNat (f.clsBits 0 1 == 1) *
      elemInt 8 i (src32 f w l f.b).toNat (f.clsBits 1 1 == 1)) (srcInt (f.tyOf 0x022) f w l f.c))))) ∧
  computes 0x023 .idot2 6 (fun f w l => put32 f l f.d.toNat (BitVec.ofNat 32 (outInt (f.tyOf 0x023) f.sat
    ((List.range 2).foldl (fun x i => x + elemInt 16 i (src32 f w l f.a).toNat (f.clsBits 0 1 == 1) *
      elemInt 16 i (src32 f w l f.b).toNat (f.clsBits 1 1 == 1)) (srcInt (f.tyOf 0x023) f w l f.c))))) ∧
  computes 0x024 .pset 4 (fun f w l => putPred f w l f.d.toNat
    (tableBit f.sub (srcPred w l f.a) (srcPred w l f.b) (srcPred w l f.c)))

/-- R138 to R142, R145 to R147: the floating-point and conversion instructions, each result rounded once from the exact value. `FCVT`
completes in every state in which it may issue, whatever its source codes are. -/
def Obligations.FloatResults : Prop :=
  computes 0x040 .fadd 4 (floatResult fun r a b _ => sumVals r [a, b]) ∧
  computes 0x041 .fsub 4 (floatResult fun r a b _ => sumVals r [a, b.neg]) ∧
  computes 0x042 .fmul 4 (floatResult fun _ a b _ => a.mul b) ∧
  computes 0x043 .ffma 4 (floatResult fun r a b c => sumVals r [a.mul b, c]) ∧
  computes 0x044 .fmin 4 (floatResult fun _ a b _ => minVal a b) ∧
  computes 0x045 .fmax 4 (floatResult fun _ a b _ => maxVal a b) ∧
  computes 0x046 .fsetp 4 (fun f w l => putPred f w l f.d.toNat (combine (f.clsBits 3 2)
    (cmpVal (f.clsBits 0 3) (modA f (srcVal (f.tyOf 0x046) f w l f.a)) (modB f (srcVal (f.tyOf 0x046) f w l f.b)))
    (srcPred w l f.c))) ∧
  computes 0x047 .fclass 4 (fun f w l => put32 f l f.d.toNat (BitVec.ofNat 32 (2 ^ (floatFmt (f.tyOf 0x047)).classOf
    ((src32 f w l f.a).toNat % 2 ^ (f.tyOf 0x047).width)))) ∧
  computes 0x050 .fscale 4 (fun f w l => put32 f l f.d.toNat (BitVec.ofNat 32 (fmtF32.result f.rnd f.sat
    ((modA f (srcVal .f32 f w l f.a)).scale (src32 f w l f.b).toInt)))) ∧
  computes 0x051 .frnd 4 (fun f w l => put32 f l f.d.toNat (BitVec.ofNat 32 (fmtF32.result f.rnd false
    (toIntegral f.rnd (modA f (srcVal .f32 f w l f.a)))))) ∧
  computes 0x053 .i2f 6 (fun f w l => put32 f l f.d.toNat (BitVec.ofNat 32 ((floatFmt (f.tyOf 0x053)).convert f.rnd f.sat
    (rndBits f w l) (valInt (srcInt ((Ty.ofCode (f.clsBits 0 5)).getD .s32) f w l f.a))))) ∧
  computes 0x054 .f2i 6 (fun f w l => putTy (f.tyOf 0x054) f l f.d.toNat (outInt (f.tyOf 0x054) false
    (roundInt (tyMin (f.tyOf 0x054)) (tyMax (f.tyOf 0x054)) f.rnd (rndBits f w l)
      (modA f (srcVal ((Ty.ofCode (f.clsBits 0 5)).getD .f32) f w l f.a))))) ∧
  computes 0x055 .hadd2 4 (packedResult 0x055 fun r a b _ => sumVals r [a, b]) ∧
  computes 0x056 .hmul2 4 (packedResult 0x056 fun _ a b _ => a.mul b) ∧
  computes 0x057 .hfma2 4 (packedResult 0x057 fun r a b c => sumVals r [a.mul b, c]) ∧
  computes 0x058 .fdot2 6 (fun f w l =>
    let p (i : Nat) : Val := (modA f (halfVal (f.tyOf 0x058) i f w l f.a)).mul (modB f (halfVal (f.tyOf 0x058) i f w l f.b))
    put32 f l f.d.toNat (BitVec.ofNat 32 (fmtF32.result f.rnd f.sat (sumVals f.rnd [p 0, p 1, srcVal .f32 f w l f.c])))) ∧
  ∀ (f : Fields) (s : State), ready 0x052 f s = true →
    let W : List Write := results (used f s) s.warp fun w l =>
      let code := (elemOf f.ty).encode f.rnd f.sat (rndBits (used f s) w l) (modA f (cvtSource (used f s) w l).1)
      put32 (used f s) l f.d.toNat (BitVec.ofNat 32 (insertField 32
        (if f.subBits 6 1 = 1 then (rd (used f s) w l f.d.toNat).toNat else 0) code (containerBits f.ty * f.subBits 0 3) (containerBits f.ty)))
    ∃ t, exec (.fcvt f) s = .next t ∧ sameMemory s t ∧ warpKept s.warp t.warp ∧ wentOn (wordsX f) s t ∧
      t.warp.pend = s.warp.pend ++ if W = [] then [] else [⟨s.cycle + 4, true, W⟩]

/-- R101, R109, R146: `FCVT` converts one element of a register, and each reserved source code of an executing thread adds one to the
core's counter. -/
def Obligations.ConversionCountsReservedCodes : Prop :=
  ∀ (f : Fields) (s : State), ready 0x052 f s = true →
    exec (.fcvt f) s = .next (ended (wordsX f) s (land
      (countReserved (begun 0x052 f s) s.selfCore
        ((execLanes (used f s) s.warp).filter fun l => (cvtSource (used f s) s.warp l).2).length)
      (s.cycle + 4) true
      (results (used f s) s.warp fun w l =>
        let code := (elemOf f.ty).encode f.rnd f.sat (rndBits (used f s) w l) (modA f (cvtSource (used f s) w l).1)
        let pos := containerBits f.ty * f.subBits 0 3
        let old := if f.subBits 6 1 = 1 then (rd (used f s) w l f.d.toNat).toNat else 0
        put32 (used f s) l f.d.toNat (BitVec.ofNat 32 (old / 2 ^ (pos + containerBits f.ty) * 2 ^ (pos + containerBits f.ty) +
          code % 2 ^ containerBits f.ty * 2 ^ pos + old % 2 ^ pos)))))

/-- R150 to R152, R154 to R158: moves, gathers and exchanges. `MOVI` and `MOVX` wait until everything issued has landed; a computed
register that the warp does not hold faults with cause 0x04, naming the register and the lane (one whose data are in error, with 0x12). -/
def Obligations.MoveResults : Prop :=
  computes 0x080 .mov 4 (bitResult 0x080 fun _ a _ _ => a) ∧
  computes 0x081 .movk 4 (bitResult 0x081 fun _ a _ _ => a) ∧
  computes 0x084 .s2v 4 (fun f w l => let k := match f.a with | .reg n => n.toNat | _ => 0
    putTy (f.tyOf 0x084) f l f.d.toNat (if (f.tyOf 0x084).width = 64 then (w.spair k).toNat else (w.sreg k).toNat)) ∧
  computes 0x087 .perm 6 (fun f w l =>
    putTy (f.tyOf 0x087) f l f.d.toNat (srcBits (f.tyOf 0x087) f w ((src32 f w l f.b).toNat % 32) f.a)) ∧
  computes 0x088 .shfl 6 (fun f w l =>
    let j := shflLane (f.subBits 0 2) (2 ^ f.subBits 2 3) l (src32 f w l f.b).toNat
    let ok := (execLanes f w).contains j
    putTy (f.tyOf 0x088) f l f.d.toNat (srcBits (f.tyOf 0x088) f w (if ok then j else l) f.a) ++ putPred f w l (f.clsBits 0 3) ok) ∧
  computes 0x089 .qswap 4 (fun f w l =>
    putTy (f.tyOf 0x089) f l f.d.toNat (srcBits (f.tyOf 0x089) f w (Nat.xor l (f.subBits 0 2)) f.a)) ∧
  computes 0x08A .qbcast 4 (fun f w l =>
    putTy (f.tyOf 0x08A) f l f.d.toNat (srcBits (f.tyOf 0x08A) f w (l / 4 * 4 + f.subBits 0 2) f.a)) ∧
  computes 0x08B .lut16 6 (fun f w l => put32 f l f.d.toNat (BitVec.ofNat 32 ((List.range 8).foldl (fun x i =>
    x + 16 ^ i * ((src64 false f w l f.a).toNat / 16 ^ ((src32 f w l f.b).toNat / 16 ^ i % 16) % 16)) 0))) ∧
  computes 0x08F .p2v 4 (fun f w l => put32 f l f.d.toNat ((w.thread l).preds.setWidth 32)) ∧
  computes 0x090 .v2p 4 (fun f w l => ((List.range 7).map fun i =>
    if f.sub.getLsbD i then putPred f w l i ((src32 f w l f.a).getLsbD i) else []).flatten) ∧
  ∀ (f : Fields) (s : State), quiet s.warp = true →
    let index (l : Nat) : Nat := (src32 (used f s) s.warp l f.a + src32 (used f s) s.warp l f.b).toNat
    let bad (op l : Nat) : Bool := decide (511 < index l) || !s.warp.holdsReg (index l) ||
      ((f.tyOf op).width == 64 && index l % 2 == 1)
    (ready 0x082 f s = true → match (execLanes (used f s) s.warp).find? (bad 0x082) with
      | some l => exec (.movi f) s = .next (faults 0x082 f s 0x04 0 (BitVec.ofNat 64 (index l + 2 ^ 32 * l)))
      | none => indirectErr 0x082 (used f s) s.warp = none → exec (.movi f) s = .next (lands 0x082 f s (s.cycle + 6) true (results (used f s) s.warp fun w l =>
          putTy (f.tyOf 0x082) (used f s) l f.d.toNat
            (if (f.tyOf 0x082).width = 64 then (w.pair (index l) l).toNat else (w.reg (index l) l).toNat)))) ∧
    (ready 0x083 f s = true → match (execLanes (used f s) s.warp).find? (bad 0x083) with
      | some l => exec (.movx f) s = .next (faults 0x083 f s 0x04 0 (BitVec.ofNat 64 (index l + 2 ^ 32 * l)))
      | none => exec (.movx f) s = .next (lands 0x083 f s (s.cycle + 6) true (results (used f s) s.warp fun w l =>
          putTy (f.tyOf 0x083) (used f s) l (index l) (srcBits (f.tyOf 0x083) (used f s) w l f.c))))

/-- R87, R152, R159 to R161, R373: special values, lane to uniform register, votes, reductions and scans. -/
def Obligations.CrossLaneResults : Prop :=
  ∀ (f : Fields) (s : State),
    let g := used f s
    let ps := (execLanes g s.warp).filter s.warp.live
    let rs := s.warp.active.filter fun l => !s.warp.live l || guardOf g s.warp l
    (ready 0x086 f s = true → exec (.rds f) s = .next (lands 0x086 f s (s.cycle + 6) false (results g s.warp fun w l =>
      let x := special s w l f.sub.toNat
      if f.sub.toNat = 9 ∨ f.sub.toNat = 10 then put64 g l f.d.toNat (BitVec.ofNat 64 x)
      else put32 g l f.d.toNat (BitVec.ofNat 32 x)))) ∧
    (∀ first, ready 0x085 f s = true → (s.warp.active.filter s.warp.live).find? (guardOf g s.warp) = some first →
      exec (.v2s f) s = .next (lands 0x085 f s (s.cycle + 4) true
        (let x := BitVec.ofNat 64 (srcBits (f.tyOf 0x085) g s.warp (if f.subBits 5 1 = 1 then first else f.subBits 0 5) f.a)
         .sreg f.d.toNat (x.setWidth 32) ::
           if (f.tyOf 0x085).width = 64 then [.sreg (f.d.toNat + 1) ((x >>> 32).setWidth 32)] else []))) ∧
    (ready 0x08C f s = true → ps ≠ [] → exec (.vote f) s = .next (lands 0x08C f s (s.cycle + 6) true (rs.map fun l =>
      let yes := ps.filter fun l => srcPred s.warp l f.a
      if f.sub.toNat = 0 then putPred g s.warp l f.d.toNat (decide (yes.length = ps.length))
      else if f.sub.toNat = 1 then putPred g s.warp l f.d.toNat (decide (yes ≠ []))
      else if f.sub.toNat = 2 then putPred g s.warp l f.d.toNat (decide (yes.length = ps.length ∨ yes = []))
      else put32 g l f.d.toNat (maskOf yes)).flatten)) ∧
    (ready 0x08D f s = true → ps ≠ [] → exec (.redux f) s = .next (lands 0x08D f s
      (s.cycle + if (f.tyOf 0x08D).width = 64 ∨ 6 ≤ f.subBits 0 4 then 12 else 8) false
      (rs.map fun l => putTy (f.tyOf 0x08D) g l f.d.toNat (combined (f.tyOf 0x08D) (f.subBits 0 4) g s.warp ps)).flatten)) ∧
    (ready 0x08E f s = true → ps ≠ [] → exec (.scanx f) s = .next (lands 0x08E f s
      (s.cycle + if (f.tyOf 0x08E).width = 64 ∨ 6 ≤ f.subBits 0 4 then 14 else 10) false
      (rs.map fun l => putTy (f.tyOf 0x08E) g l f.d.toNat (combined (f.tyOf 0x08E) (f.subBits 0 4) g s.warp
        (ps.filter fun j => if f.subBits 4 1 = 1 ∨ s.warp.live l = false then j < l else j ≤ l))).flatten))

/-- R61, R62: each short form of a computing instruction does what the extended form that it stands for does, in one word. -/
def Obligations.ShortFormResults : Prop :=
  computesShort 0x01 .movShort 4 (bitResult 0x080 fun _ a _ _ => a) ∧
  computesShort 0x02 .iaddShort 4 (intResult 0x000 fun _ a b _ => a + b) ∧
  computesShort 0x03 .isubShort 4 (intResult 0x001 fun _ a b _ => a - b) ∧
  computesShort 0x04 .andShort 4 (fun f w l => putTy (f.tyOf 0x010) f l f.d.toNat
    ((BitVec.ofNat 64 (srcBits (f.tyOf 0x010) f w l f.a) &&& BitVec.ofNat 64 (srcBits (f.tyOf 0x010) f w l f.b)).toNat %
      2 ^ (f.tyOf 0x010).width)) ∧
  computesShort 0x05 .orShort 4 (fun f w l => putTy (f.tyOf 0x011) f l f.d.toNat
    ((BitVec.ofNat 64 (srcBits (f.tyOf 0x011) f w l f.a) ||| BitVec.ofNat 64 (srcBits (f.tyOf 0x011) f w l f.b)).toNat %
      2 ^ (f.tyOf 0x011).width)) ∧
  computesShort 0x06 .xorShort 4 (fun f w l => putTy (f.tyOf 0x012) f l f.d.toNat
    ((BitVec.ofNat 64 (srcBits (f.tyOf 0x012) f w l f.a) ^^^ BitVec.ofNat 64 (srcBits (f.tyOf 0x012) f w l f.b)).toNat %
      2 ^ (f.tyOf 0x012).width)) ∧
  computesShort 0x07 .shlShort 4 (fun f w l => let a := srcBits (f.tyOf 0x015) f w l f.a
    let n := (src32 f w l f.b).toNat
    putTy (f.tyOf 0x015) f l f.d.toNat (if n < (f.tyOf 0x015).width then a * 2 ^ n % 2 ^ (f.tyOf 0x015).width else 0)) ∧
  computesShort 0x08 .shrShort 4 (fun f w l => let n := (src32 f w l f.b).toNat
    putTy (f.tyOf 0x016) f l f.d.toNat (if n < (f.tyOf 0x016).width then srcBits (f.tyOf 0x016) f w l f.a / 2 ^ n else 0)) ∧
  computesShort 0x09 .sarShort 4 (fun f w l => let i := intOf (f.tyOf 0x017) (srcBits (f.tyOf 0x017) f w l f.a)
    let n := (src32 f w l f.b).toNat
    putTy (f.tyOf 0x017) f l f.d.toNat
      ((if n < (f.tyOf 0x017).width then i / 2 ^ n else if i < 0 then -1 else 0) % 2 ^ (f.tyOf 0x017).width).toNat) ∧
  computesShort 0x0A .imulShort 6 (intResult 0x002 fun _ a b _ => a * b) ∧
  computesShort 0x0B .iminShort 4 (intResult 0x009 fun _ a b _ => if a < b then a else b) ∧
  computesShort 0x0C .imaxShort 4 (intResult 0x00A fun _ a b _ => if b < a then a else b) ∧
  computesShort 0x0D .faddShort 4 (floatResult fun r a b _ => sumVals r [a, b]) ∧
  computesShort 0x0E .fmulShort 4 (floatResult fun _ a b _ => a.mul b) ∧
  computesShort 0x0F .fminShort 4 (floatResult fun _ a b _ => minVal a b) ∧
  computesShort 0x10 .fmaxShort 4 (floatResult fun _ a b _ => maxVal a b) ∧
  ∀ (k : ShortLit) (s : State), ready 0x081 k.ext.2 s = true →
    exec (.movkShort k) s = .next (ended 3 s (land (begun 0x081 k.ext.2 s) (s.cycle + 4) true
      (results (used k.ext.2 s) s.warp fun _ l =>
        if k.pair then put64 (used k.ext.2 s) l k.d.toNat k.lit
        else put32 (used k.ext.2 s) l k.d.toNat (k.lit.setWidth 32))))

/-! ### Encoding, steps and reset -/

/-- R57, R60 to R68: words written out from the encodings of chapter 3 decode to the instructions that they stand for. -/
def Obligations.SpecWordsDecode : Prop :=
  decodeWords [0x00000000] = .instr (.nopShort {}) ∧
  decodeWords [0x00060508] = .instr (.iaddShort { d := 5, a := 3 }) ∧
  decodeWords [0x03FFFF48] = .instr (.sbra { off := 0x3FFFF }) ∧
  decodeWords [0x00020846, 0x89ABCDEF, 0x01234567] = .instr (.movkShort { pair := true, d := 8, lit := 0x0123456789ABCDEF }) ∧
  decodeWords [0x00000746, 0x89ABCDEF, 0x01234567] = .bad 2 ∧
  decodeWords [0x00605001, 0x38000004, 0x00000007] = .instr (.iadd { d := 5, a := .reg 3, b := .reg 4, ty := .z32 }) ∧
  decodeWords [0x00401101, 0x38000003, 0x00008029] =
    .instr (.fadd { d := 1, a := .reg 2, b := .reg 3, negA := true, rnd := .rtz, ty := .f32 }) ∧
  decodeWords [0x0000031D, 0x58000000, 0x00000000] = .instr (.exit { pred := 3, pneg := true }) ∧
  decodeWords [0x00408401, 0x38040000, 0x00000C07] =
    .instr (.ld { d := 8, a := .reg 2, b := .zero, order := .acq, scope := .cluster, ty := .z32 }) ∧
  decodeWords [0x80000000] = .bad 2 ∧ decodeWords [0x00000068] = .bad 1 ∧
  decodeWords [0x00605001, 0x38000004, 0x00000014] = .bad 2 ∧ decodeWords [0x00605001, 0x78000004, 0x00000007] = .bad 2

/-- R57 to R68, R81: decoding gives back every well-formed instruction that was encoded, whatever words follow. -/
def Obligations.DecodeEncode : Prop :=
  ∀ (i : Instr) (r : List Nat), i.wellFormed = true → decodeWords (encode i ++ r) = .instr i

/-- R57 to R68, R81: what decodes is well formed, and its words are exactly those that it was decoded from: no bit is dropped. -/
def Obligations.EncodeDecode : Prop :=
  ∀ (ws : List Nat) (i : Instr), (∀ w ∈ ws, w < 2 ^ 32) → decodeWords ws = .instr i →
    i.wellFormed = true ∧ encode i = ws.take (encode i).length

/-- R41, R57, R58: a warp that may issue, and whose words at its PC are those of a well-formed instruction, issues exactly that
instruction; it is the first ready warp of its unit that does, and the units of a cycle have their turns one by one. -/
def Obligations.StepRunsDecoded : Prop :=
  ∀ (s : State) (c q k : Nat) (r : List (Nat × Nat)) (ks : List Nat) (i : Instr),
    let u := ({ s with units := r } : State).select c k
    (∀ d ∈ s.agenda.head?, s.cycle < d.at_) → s.units = (c, q) :: r → q ≠ 5 →
    candidates { s with units := r } c q = k :: ks → i.wellFormed = true → fetchReady u = true → fetches u (encode i) →
    tryIssue u = exec (resolve i u) u ∧
    ∀ t, exec (resolve i u) u = .next t → t.issued = true → step s = .next t

/-- R6, R41: an event that is due happens before any instruction issues, and when every unit has had its turn the next cycle begins
(log entry 5 fixes the order, the model's choice: R6 and R41 give none). -/
def Obligations.StepTakesEvents : Prop :=
  ∀ s : State,
    (∀ d r, s.agenda = d :: r → d.at_ ≤ s.cycle → step s = exec d.ev { s with agenda := r, input := d.data }) ∧
    ((∀ d ∈ s.agenda.head?, s.cycle < d.at_) → s.units = [] → step s = .next (advanceCycle s))

/-- R84, R88, R343, R344: right after reset nothing is resident, the global time is 0, the control registers of every core hold their reset
values, and the boot ROM is about to run; memory lists nothing, in its canonical form (the form is the model's, log entry 2). -/
def Obligations.ResetState : Prop :=
  (∀ c, let k := State.reset.core c
    k.warps = [] ∧ k.sl.started = false ∧ k.pick = false ∧ k.chkdef = false ∧ k.svqbase = 0 ∧ k.pollint = 1024 ∧ k.leaselen = 400 ∧
    k.gateidle = 0 ∧ k.timecmp = BitVec.allOnes 64 ∧ k.sl.trapvec = 0 ∧ k.trapvec = 0 ∧ k.loopq = [] ∧ k.copies = []) ∧
  State.reset.now = 0 ∧ State.reset.groups = [] ∧ State.reset.agenda = [{ at_ := 0, ev := .packageReset }] ∧
  (∀ a, Memory.read State.reset.hbm a = Memory.blank) ∧ MemoryOk State.reset

/-- R218, R372 (the form is the model's, log entry 2): every step keeps memory in its canonical form. -/
def Obligations.MemoryStaysCanonical : Prop := ∀ s t : State, MemoryOk s → step s = .next t → MemoryOk t

/-- R81, R329: no step refuses; every instruction of the opcode table has a meaning in every state. -/
def Obligations.NoStepRefuses : Prop := ∀ (s : State) (x : Refusal), step s ≠ .refused x

/-! ### Control flow -/

/-- R164, R165, R34: every thread of the front whose guard is true goes to its target, the others to the next instruction; of the
fronts that arise the one with the lowest address is current. -/
def Obligations.BranchTargets : Prop :=
  ∀ s : State,
    let next (n : Nat) : Va := s.warp.pc + BitVec.ofNat 72 (4 * n)
    let goes (t : State) (g : Nat → Va) : Prop := onlyHere s t ∧ warpKept s.warp t.warp ∧ t.warp.pend = s.warp.pend ∧ frontAt s t g ∧
      ∀ l, hasLane s.warp.frontMask l = true → t.warp.pc.toNat ≤ (g l).toNat
    (∀ f, ready 0x0C0 f s = true → answers (.bra f) s fun t => goes t fun l =>
      if guardOf (used f s) s.warp l then s.warp.pc + (BitVec.ofNat 32 f.loWord).signExtend 72 else next (wordsX f)) ∧
    (∀ f, ready 0x0C1 f s = true → answers (.brx f) s fun t => goes t fun l =>
      if guardOf (used f s) s.warp l then
        registerVa s.warp.pc (src64 false (used f s) s.warp l f.a + (src32 (used f s) s.warp l f.b).signExtend 64)
      else next (wordsX f)) ∧
    (∀ f, ready 0x0C4 f s = true → answers (.ret f) s fun t => goes t fun l =>
      if guardOf (used f s) s.warp l then registerVa s.warp.pc (s.warp.pair 0 l) else next (wordsX f)) ∧
    (∀ k : ShortBranch, ready 0x0C0 k.ext.2 s = true → answers (.sbra k) s fun t => goes t fun l =>
      if guardOf (used k.ext.2 s) s.warp l then s.warp.pc + (BitVec.ofNat 32 k.ext.2.loWord).signExtend 72 else next 1) ∧
    (∀ k : Short, readyShort 0x13 k s = true → answers (.retShort k) s fun t => goes t fun l =>
      if guardOf (used (k.ext 0x13).2 s) s.warp l then registerVa s.warp.pc (s.warp.pair 0 l) else next 1)

/-- R165: a call goes to its target as a branch does, and each thread that goes there gets PC[63:0] + L in its link pair v0, v1,
4 cycles after issue (R373). -/
def Obligations.CallLinks : Prop :=
  ∀ (s : State) (f : Fields),
    let next : Va := s.warp.pc + BitVec.ofNat 72 (4 * wordsX f)
    let links : List Write := ((s.warp.active.filter (guardOf (used f s) s.warp)).map fun l =>
      [Write.reg 0 l (next.setWidth 32), .reg 1 l ((next >>> 32).setWidth 32)]).flatten
    let goes (t : State) (g : Nat → Va) : Prop := onlyHere s t ∧ warpKept s.warp t.warp ∧
      t.warp.pend = s.warp.pend ++ (if links = [] then [] else [⟨s.cycle + 4, false, links⟩]) ∧
      frontAt s t fun l => if guardOf (used f s) s.warp l then g l else next
    (ready 0x0C2 f s = true → answers (.call f) s fun t => goes t fun _ => s.warp.pc + (BitVec.ofNat 32 f.loWord).signExtend 72) ∧
    (ready 0x0C3 f s = true → answers (.callx f) s fun t => goes t fun l =>
      registerVa s.warp.pc (src64 false (used f s) s.warp l f.a + (src32 (used f s) s.warp l f.b).signExtend 64))

/-- R167: `SPLIT` pushes one entry with the join address, the front's lanes, its team and its current entry, which becomes the current
entry of every thread of the front; with no entry free it faults with cause 0x0E. -/
def Obligations.SplitPushesAnEntry : Prop :=
  ∀ (s : State) (f : Fields), ready 0x0C5 f s = true →
    (∀ e, s.warp.freeEntry = some e → answers (.split f) s fun t => onlyHere s t ∧ warpKept s.warp t.warp ∧
      Sparse.get? t.warp.entries e =
        some { join := s.warp.pc + (BitVec.ofNat 32 f.hiWord).signExtend 72, mask := s.warp.frontMask, team := s.warp.team,
               link := s.warp.entry } ∧
      ∀ l, hasLane s.warp.frontMask l = true → (t.warp.thread l).entry = some e ∧
        (t.warp.thread l).pc = if guardOf (used f s) s.warp l && srcPred s.warp l f.a then
          s.warp.pc + (BitVec.ofNat 32 f.loWord).signExtend 72 else s.warp.pc + 20) ∧
    (s.warp.freeEntry = none → exec (.split f) s = .next (faults 0x0C5 f s 0x0E 0 1))

/-- R168, R169, R374: at the join address of its current entry a front parks, once its release of warp scope is made, and the entries
whose members have all come are completed; a `JOIN` elsewhere, or of another team, faults with cause 0x0F. -/
def Obligations.JoinParks : Prop :=
  ∀ s : State,
    let good : Bool := match s.warp.entry.bind fun i => Sparse.get? s.warp.entries i with
      | some e => e.join == s.warp.pc && e.team == s.warp.team
      | none => false
    let joined (n : Nat) (b : State) : State := jumped s (b.setWarp ((parkFront b.warp (4 * n) .join).joinAll s.now))
    (∀ f, ready 0x0C6 f s = true →
      (good = true → releaseAt s .warp = .go → exec (.join f) s = .next (joined (wordsX f) (begun 0x0C6 f s))) ∧
      (good = false → exec (.join f) s = .next (faults 0x0C6 f s 0x0F 0 1))) ∧
    (∀ k : Short, readyShort 0x16 k s = true →
      (good = true → releaseAt s .warp = .go → exec (.joinShort k) s = .next (joined 1 (begun 0x0C6 (k.ext 0x16).2 s))) ∧
      (good = false → exec (.joinShort k) s = .next (faults 0x0C6 (k.ext 0x16).2 s 0x0F 0 1)))

/-- R168: when every live member of an entry is parked at the `JOIN` with the entry current, the entry is freed, its link becomes their
current entry, and they stand in one ready front. -/
def Obligations.JoinMerges : Prop :=
  ∀ (w : Warp) (now i : Nat) (e : REntry), Sparse.sorted w.entries = true → Sparse.get? w.entries i = some e → w.memberLanes e ≠ [] →
    (∀ l ∈ w.memberLanes e, (w.thread l).entry = some i ∧ hasLane (w.parkedFor .join) l = true) →
    let v := w.joinEntry now i
    Sparse.get? v.entries i = none ∧ v.lastAcq = now ∧ (∀ l ∈ w.memberLanes e, (v.thread l).entry = e.link) ∧
    ∃ x ∈ v.fronts, x.wait = none ∧ ∀ l ∈ w.memberLanes e, hasLane x.lanes l = true

/-- R170: `SOLO` starts a section of the front's threads; `SOLOE` parks a thread at its end, and the last one ends the section. -/
def Obligations.SoloSections : Prop :=
  ∀ (s : State) (f : Fields),
    let w := s.warp
    (ready 0x0D0 f s = true → w.inSolo = false → answers (.solo f) s fun t => onlyHere s t ∧ warpKept w t.warp ∧
      wentOn (wordsX f) s t ∧ ∃ i, Sparse.get? w.solos i = none ∧ Sparse.get? t.warp.solos i = some { members := w.frontMask, entry := w.entry } ∧
        ∀ l, hasLane w.frontMask l = true → (t.warp.thread l).solo = some i) ∧
    (ready 0x0D0 f s = true → w.inSolo = true → exec (.solo f) s = .next (faults 0x0D0 f s 0x02 0 (trapWords (encodeExt 0x0D0 f)))) ∧
    (∀ i x, ready 0x0D1 f s = true → (w.thread (Warp.lowest w.frontMask)).solo = some i → Sparse.get? w.solos i = some x →
      (x.entry = w.entry → answers (.soloe f) s fun t => onlyHere s t ∧ warpKept w t.warp ∧
        let y : Solo := { x with arrived := x.arrived ||| w.frontMask }
        if (lanesOf (y.members &&& ~~~ y.arrived)).filter w.live = [] then ∀ l ∈ lanesOf x.members, (t.warp.thread l).solo = none
        else Sparse.get? t.warp.solos i = some y) ∧
      (x.entry ≠ w.entry → exec (.soloe f) s = .next (faults 0x0D1 f s 0x0F 0 1)))

/-- R171, R233: `EXIT` ends the threads of the front whose guard is true and no other; one that leaves its warp no live thread first
waits as a `.sys` release does; with no guard true it does nothing. -/
def Obligations.ExitEndsThreads : Prop :=
  ∀ s : State,
    let ends (i : Instr) (f : Fields) (op n : Nat) : Prop :=
      let ls := s.warp.frontLanes.filter (guardOf (used f s) s.warp)
      (ls = [] → exec i s = .next (ended n s (begun op f s))) ∧
      (ls ≠ [] → ((s.warp.liveLanes.all fun l => ls.contains l) = true → releaseAt s .sys = .go) →
        answers i s fun t => sameMemory s t ∧ (∀ l ∈ ls, (t.warp.thread l).life = .exited) ∧
          ∀ l, l ∉ ls → (t.warp.thread l).life = (s.warp.thread l).life)
    (∀ f, ready 0x0C7 f s = true → ends (.exit f) f 0x0C7 (wordsX f)) ∧
    (∀ k : Short, readyShort 0x14 k s = true → ends (.exitShort k) (k.ext 0x14).2 0x0C7 1)

/-- R172, R173, R45: `NOP` only goes on; `YIELD` gives up the quarter's hold and takes the youngest age; each thread of a `SLEEP` whose
operand is not 0 parks until Now() reaches Now() at issue plus the operand. -/
def Obligations.NopYieldAndSleep : Prop :=
  (∀ s : State,
     (∀ f, ready 0x0C9 f s = true → exec (.nop f) s = .next (ended (wordsX f) s (begun 0x0C9 f s))) ∧
     (∀ k : Short, readyShort 0x00 k s = true → exec (.nopShort k) s = .next (ended 1 s (begun 0x0C9 (k.ext 0x00).2 s))) ∧
     let yields (i : Instr) (f : Fields) (n : Nat) : Prop :=
       if s.warp.frontLanes.any (guardOf (used f s) s.warp) then
         answers i s fun t => onlyHere s t ∧ warpKept s.warp t.warp ∧ wentOn n s t ∧ t.warp.stamp = s.cycle ∧
           (s.selfSlot < 64 → (quarterNow t).holder ≠ some s.selfSlot)
       else exec i s = .next (ended n s (begun 0x0C8 f s))
     (∀ f, ready 0x0C8 f s = true → yields (.yield f) f (wordsX f)) ∧
     (∀ k : Short, readyShort 0x15 k s = true → yields (.yieldShort k) (k.ext 0x15).2 1)) ∧
  ∀ (s : State) (f : Fields), ready 0x0CA f s = true →
    (s.warp.frontLanes.filter (guardOf (used f s) s.warp) = [] →
      exec (.sleep f) s = .next (ended (wordsX f) s (begun 0x0CA f s))) ∧
    (s.warp.frontLanes.filter (guardOf (used f s) s.warp) ≠ [] → answers (.sleep f) s fun t => onlyHere s t ∧ warpKept s.warp t.warp ∧
      wentOn (wordsX f) s t ∧
      ∀ l, hasLane s.warp.frontMask l = true → guardOf (used f s) s.warp l = true → src32 (used f s) s.warp l f.a ≠ 0 →
        (t.warp.thread l).deadline = BitVec.ofNat 64 (s.now + (src32 (used f s) s.warp l f.a).toNat) ∧
        hasLane (t.warp.parkedFor .sleep) l = true)

/-- R170, R175, R183, R320, R374: `BAR`, its short form, `TBAR` and `GBAR` park the front once its release is made; inside a single-thread section
`BAR`, its short form and `TBAR` fault, and `GBAR` parks as elsewhere. A group's `BAR`, and a team's `TBAR`, completes exactly when every live
thread of the group, or of the team, waits there by the instruction at one address, or has returned from its team-call: then none of them waits
any longer. A gang's `GBAR` completes exactly when every group of the gang has ended or is present there in the same way. That threads parked at
`TRET` count as there is the model's reading, log entry 32. -/
def Obligations.Barriers : Prop :=
  (∀ s : State,
     let parked (op n : Nat) (f : Fields) (why : Park) : State :=
       groupCheckHere ((begun op f s).setWarp (parkFront (begun op f s).warp (4 * n) why))
     (∀ f, ready 0x160 f s = true →
       (s.warp.inSolo = false → releaseAt s .group = .go → exec (.bar f) s = .next (jumped s (parked 0x160 (wordsX f) f .bar))) ∧
       (s.warp.inSolo = true → exec (.bar f) s = .next (faults 0x160 f s 0x02 0 (trapWords (encodeExt 0x160 f))))) ∧
     (∀ k : Short, readyShort 0x17 k s = true →
       (s.warp.inSolo = false → releaseAt s .group = .go → exec (.barShort k) s = .next (jumped s (parked 0x160 1 (k.ext 0x17).2 .bar))) ∧
       (s.warp.inSolo = true → exec (.barShort k) s = .next (faults 0x160 (k.ext 0x17).2 s 0x02 0 (trapWords [k.word 0x17])))) ∧
     (∀ f, ready 0x161 f s = true →
       (s.warp.inSolo = false → releaseAt s .group = .go → exec (.tbar f) s = .next (jumped s (parked 0x161 (wordsX f) f .tbar))) ∧
       (s.warp.inSolo = true → exec (.tbar f) s = .next (faults 0x161 f s 0x02 0 (trapWords (encodeExt 0x161 f))))) ∧
     (∀ f, ready 0x162 f s = true → releaseAt s .pkg = .go →
       exec (.gbar f) s = .next (jumped s (match (parked 0x162 (wordsX f) f .gbar).group? (parked 0x162 (wordsX f) f .gbar).warp.ctx with
         | some g => gangCheck (parked 0x162 (wordsX f) f .gbar) g.gang
         | none => parked 0x162 (wordsX f) f .gbar)))) ∧
  ∀ (s : State), (∀ c, Sparse.sorted (s.core c).warps = true) →
    let comes (c : Nat) (ms : List (Nat × Nat × Thread)) (why : Park) (pc : Va) : Bool := ms.all fun m =>
      if isParked s c m.1 m.2.1 why then m.2.2.waitPc == pc else isParked s c m.1 m.2.1 .tret
    let oneWait (c : Nat) (ms : List (Nat × Nat × Thread)) (why : Park) : Prop :=
      ∀ m ∈ ms, isParked s c m.1 m.2.1 why = true → isParked s c m.1 m.2.1 .tret = false
    (∀ (c ctx : Nat), awayThreads s ctx = [] →
      let ms := residents s c ctx
      (∀ pc, comes c ms .bar pc = true → ∀ m ∈ ms, isParked (barDone s c ctx) c m.1 m.2.1 .bar = false) ∧
      (oneWait c ms .bar → (∀ pc, comes c ms .bar pc = false) → barDone s c ctx = s)) ∧
    (∀ (c ctx : Nat) (team : Byte), ((awayThreads s ctx).any fun t => t.team == team) = false →
      let ms := (residents s c ctx).filter fun m => m.2.2.team == team
      (∀ pc, comes c ms .tbar pc = true → ∀ m ∈ ms, isParked (tbarDone s c ctx team) c m.1 m.2.1 .tbar = false) ∧
      (oneWait c ms .tbar → (∀ pc, comes c ms .tbar pc = false) → tbarDone s c ctx team = s)) ∧
    ∀ (key : Nat) (x : Gang), Sparse.get? s.gangs key = some x →
      let complete : Prop := (∀ m ∈ x.members, m.1 ∈ x.ended ∨ gbarPresent s m.1 ≠ []) ∧ ∃ m ∈ x.members, m.1 ∉ x.ended
      (complete → ∀ m ∈ x.members, m.1 ∉ x.ended → ∀ g, s.group? m.1 = some g →
        ∀ y ∈ residents s g.core m.1, isParked (gangCheck s key) g.core y.1 y.2.1 .gbar = false) ∧
      (¬ complete → ({ gangCheck s key with gangs := s.gangs } : State) = s) ∧
      ∀ ctx g, s.group? ctx = some g → g.evicted = 0 → g.saved = 0 → awayThreads s ctx = [] →
        ((∃ m ∈ residents s g.core ctx, isParked s g.core m.1 m.2.1 .gbar = true) → ∀ pc, comes g.core (residents s g.core ctx) .gbar pc = true →
          gbarPresent s ctx ≠ []) ∧
        (oneWait g.core (residents s g.core ctx) .gbar → (∀ pc, comes g.core (residents s g.core ctx) .gbar pc = false) → gbarPresent s ctx = [])

/-- R176, R178: at the leader's front a `TCALL` whose team is all there, and whose table is readable, reads the table; every warp of the
team waits for it. Inside a single-thread section it faults. -/
def Obligations.TeamCallReadsItsTable : Prop :=
  ∀ (s : State) (f : Fields) (ms : List (Nat × Nat × Thread)), ready 0x0CB f s = true →
    let b := begun 0x0CB f s
    let lead := ms.headD (s.selfSlot, 0, {})
    let va := vaOf (used f s) b.warp lead.2.1
    (s.warp.inSolo = true → exec (.tcall f) s = .next (faults 0x0CB f s 0x02 0 (trapWords (encodeExt 0x0CB f)))) ∧
    (s.warp.inSolo = false →
      (b.warp.liveLanes.filter fun l => (b.warp.thread l).team == b.warp.team && !hasLane b.warp.frontMask l) = [] →
      releaseAt b .group = .go → teamMembers b b.warp.team = some ms → lead.1 = s.selfSlot →
      (∀ m ∈ ms, m.1 ≠ s.selfSlot → standsAt b (used f s) m.1 b.warp.pc ((ms.filter fun x => x.1 == m.1).map (·.2.1)) = true) →
      va % 16 = 0 → (∀ i < f.sub.toNat, ∃ ia, translateFor b b.warp .read ((va + 16 * i) % 2 ^ 72) = .ok ia ∧ place b ia ≠ .io ∧
        redOf b (ownOps b) lead.2.1 { lane := i, va := (va + 16 * i) % 2 ^ 72, ia, size := 16 } = false) →
      answers (.tcall f) s fun t => sameMemory s t ∧ (∃ o, t.op? s.nextId = some o ∧ o.kind = .tcall) ∧
        ∀ m ∈ ms, (t.warpAt s.selfCore m.1).holds = some s.nextId)

/-- R169, R177, R180: the shares of a team-call add up to the size of the team, whatever the weights and whether or not each callee gets
at least one member. `TRET` latches the value of its source in every thread that returns, whose current entry must be the one its warp
had at the call; outside a team-call it faults with cause 0x0F. -/
def Obligations.TeamSharesAndReturns : Prop :=
  (∀ (k : Nat) (least : Bool) (ws : List Nat), 0 < ws.foldl (· + ·) 0 →
     (shares k least ws).foldl (· + ·) 0 = k ∧ (shares k least ws).length = ws.length) ∧
  ∀ (s : State) (f : Fields), ready 0x0CC f s = true → s.warp.inSolo = false →
    (s.warp.team = 0 → exec (.tret f) s = .next (faults 0x0CC f s 0x0F 0 0)) ∧
    (∀ g x, s.warp.team ≠ 0 → s.group? s.warp.ctx = some g → Sparse.get? g.frames (s.warp.team.toNat / 8 % 16) = some x →
      (s.warp.entry = Sparse.get none x.wentry s.warp.wix → releaseAt s .group = .go →
        answers (.tret f) s fun t => sameMemory s t ∧
          ∀ l, hasLane s.warp.frontMask l = true → (t.warp.thread l).retval = src64 false (used f s) s.warp l f.a) ∧
      (s.warp.entry ≠ Sparse.get none x.wentry s.warp.wix → exec (.tret f) s = .next (faults 0x0CC f s 0x0F 0 1)))

/-- R184, R185: a `SAFEPT` at which a save of the group is asked for gives the masks of its literal to the save; `IDEMB` notes where a
region begins, with all threads of the warp in one front, and `IDEME` ends it. -/
def Obligations.SafepointsAndRegions : Prop :=
  ∀ (s : State) (f : Fields),
    (ready 0x0CD f s = true → answers (.safept f) s fun t => sameMemory s t ∧ warpKept s.warp t.warp ∧
      t.warp.saving = if saveAsked s then some (f.lit.getD 0) else none) ∧
    (ready 0x0CE f s = true → (s.warp.liveLanes.all fun l => hasLane s.warp.frontMask l) = true → s.warp.team = 0 → s.warp.entry = none →
      answers (.idemb f) s fun t => onlyHere s t ∧ warpKept s.warp t.warp ∧ wentOn (wordsX f) s t ∧ t.warp.region = some s.warp.pc) ∧
    (ready 0x0CE f s = true → (s.warp.team ≠ 0 ∨ s.warp.entry ≠ none) →
      exec (.idemb f) s = .next (faults 0x0CE f s 0x02 0 (trapWords (encodeExt 0x0CE f)))) ∧
    (ready 0x0CF f s = true → answers (.ideme f) s fun t => onlyHere s t ∧ warpKept s.warp t.warp ∧ wentOn (wordsX f) s t ∧
      t.warp.region = none)

/-! ### Memory -/

/-- R187, R191, R196, R206, R207, R220: a load whose addresses pass the checks of issue is on its way, with the translated address of each
executing thread; it marks its destination registers, changes no memory, and the front goes on. Where no executing thread has an address
(none executes, or all are helpers whose check fails) it is complete at once, and writes zeros at most. -/
def Obligations.LoadsIssue : Prop :=
  ∀ s : State,
    let issued (i : Instr) (kind : OpKind) (op n : Nat) (f : Fields) (size align : Nat) (io : Bool) : Prop :=
      ∀ xs, ready op f s = true →
        operandCheck s s.warp .read align io ((execLanes (used f s) s.warp).map fun l => (l, vaOf (used f s) s.warp l)) = .ok xs →
        (f.order = .sc → scOut s = false) →
        ((∃ x ∈ xs, x.2.2.isSome = true) → (∀ x ∈ xs, redAhead s (mkLane size x) = false ∧ ioAhead s (mkLane size x) = false) →
        answers i s fun t => sameMemory s t ∧ warpKept s.warp t.warp ∧ wentOn n s t ∧
          (∃ o, t.op? s.nextId = some o ∧ o.kind = kind ∧ o.pc = s.warp.pc.toNat ∧
            o.lanes.map (fun y => (y.lane, y.va, y.ia)) = xs.map fun x => (x.1, x.2.1, x.2.2.getD 0)) ∧
          t.warp.loads = s.warp.loads ++ [s.nextId] ∧
          Sparse.get? t.warp.marks s.nextId = some { regs := (usesIn op f s).writeR, sregs := (usesIn op f s).writeS }) ∧
        ((∀ x ∈ xs, x.2.2 = none) → answers i s fun t => sameMemory s t ∧ warpKept s.warp t.warp ∧ wentOn n s t ∧
          t.warp.loads = s.warp.loads ∧ ∃ W, t.warp.pend = s.warp.pend ++ (if W = [] then [] else [⟨s.cycle, false, W⟩]) ∧
            ∀ w ∈ W, (∃ r l, w = .reg r l 0) ∨ ∃ r, w = .sreg r 0)
    (∀ f, issued (.ld f) .load 0x100 (wordsX f) f (f.count * ((f.tyOf 0x100).width / 8)) (f.count * ((f.tyOf 0x100).width / 8)) (f.count == 1)) ∧
    (∀ f, issued (.ldx f) .ldx 0x102 (wordsX f) f (f.count * 4) 1 false) ∧
    (∀ k : Short, issued (.ldShort k) .load 0x100 1 (k.ext 0x18).2 4 4 true)

/-- R193, R199, R207, R238: the answer to the last leg of a load, served by the L1, writes the bytes read into each thread's registers,
and the marks go. -/
def Obligations.LoadedValuesLand : Prop :=
  ∀ (s : State) (id k : Nat) (o : MemOp), s.op? id = some o → o.kind = .load → here s o = true → o.left = 1 → (o.part k).l1 = true →
    (o.part k).seen = true → (∀ x ∈ o.lanes, x.ok = true ∧ x.fwd = []) → o.undo = none →
    (∀ q ∈ s.ops, ∀ j, (q.2.part j).merged ≠ some (id, k)) → (s.warpAt o.core o.slot).loads = [id] →
    answers (.loadResponse id k) s fun t => sameMemory s t ∧
      (t.warpAt o.core o.slot).regs = ((s.warpAt o.core o.slot).applyAll (o.lanes.map (loadWrites o)).flatten).regs ∧
      (t.warpAt o.core o.slot).loads = [] ∧ (t.warpAt o.core o.slot).marks = Sparse.erase (s.warpAt o.core o.slot).marks id

/-- R187, R206, R207: a store puts the bytes of its source registers on the way to the translated address, one store for each executing
live thread; memory changes only when it is performed. -/
def Obligations.StoresIssue : Prop :=
  ∀ s : State,
    let issued (i : Instr) (n : Nat) (f : Fields) (size : Nat) : Prop :=
      ∀ xs, ready 0x101 f s = true →
        operandCheck s s.warp .write size (f.count == 1)
          (((execLanes (used f s) s.warp).filter s.warp.live).map fun l => (l, vaOf (used f s) s.warp l)) = .ok xs → xs ≠ [] →
        (releases f.order = true → releaseAt s f.scope = .go) → bufferFull s = false →
        (∀ x ∈ xs, (classOf s s.selfCore (x.2.2.getD 0)).cls ≠ 3 ∧ x.2.2.getD 0 % 512 + size ≤ 512) →
        answers i s fun t => sameMemory s t ∧ t.warp.regs = s.warp.regs ∧ wentOn n s t ∧
          ∀ x ∈ xs, ∃ id o y, t.op? id = some o ∧ o.kind = .store ∧ o.lanes = [y] ∧ y.lane = x.1 ∧ y.va = x.2.1 ∧ y.ia = x.2.2.getD 0 ∧
            y.size = size ∧ y.args = storeBytes 0x101 (used f s) s.warp x.1
    (∀ f, issued (.st f) (wordsX f) f (f.count * ((f.tyOf 0x101).width / 8))) ∧
    (∀ k : Short, issued (.stShort k) 1 (k.ext 0x19).2 4)

/-- R199, R201, R218: a write at the home of a line that a slice holds sets exactly its bytes: every other byte of the lines held reads
as before. -/
def Obligations.HomeWritesAreExact : Prop :=
  ∀ (s : State) (ia : Nat) (bs : List Byte), MemoryOk s → (sline? s ia).isSome = true → iaLocal ia % 512 + bs.length ≤ 512 →
    ∀ a, (sline? s a).isSome = true → homeByte (homeWrite s ia bs) a =
      if iaLocal ia ≤ iaLocal a ∧ iaLocal a < iaLocal ia + bs.length then bs.getD (iaLocal a - iaLocal ia) 0 else homeByte s a

/-- R193, R199, R231: a store that reaches its home in this package for the first time, where nothing blocks it and its checks pass, is performed: its bytes
stand at its address, and its acknowledgement is on the way. -/
def Obligations.StoresArePerformed : Prop :=
  ∀ (s u : State) (id extra : Nat) (o : MemOp) (x : Lane) (e : Pte), s.input.flag = false → s.op? id = some o → o.kind = .store → o.lanes = [x] →
    place s x.ia = .here → x.size = x.args.length → 0 < x.size → iaLocal x.ia % 512 + x.size ≤ 512 → blocked s (x.ia, x.size) id 0 = false →
    openLine s (x.ia, x.size) id o.who true true = .ok (e, extra, u) → MemoryOk u →
    answers (.storePerformed id) s fun t =>
      (∀ i < x.size, homeByte t (x.ia + i) = BitVec.ofNat 8 (x.args.getD i 0)) ∧ ∃ d ∈ t.agenda, d.ev = .storeAcknowledgement id

/-- R194, R199, R231, R233: a store whose check fails is discarded and its cause travels back; one that a lease, a lock or an earlier
write blocks waits in order at its slice; an acknowledgement takes one from the counter of its target, and a failed store leaves its
context a deferred fault, unless it already has one, in its warp or in the area that it was saved to. -/
def Obligations.StoresWaitFailAndCount : Prop :=
  (∀ (s : State) (id : Nat) (o : MemOp) (x : Lane), s.input.flag = false → s.op? id = some o → o.kind = .store → o.lanes = [x] → place s x.ia = .here →
     (blocked s (x.ia, x.size) id 0 = true → answers (.storePerformed id) s fun t => sameMemory s t ∧
       (id, 0) ∈ (t.slice (iaSlice x.ia)).pend) ∧
     (∀ c, blocked s (x.ia, x.size) id 0 = false → openLine s (x.ia, x.size) id o.who true true = .error (some c) →
       answers (.storePerformed id) s fun t => ∃ p y, t.op? id = some p ∧ p.failed = true ∧ p.lanes = [y] ∧ y.cause = c)) ∧
  ∀ (s : State) (id : Nat) (o : MemOp) (x : Lane), Sparse.sorted s.ops = true → s.op? id = some o → o.kind = .store → o.lanes = [x] → o.counted = true →
    here s o = true → (s.warpAt o.core o.slot).storeBuf = [] →
    answers (.storeAcknowledgement id) s fun t => sameMemory s t ∧ t.op? id = none ∧
      let w := s.warpAt o.core o.slot
      let v := t.warpAt o.core o.slot
      v.unack = w.unack.set (targetOf s o.core x.ia) (w.unack.at (targetOf s o.core x.ia) - 1) ∧
      v.deferred = if o.failed ∧ (areaDeferred s w).isNone = true then w.deferred.or (some { cause := x.cause, addr := x.va, pc := o.pc }) else w.deferred

/-- R210, R211, R214: `STX` waits for the tags of its pages. `PREF` sends one request for each line of the addresses that translate into
memory, but for those that it would fill the L1 with and that the L1 has. `PROBE` writes the address, the status and the L1 word of each
executing thread into four registers, 8 cycles after it issues; with `.WALK`, for an address that has a home, when the home has answered. -/
def Obligations.OtherAccessesIssue : Prop :=
  ∀ (s : State) (f : Fields),
    (∀ xs, ready 0x103 f s = true →
      operandCheck s s.warp .write 1 false
        (((execLanes (used f s) s.warp).filter s.warp.live).map fun l => (l, vaOf (used f s) s.warp l)) = .ok xs → xs ≠ [] →
      (releases f.order = true → releaseAt s f.scope = .go) → bufferFull s = false →
      answers (.stx f) s fun t => sameMemory s t ∧ warpKept s.warp t.warp ∧ wentOn (wordsX f) s t ∧ t.warp.holds = some s.nextId ∧
        ∃ o, t.op? s.nextId = some o ∧ o.kind = .stx ∧
          o.lanes.map (fun y => (y.lane, y.ia, y.args)) = xs.map fun x => (x.1, x.2.2.getD 0, stxValues (used f s) s.warp x.1)) ∧
    (let asked : List Lane := (execLanes (used f s) s.warp).filterMap fun l =>
       match translateFor s s.warp .read (vaOf (used f s) s.warp l) with
       | .ok ia => if place s ia = .io then none else some { lane := l, va := vaOf (used f s) s.warp l, ia, size := 1 }
       | .error _ => none
     let legs := legsOf (asked.filter fun x => !(f.cls == 0 && l1Hit s s.selfCore ⟨!s.warp.priv, s.warp.tenant.toNat⟩ x.ia 1)) []
     ready 0x104 f s = true → answers (.pref f) s fun t => sameMemory s t ∧ warpKept s.warp t.warp ∧ wentOn (wordsX f) s t ∧
       (legs = [] → t.ops = s.ops) ∧
       (legs ≠ [] → (∃ o, t.op? s.nextId = some o ∧ o.kind = .pref ∧ o.lanes = asked ∧
           o.parts.map (fun p => (p.ia, p.lanes)) = legs.map fun p => (p.ia, p.lanes)) ∧
         ∀ k < legs.length, ∃ d ∈ t.agenda, d.ev = .loadAtHomeSlice s.nextId k)) ∧
    (let g := used f s
     let at_ (l : Nat) : Nat × Option Nat := probeRange s.warp (vaOf g s.warp l)
     let walks (l : Nat) : Bool := match (at_ l).2 with
       | some ia => f.sub == 1 && place s ia != .io && (place s ia != .here || decide (iaDie ia < Config.dieCount s.part))
       | none => false
     let later := (execLanes g s.warp).filter walks
     let W : List Write := (((execLanes g s.warp).filter fun l => !walks l).map fun l =>
       put64 g l f.d.toNat (BitVec.ofNat 64 ((at_ l).2.getD 0)) ++ put32 g l (f.d.toNat + 2) (BitVec.ofNat 32 (at_ l).1) ++
         put32 g l (f.d.toNat + 3) (BitVec.ofNat 32 (probeL1 s s.selfCore (at_ l).2))).flatten
     ready 0x109 f s = true → answers (.probe f) s fun t => sameMemory s t ∧ warpKept s.warp t.warp ∧ wentOn (wordsX f) s t ∧
       t.warp.pend = s.warp.pend ++ (if W = [] then [] else [⟨s.cycle + 8, false, W⟩]) ∧ (later = [] → t.ops = s.ops) ∧
       (later ≠ [] → (∃ o, t.op? s.nextId = some o ∧ o.kind = .probe ∧ o.lanes.map (fun y => (y.lane, y.va, y.ia, y.args)) =
           later.map fun l => (l, vaOf g s.warp l, (at_ l).2.getD 0, [(at_ l).1, probeL1 s s.selfCore (at_ l).2])) ∧
         Sparse.get? t.warp.marks s.nextId = some { regs := (usesIn 0x109 f s).writeR } ∧
         ∃ d ∈ t.agenda, d.ev = .loadAtHomeSlice s.nextId 0)) ∧
    ∀ (id k : Nat) (o : MemOp), s.op? id = some o → o.kind = .probe → here s o = true → o.left = 1 →
      answers (.loadResponse id k) s fun t => sameMemory s t ∧ (t.warpAt o.core o.slot).regs = ((s.warpAt o.core o.slot).applyAll
          (o.lanes.map fun x => put64 o.f x.lane o.f.d.toNat (BitVec.ofNat 64 x.ia) ++
            put32 o.f x.lane (o.f.d.toNat + 2) (BitVec.ofNat 32 (x.args.headD 0 + x.got)) ++
            put32 o.f x.lane (o.f.d.toNat + 3) (BitVec.ofNat 32 (x.args.getD 1 0))).flatten).regs ∧
        (t.warpAt o.core o.slot).marks = Sparse.erase (s.warpAt o.core o.slot).marks id

/-- R212: a cache instruction whose addresses pass their checks goes on when the store buffer has room; `CINV` and `CFLUSH` leave none of the
lines that it names there (an expired copy is absent, R199), and `CWB` keeps them. -/
def Obligations.CacheMaintenance : Prop :=
  ∀ (s : State) (f : Fields) (ia l : Nat),
    let lanes := (execLanes (used f s) s.warp).filter s.warp.live
    let named (op : Nat) : Prop := ready op f s = true ∧ f.cls ≠ 1 ∧ lanes = [l] ∧
      operandCheck s s.warp .read 1 false [(l, vaOf (used f s) s.warp l)] = .ok [(l, vaOf (used f s) s.warp l, some ia)] ∧ bufferFull s = false ∧
      s.warp.priv = true ∧ ∀ y, l1? s s.selfCore ia = some y → y.errs = 0
    (named 0x105 → answers (.cflush f) s fun t => sameMemory s t ∧ t.warp.regs = s.warp.regs ∧ wentOn (wordsX f) s t ∧
      (Sparse.sorted (s.core s.selfCore).l1 = true → (l1? t s.selfCore ia).filter (·.there s.now) = none)) ∧
    (named 0x106 → answers (.cinv f) s fun t => sameMemory s t ∧ warpKept s.warp t.warp ∧ wentOn (wordsX f) s t ∧
      (Sparse.sorted (s.core s.selfCore).l1 = true → (l1? t s.selfCore ia).filter (·.there s.now) = none)) ∧
    (named 0x107 → answers (.cwb f) s fun t => sameMemory s t ∧ t.warp.regs = s.warp.regs ∧ wentOn (wordsX f) s t ∧
      ((l1? s s.selfCore ia).isSome = true → ∃ y, l1? t s.selfCore ia = some y ∧ (y.cls = 3 → y.dirty = [])))

/-- R213, R225, R374: a `FENCE` goes on when the stores that its scope covers have been performed and, as an acquire, when its warp's
loads and the reads of its atomics have; it changes nothing but the time of its acquire. A release that is not done holds its front. -/
def Obligations.FencesWait : Prop :=
  ∀ (s : State) (f : Fields), ready 0x108 f s = true → execLanes (used f s) s.warp ≠ [] →
    ((releases f.order = true → releaseAt s f.scope = .go) → (acquires f.order = true → s.warp.loads = [] ∧ atomicOut s = false) →
      answers (.fence f) s fun t => onlyHere s t ∧ warpKept s.warp t.warp ∧ wentOn (wordsX f) s t ∧
        t.warp.lastAcq = if acquires f.order then s.now else s.warp.lastAcq) ∧
    (releases f.order = true → releaseAt s f.scope = .wait → answers (.fence f) s fun t => sameMemory s t ∧ t.warp.held = true ∧
      warpKept s.warp t.warp ∧ wentOn 0 s t)

/-- R206, R329: a misaligned address of an executing live thread faults a load or a store with cause 0x07 before its translation, when
every lower lane's address passes its checks, with the address of the lane. -/
def Obligations.MisalignedAccessesFault : Prop :=
  ∀ (s : State) (f : Fields) (l : Nat) (lower higher : List Nat) (xs : List (Nat × Nat × Option Nat)),
    let named (ls : List Nat) : List (Nat × Nat) := ls.map fun l => (l, vaOf (used f s) s.warp l)
    (ready 0x100 f s = true → execLanes (used f s) s.warp = lower ++ l :: higher → s.warp.live l = true →
      operandCheck s s.warp .read (f.count * ((f.tyOf 0x100).width / 8)) (f.count == 1) (named lower) = .ok xs →
      vaOf (used f s) s.warp l % (f.count * ((f.tyOf 0x100).width / 8)) ≠ 0 →
      exec (.ld f) s = .next (faults 0x100 f s 0x07 (BitVec.ofNat 72 (vaOf (used f s) s.warp l)) (memInfo l false false false false))) ∧
    (ready 0x101 f s = true → (execLanes (used f s) s.warp).filter s.warp.live = lower ++ l :: higher →
      operandCheck s s.warp .write (f.count * ((f.tyOf 0x101).width / 8)) (f.count == 1) (named lower) = .ok xs →
      vaOf (used f s) s.warp l % (f.count * ((f.tyOf 0x101).width / 8)) ≠ 0 →
      exec (.st f) s = .next (faults 0x101 f s 0x07 (BitVec.ofNat 72 (vaOf (used f s) s.warp l)) (memInfo l true false false false)))

/-! ### Atomics, condition waits and weighbridges -/

/-- R237, R238, R239, R316: an atomic, a compare-and-swap or a weighbridge operation whose addresses pass the checks of issue is on its way
with its operands; it holds its front, changes no memory, and the counters of R231 count its accesses. -/
def Obligations.AtomicsIssue : Prop :=
  ∀ s : State,
    let issued (i : Fields → Instr) (kind : OpKind) (op align : Nat) (acc : Access) (f : Fields) (args : Nat → List Nat) : Prop :=
      ∀ xs, ready op f s = true → operandCheck s s.warp acc align false (addresses f s) = .ok xs → xs ≠ [] →
        (releases f.order = true → releaseAt s f.scope = .go) → (f.order = .sc → scOut s = false) →
        (∀ x ∈ xs, ownStoreOut s (mkLane align x) = false) → (∀ t, counterRoom s.warp t xs.length = true) →
        answers (i f) s fun t => sameMemory s t ∧ t.warp.regs = s.warp.regs ∧ t.warp.trap = s.warp.trap ∧ wentOn (wordsX f) s t ∧
          t.warp.holds = some s.nextId ∧ ∃ o, t.op? s.nextId = some o ∧ o.kind = kind ∧ o.op = op ∧
            onItsWay o xs.length = xs.map fun x => (x.1, x.2.1, x.2.2.getD 0, args x.1)
    ∀ f : Fields,
      let g := used f s
      let n := (f.tyOf 0x141).width / 32
      let count (l : Nat) : List Nat := [(src32 g s.warp l f.c).toNat]
      issued .atom .atom 0x140 ((f.tyOf 0x140).width / 8) .both f (fun l => [srcBits (f.tyOf 0x140) g s.warp l f.c]) ∧
      issued .acas .acas 0x141 (4 * n) .both f
        (fun l => [regsNat g s.warp l (srcNum f.c) n, regsNat g s.warp l (srcNum f.c + n) n]) ∧
      issued .acas2 .acas2 0x145 16 .both f (fun l => [regsNat g s.warp l (srcNum f.c) 4, regsNat g s.warp l (srcNum f.c + 4) 4]) ∧
      issued .wbinit .wb 0x163 16 .both f count ∧ issued .wbexpect .wb 0x164 16 .both f count ∧
      issued .wbarrive .wb 0x165 16 .both f count ∧ issued .wbtest .wb 0x167 16 .read f count

/-- R69, R239, R241, R242, R248, R318: a `RED` leaves as stores do; an `MCAS` begins with its first thread's block; `WAITC` parks its executing
live threads at the instruction, the other threads of its front going on to the next one; `WBWAIT` holds its front at the instruction. That
a thread parks at the instruction and not after it is log entry 35 (DEDUCED). -/
def Obligations.WaitsAndReductionsIssue : Prop :=
  ∀ (s : State) (f : Fields) (xs : List (Nat × Nat × Option Nat)), xs ≠ [] →
    let g := used f s
    let clear (align : Nat) : Prop := (∀ x ∈ xs, ownStoreOut s (mkLane align x) = false) ∧ (f.order = .sc → scOut s = false)
    (ready 0x142 f s = true → (releases f.order = true → releaseAt s f.scope = .go) → operandCheck s s.warp .both ((f.tyOf 0x142).width / 8) false (addresses f s) = .ok xs → bufferFull s = false →
      answers (.red f) s fun t => sameMemory s t ∧ t.warp.regs = s.warp.regs ∧ wentOn (wordsX f) s t ∧
        ∀ x ∈ xs, ∃ id o y, t.op? id = some o ∧ o.kind = .red ∧ o.lanes = [y] ∧ y.lane = x.1 ∧ y.ia = x.2.2.getD 0 ∧
          y.args = [srcBits (f.tyOf 0x142) g s.warp x.1 f.c]) ∧
    (ready 0x143 f s = true → operandCheck s s.warp .both 32 false (addresses f s) = .ok xs → clear 32 →
      (∀ x ∈ xs, redAhead s (mkLane 32 x) = false) → answers (.mcas f) s fun t => sameMemory s t ∧ t.warp.regs = s.warp.regs ∧ wentOn (wordsX f) s t ∧ t.warp.holds = some s.nextId ∧
        ∃ o, t.op? s.nextId = some o ∧ o.kind = .mcas ∧ o.stage = 0) ∧
    (ready 0x144 f s = true → operandCheck s s.warp .read ((f.tyOf 0x144).width / 8) false (addresses f s) = .ok xs →
      clear ((f.tyOf 0x144).width / 8) →
      answers (.waitc f) s fun t => sameMemory s t ∧
        (∀ x ∈ xs, hasLane (t.warp.parkedFor .waitc) x.1 = true ∧ (t.warp.thread x.1).pc = (s.warp.thread x.1).pc) ∧
        (∀ l, hasLane s.warp.frontMask l = true → l ∉ xs.map (·.1) → (t.warp.thread l).pc = s.warp.pc + BitVec.ofNat 72 (4 * wordsX f)) ∧ ∃ o, t.op? s.nextId = some o ∧ o.kind = .waitc ∧
        onItsWay o xs.length = xs.map fun x => (x.1, x.2.1, x.2.2.getD 0, waitArgs g s.warp x.1)) ∧
    (ready 0x166 f s = true → clear 16 →
      operandCheck s s.warp .read 16 false ((s.warp.active.filter s.warp.live).map fun l => (l, vaOf g s.warp l)) = .ok xs →
      answers (.wbwait f) s fun t => sameMemory s t ∧ wentOn 0 s t ∧ t.warp.holds = some s.nextId ∧
        ∃ o, t.op? s.nextId = some o ∧ o.kind = .wbwait ∧
          onItsWay o xs.length = xs.map fun x => (x.1, x.2.1, x.2.2.getD 0, [(src32 g s.warp x.1 f.c).toNat % 2]))

/-- R193, R237, R239: an atomic that reaches its home for the first time, where nothing blocks it, its checks pass and its data are not in error, replaces the
word by the operation's result and takes the word that was there; its answer is on the way. -/
def Obligations.AtomicsArePerformed : Prop :=
  ∀ (s u v : State) (id k extra extra2 : Nat) (o : MemOp) (x : Lane) (e e2 : Pte),
    let p := o.part k
    s.input.flag = false → s.op? id = some o → o.kind = .atom → o.visit = 1 → o.lanes = [x] → x.ok = true → p.lanes = [x.lane] → p.ia = x.ia / 512 * 512 →
    place s p.ia = .here → 0 < x.size → iaLocal x.ia % 512 + x.size ≤ 512 → resultRoom s o p.ia id = true →
    lockedFor s x.ia id = false → blocked s (x.ia, x.size) id k = false → openLine s (x.ia, x.size) id o.who true false = .ok (e, extra, u) →
    homeErrs u x.ia = 0 → markWaits u x.ia id true = false →
    openLine (markPage (unpend u p.ia id k) x.ia true) (x.ia, x.size) id ⟨false, 0⟩ false false = .ok (e2, extra2, v) → MemoryOk v →
    answers (.atomicAtHome id k) s fun t =>
      homeNat t x.ia x.size =
        combineAtom (o.f.subBits 0 4) (o.f.tyOf o.op) (homeNat v x.ia x.size) (x.args.headD 0) % 2 ^ (8 * x.size) ∧
      (∃ q y, t.op? id = some q ∧ q.lanes = [y] ∧ y.got = homeNat v x.ia x.size) ∧ ∃ d ∈ t.agenda, d.ev = .loadResponse id k

/-- R244, R247, R248, R249: a lock request waits behind the holder of its line, and takes and answers a free line whose page it may write; a
waiting entry wakes on a word that meets its condition and on no other; a refused request polls; an unanswered request leaves for its home
again, marked as a copy, after 16,384 cycles, or 250,000 ticks to another package; a copy performs nothing, and is answered from the result
that the slice keeps; a confirmed result leaves its store. That each request of an instruction has its timer, and that the ticks are looked at
every 1,000 cycles, is log entry 35 (DEDUCED). -/
def Obligations.LocksWaitsAndRetries : Prop :=
  ∀ (s : State) (id : Nat) (o : MemOp), s.op? id = some o →
    (∀ k ia l, s.input.flag = false → s.input.a = k → (o.part k).ia = ia → place s ia = .here → sline? s ia = some l →
      (∀ j, l.lock = some j → j ≠ id → answers (.mcasLockGrant id) s fun t => sameMemory s t ∧
        (id, k) ∈ (t.slice (iaSlice ia)).pend ∧ ∃ m, sline? t ia = some m ∧ m.lock = some j ∧ id ∈ m.lockQ) ∧
      (o.kind = .mcas → l.lock = none → l.lockQ = [] → l.held = 0 → resultRoom s o ia id = true → pteCheck l.pte o.who true = none →
        (∀ x ∈ o.lanes, x.lane ∈ (o.part k).lanes → l1Key s x.ia = l1Key s ia ∧ writeAhead s (homeClass s x.ia) (x.ia, 8) id k = false ∧
          blocked s (x.ia, 8) id k = false) →
        answers (.mcasLockGrant id) s fun t => (∃ m, sline? t ia = some m ∧ m.lock = some id) ∧ ∃ d ∈ t.agenda, d.ev = .loadResponse id k)) ∧
    (∀ n i e, Sparse.get? (s.slice n).waits i = some e → e.op = id → e.width ≠ 8 →
      let t : Ty := if e.width = 64 then (if e.signed then .s64 else .z64) else if e.signed then .s32 else .z32
      (waitCond t e.cmp s.input.a e.value e.mask = false → exec (.waitcWake n i) s = .next s) ∧
      (∀ k, waitCond t e.cmp s.input.a e.value e.mask = true → Sparse.sorted (s.slice n).waits = true →
        (List.range o.parts.length).find? (fun k => (o.part k).lanes == lanesOf e.lanes) = some k →
        answers (.waitcWake n i) s fun t => sameMemory s t ∧ Sparse.get? (t.slice n).waits i = none ∧
          ∃ d ∈ t.agenda, d.ev = .loadResponse id k)) ∧
    (here s o = true → answers (.waitcPoll id) s fun t => sameMemory s t ∧ ∃ d ∈ t.agenda, d.ev = .atomicAtHome id s.input.a) ∧
    (∀ k q, here s o = true → s.input.a = k → o.asked k = some q → s.input.b = q.sent → q.tries < 8 →
      let out := match place s q.ia with | .other _ => true | _ => false
      (out = false → q.sent + 16384 * (q.tries + 1) ≤ s.cycle) → (out = true → q.tick + 250000 * (q.tries + 1) ≤ s.now) →
      answers (.retransmissionTimeout id) s fun t => sameMemory s t ∧ t.op? id = some (o.tried k) ∧
        (∃ d ∈ t.agenda, d.data = { a := k, b := q.sent, flag := true } ∧ d.ev =
          if o.kind = .red then .storePerformed id else if o.kind = .mcas ∧ o.stage = 2 then .mcasLockGrant id else .atomicAtHome id k) ∧
        ∃ d ∈ t.agenda, d.ev = .retransmissionTimeout id ∧ d.at_ = s.cycle + if out then 1000 else 16384) ∧
    (∀ k, s.input.flag = true → answers (.atomicAtHome id k) s fun t => sameMemory s t ∧ t.ops = s.ops ∧
      ∀ q, o.asked k = some q → s.input.b = q.sent → place s q.ia = .here →
        (s.slice (iaSlice q.ia)).results.contains (id, if o.kind = .mcas ∧ o.stage = 3 then 16 + k else k) = true →
        ∃ d ∈ t.agenda, d.ev = if o.kind = .red then .storeAcknowledgement id else .loadResponse id k) ∧
    ∀ n, answers (.resultStoreEntryFree n) s fun t => sameMemory s t ∧ t.ops = s.ops ∧
      (t.slice n).results = (s.slice n).results.filter (· != (s.input.a, s.input.b))

/-- R315, R317: what a weighbridge holds after each operation on it, as the flip test leaves it. -/
def Obligations.WeighbridgesCount : Prop :=
  ∀ (x c : Nat),
    let b := Bridge.ofNat x
    let after (y : Option Nat) : Bridge := Bridge.ofNat (y.getD x)
    (0 < c → c ≤ 65535 → (bridgeOp 0x163 c x).1.map Bridge.ofNat = some ⟨0, 0, c, c, false, false⟩) ∧
    (b.arrived + c < 2 ^ 32 → b.arms = 0 → b.arrived + c = b.expected → b.overrun = false →
      after (bridgeOp 0x165 c x).1 = ⟨0, 0, b.armInit, b.armInit, !b.phase, false⟩ ∧ (bridgeOp 0x165 c x).2 = b.phase.toNat + 2) ∧
    (b.arrived + c < 2 ^ 32 → b.arms ≠ 0 →
      after (bridgeOp 0x165 c x).1 = { b with arrived := b.arrived + c } ∧ (bridgeOp 0x165 c x).2 = b.phase.toNat) ∧
    (b.arrived + c < 2 ^ 32 → b.arms = 0 → b.expected < b.arrived + c →
      after (bridgeOp 0x165 c x).1 = { b with arrived := b.arrived + c, overrun := true }) ∧
    (b.expected + c < 2 ^ 32 → 1 < b.arms →
      after (bridgeOp 0x164 c x).1 = { b with expected := b.expected + c, arms := b.arms - 1 }) ∧
    (b.expected + c < 2 ^ 32 → b.arms = 1 → b.arrived = b.expected + c → b.overrun = false →
      after (bridgeOp 0x164 c x).1 = ⟨0, 0, b.armInit, b.armInit, !b.phase, false⟩) ∧
    (b.arms = 0 → (after (bridgeOp 0x164 c x).1).overrun = true) ∧
    (bridgeOp 0x167 c x).1 = none

/-! ### The matrix unit and copies -/

/-- R253, R265, R266, R267, R268: what the slot instructions do with a slot that the warp owns, that is not held and whose data are not in
error; the fault of a slot that it does not own. `MRD` and `MST` read no slot in residue mode on a part without residue arithmetic (R3). -/
def Obligations.AccumulatorSlots : Prop :=
  ∀ (s : State) (f : Fields) (p : Nat),
    let n := accName f
    let c := s.selfCore
    let bad (i : Fields → Instr) (op : Nat) : Prop := ready op f s = true → ownedSlot s n = none →
      exec (i f) s = .next (faults op f s 0x16 0 (BitVec.ofNat 64 n))
    let sets (i : Fields → Instr) (op : Nat) (a : Acc) : Prop := ready op f s = true → ownedSlot s n = some p → slotHeld s p = false → (s.acc c p).stopped = none →
      answers (i f) s fun t => sameMemory s t ∧ warpKept s.warp t.warp ∧ t.warp.pend = s.warp.pend ∧ wentOn (wordsX f) s t ∧ t.acc c p = a ∧
        ∀ q, q ≠ p → t.acc c q = s.acc c q
    bad .mrel 0x181 ∧ bad .mzero 0x182 ∧ bad .mloop 0x183 ∧ bad .mstep 0x184 ∧ bad .mrd 0x185 ∧ bad .mst 0x186 ∧ bad .mldacc 0x187 ∧
    sets .mrel 0x181 { s.acc c p with owner := none } ∧
    sets .mzero 0x182 { s.acc c p with cells := [], errs := [], residue := f.ty == .rn30 } ∧
    (∀ g, ready 0x180 f s = true → s.onSl = false → s.group? s.warp.ctx = some g →
      (g.sett.accs ≤ n → exec (.macq f) s = .next (faults 0x180 f s 0x16 0 (BitVec.ofNat 64 n))) ∧
      (ownedSlot s n = some p → slotHeld s p = false → (s.acc c p).stopped = none →
        exec (.macq f) s = .next (ended (wordsX f) s (begun 0x180 f s))) ∧
      (n < g.sett.accs → Sparse.get? g.slots n = some p → (s.acc c p).owner = none → g.slotsSaved.contains n = false → waiters s g n = [] → g.core = c →
        Sparse.get? (s.core c).warps s.selfSlot = some s.warp →
        answers (.macq f) s fun t => sameMemory s t ∧ warpKept s.warp t.warp ∧ wentOn (wordsX f) s t ∧
          t.acc c p = { s.acc c p with owner := some s.selfSlot })) ∧
    (ready 0x185 f s = true → ownedSlot s n = some p → slotHeld s p = false → (s.acc c p).stopped = none → (s.acc c p).errs = [] →
      residueAbsent s p = false → missingReg s.warp ((List.range (2 * Forms.mrdBits f.ty)).map (f.d.toNat + ·)) = none →
      answers (.mrd f) s fun t => sameMemory s t ∧ warpKept s.warp t.warp ∧ wentOn (wordsX f) s t ∧ (t.core c).accs = (s.core c).accs ∧
        let given (i : Nat) : List Nat × Nat :=
          deliverRow (s.acc c p).residue f.ty f (src32 (used f s) s.warp i f.b).toNat i (accRow (s.acc c p) i)
        let row (i : Nat) : List Byte := packElems (Forms.mrdBits f.ty) (given i).1
        (t.core c).reserved = (s.core c).reserved + BitVec.ofNat 64 ((s.warp.active.map fun i => (given i).2).foldl (· + ·) 0) ∧
        let ws : List Write := (s.warp.active.map fun i => (List.range (2 * Forms.mrdBits f.ty)).map fun j =>
          Write.reg (f.d.toNat + j) i (BitVec.ofNat 32 (leBytes (((row i).drop (4 * j)).take 4)))).flatten
        t.warp.pend = s.warp.pend ++ (if ws = [] then [] else [⟨s.cycle + 24, false, ws⟩])) ∧
    (∀ xs, ready 0x186 f s = true → ownedSlot s n = some p → slotHeld s p = false → (s.acc c p).stopped = none → (s.acc c p).errs = [] →
      residueAbsent s p = false → bufferFull s = false → xs ≠ [] →
      operandCheck s s.warp .write 1 false (addresses f s) = .ok xs →
      answers (.mst f) s fun t => sameMemory s t ∧ t.warp.regs = s.warp.regs ∧ wentOn (wordsX f) s t ∧ t.warp.holds = some s.nextId ∧
        t.acc c p = { s.acc c p with busy := s.cycle + 16 } ∧ ∃ o, t.op? s.nextId = some o ∧ o.kind = .mst ∧
        onItsWay o xs.length =
          xs.map fun x => (x.1, x.2.1, x.2.2.getD 0, (src32 (used f s) s.warp x.1 f.c).toNat :: accRow (s.acc c p) x.1)) ∧
    (ready 0x187 f s = true → ownedSlot s n = some p → slotHeld s p = false → (s.acc c p).stopped = none →
      errRegs s.warp lanes32 ((List.range 64).map (srcNum f.a + ·)) = none →
      missingReg s.warp ((List.range 64).map (srcNum f.a + ·)) = none →
      answers (.mldacc f) s fun t => sameMemory s t ∧ t.warp.regs = s.warp.regs ∧ wentOn (wordsX f) s t ∧
        (t.acc c p).residue = (f.ty == .rn30) ∧ (t.acc c p).errs = [] ∧ (t.acc c p).busy = s.cycle + 24 ∧
        ∀ i < 32, ∀ j < 64, Sparse.get 0 (t.acc c p).cells (64 * i + j) = s.warp.reg (srcNum f.a + j) i)

/-- R255, R257, R261, R262, R263: each instruction on a slot completes, for every slot that the warp owns and that is free; a loop whose operands pass the checks joins the queue and keeps its registers and its slot busy; a step
whose data are not in error changes the cells of its slot; at its end the registers and the slot are free; an idle bench is gated. A
step is performed, and reads its operands, in the cycle in which it starts (log entry 22, DEDUCED); what keeps a bench from being idle is log
entry 23 (DEDUCED). -/
def Obligations.MatrixLoops : Prop :=
  ∀ (s : State) (f : Fields) (p c : Nat),
    let issued (i : Fields → Instr) (op : Nat) : Prop :=
      let x := loopArgs op (used f s) s.warp
      let fs := (List.range x.steps).map (x.fmtsAt s s.selfCore s.warp (s.acc s.selfCore p).residue)
      ready op f s = true → ownedSlot s (accName f) = some p → scoreboard s.warp (loopUses (x.regs s.warp)) = false → slotHeld s p = false →
      (∀ k < x.steps, missingReg s.warp (x.regsOf s.warp k) = none) → earlyUse s.warp s.cycle (loopUses (x.regs s.warp)) .locked = false →
      residueAbsent s p = false → (s.acc s.selfCore p).stopped = none →
      (∀ j, x.limit s s.warp = some j → exec (i f) s = .next (faults op f s 0x17 0 (BitVec.ofNat 64 j))) ∧
      (x.limit s s.warp = none → fs.any Option.isNone = true → exec (i f) s = .next (faults op f s 0x0D 0 0)) ∧
      (x.limit s s.warp = none → fs.any Option.isNone = false → errRegs s.warp lanes32 (x.regs s.warp) = none →
        (s.core s.selfCore).loopq.length < 8 →
        answers (i f) s fun t => sameMemory s t ∧ warpKept s.warp t.warp ∧ wentOn (wordsX f) s t ∧
          Sparse.get? t.warp.marks s.nextId = some { busy := x.regs s.warp, slots := [p] } ∧
          ∃ l, (t.core s.selfCore).loopq = (s.core s.selfCore).loopq ++ [l] ∧ l.id = s.nextId ∧ l.acc = p ∧ l.va = x.va ∧ l.off = x.off ∧
            l.steps = x.steps ∧ l.incA = x.incA ∧ l.incB = x.incB ∧ l.nb = x.nb ∧ l.fmts = fs.filterMap id)
    let n := accName f
    let own : Prop := ownedSlot s n = some p ∧ slotHeld s p = false ∧ (s.acc s.selfCore p).stopped = none ∧ (s.acc s.selfCore p).errs = [] ∧
      residueAbsent s p = false
    (∀ g, ready 0x180 f s = true → s.group? s.warp.ctx = some g → g.core = s.selfCore → n < g.sett.accs → Sparse.get? g.slots n = some p →
      (s.acc s.selfCore p).owner = none → g.slotsSaved.contains n = false → waiters s g n = [] →
      Sparse.get? (s.core s.selfCore).warps s.selfSlot = some s.warp →
      ∃ t, exec (.macq f) s = .next t ∧ wentOn (wordsX f) s t ∧ (t.acc s.selfCore p).owner = some s.selfSlot) ∧
    (ready 0x181 f s = true → own → ∃ t, exec (.mrel f) s = .next t ∧ wentOn (wordsX f) s t ∧ (t.acc s.selfCore p).owner = none) ∧
    (ready 0x182 f s = true → own → ∃ t, exec (.mzero f) s = .next t ∧ wentOn (wordsX f) s t ∧
      ∀ i, Sparse.get 0 (t.acc s.selfCore p).cells i = 0) ∧
    (ready 0x185 f s = true → own → missingReg s.warp ((List.range (2 * Forms.mrdBits f.ty)).map (f.d.toNat + ·)) = none →
      s.warp.active ≠ [] → ∃ t, exec (.mrd f) s = .next t ∧ wentOn (wordsX f) s t ∧
        ∃ ws, t.warp.pend = s.warp.pend ++ [⟨s.cycle + 24, false, ws⟩]) ∧
    (∀ xs, ready 0x186 f s = true → own → bufferFull s = false → xs ≠ [] → operandCheck s s.warp .write 1 false (addresses f s) = .ok xs →
      ∃ t, exec (.mst f) s = .next t ∧ wentOn (wordsX f) s t ∧ ∃ o, t.op? s.nextId = some o ∧ o.kind = .mst ∧
        onItsWay o xs.length =
          xs.map fun x => (x.1, x.2.1, x.2.2.getD 0, (src32 (used f s) s.warp x.1 f.c).toNat :: accRow (s.acc s.selfCore p) x.1)) ∧
    (ready 0x187 f s = true → own → missingReg s.warp ((List.range 64).map (srcNum f.a + ·)) = none →
      errRegs s.warp lanes32 ((List.range 64).map (srcNum f.a + ·)) = none →
      ∃ t, exec (.mldacc f) s = .next t ∧ wentOn (wordsX f) s t ∧
        ∀ i < 32, ∀ j < 64, Sparse.get 0 (t.acc s.selfCore p).cells (64 * i + j) = s.warp.reg (srcNum f.a + j) i) ∧
    issued .mloop 0x183 ∧ issued .mstep 0x184 ∧
    (∀ l r, (s.core c).loopq = l :: r →
      (l.start = none → s.cycle < l.startAt s c →
        answers (.matrixLoopStart c) s fun t => sameMemory s t ∧
          (t.core c).loopq.map (fun m => { m with reads := [], ahead := [] }) =
            ({ l with start := some (max (l.issued + 4) (l.asked 0 + bankTrip s c l.bankCore)) } :: r).map fun m => { m with reads := [], ahead := [] }) ∧
      (l.start = none → l.bankCore = c → l.startAt s c ≤ s.cycle → l.step < l.steps → (∀ b < l.nb, (s.bench c b).gated = false) →
        (s.warpAt c l.slot).gen = l.gen → (s.acc c l.acc).group = some l.ctx → (s.core c).bankErrs = [] → (s.acc c l.acc).errs = [] →
        answers (.matrixLoopStart c) s fun t => sameMemory s t ∧
          (t.acc c l.acc).cells = (stepCells (s.warpAt c l.slot) (s.core c) (s.acc c l.acc) (l.fmts.getD l.step (4, 4)).1
            (l.fmts.getD l.step (4, 4)).2 (l.va + 8 * l.incA * l.step) (l.off + 64 * l.incB * l.step) l.nb).1) ∧
      (answers (.matrixLoopCompletion c) s fun t => sameMemory s t ∧ (t.core c).loopq = r ∧
        ((s.warpAt c l.slot).gen = l.gen → (t.warpAt c l.slot).marks = Sparse.erase (s.warpAt c l.slot).marks l.id) ∧
        (r ≠ [] → ∃ d ∈ t.agenda, d.ev = .matrixLoopStart c))) ∧
    ∀ b, (benchIdle s c b = true → answers (.benchGate c b) s fun t => sameMemory s t ∧ t.bench c b = { s.bench c b with gated := true }) ∧
      (benchIdle s c b = false → exec (.benchGate c b) s = .next s)

/-- R270, R271, R272, R273, R275, R373: a copy whose descriptor passes the checks asks for an entry and gets its ticket 6 cycles later; at
its end the entry is free, or the arrival goes to its weighbridge and the entry is free when it has come there; at its fault it is free, and
the fault is deferred; `TSTAT` tells how many bytes it has written, and `TCANCEL` ends it. The order of the checks and the 6 cycles of a ticket
are log entry 24 (DEDUCED). -/
def Obligations.Copies : Prop :=
  ∀ s : State,
    let issued (i : Fields → Instr) (op : Nat) (f : Fields) (mcast : Option Nat) : Prop :=
      let w := s.warp
      let l := (soleLane w).getD 0
      let d := regBytes w l (srcNum f.a) 16
      let regs := if descKind d = 1 then copyRegs d (firstFmt s w d) else []
      let wb := match f.c with
        | .reg n => some (w.pc.toNat / 2 ^ 64 * 2 ^ 64 + (w.pair n.toNat l).toNat)
        | _ => none
      ready op f s = true →
      (∀ r j, descBad s w d mcast f.ty = some (r, j) → exec (i f) s = .next (faults op f s 0x18 0 (BitVec.ofNat 64 (r + 256 * j)))) ∧
      (descBad s w d mcast f.ty = none → missingReg w regs = none → (descKind d = 2 → bankLimit d (firstFmt s w d) = none) →
        (f.ty = .dflt ∨ descKind d = 0) → (Config.residue s.part = true ∨ (residueSource s w d = false ∧ residueDest s w d f.ty = false)) →
        copyMiss s w d f.ty wb = none → scoreboard w { writeR := copyHold regs } = false → (s.core s.selfCore).copies.length < copySlots →
        (∀ t, counterRoom w t 1 = true) →
        answers (i f) s fun t => sameMemory s t ∧ t.warp.regs = w.regs ∧ wentOn (wordsX f) s t ∧
          (∃ x, Sparse.get? (t.core s.selfCore).copies copySlots = some x ∧ x.id = s.nextId ∧ x.desc = d ∧ x.dest = f.d.toNat ∧
            x.mask = mcast.getD 0 ∧ x.conv = f.ty) ∧ ∃ e ∈ t.agenda, e.ev = .copyEntryGrant s.selfCore)
    (∀ f, issued .tcopy 0x188 f none) ∧
    (∀ f, issued .tmcast 0x189 f (some ((src32 (used f s) s.warp ((soleLane s.warp).getD 0) f.b).toNat % 16))) ∧
    (∀ f, ready 0x18B f s = true → exec (.tstat f) s = .next (lands 0x18B f s (s.cycle + 6) false (s.warp.active.map fun l =>
      .reg f.d.toNat l (BitVec.ofNat 32 (match ticketOf s (s.warp.reg (srcNum f.a) l).toNat with
        | none => 0
        | some (_, x) => (if x.moving then 2 else 1) + 4 * min 0x3FFFFFFF (x.wrote / 4)))))) ∧
    (∀ f l, ready 0x18A f s = true → s.warp.active = [l] →
      (ticketOf s (s.warp.reg (srcNum f.a) l).toNat = none → answers (.tcancel f) s fun t => sameMemory s t ∧ warpKept s.warp t.warp ∧
        t.warp.pend = s.warp.pend ++ [⟨s.cycle + 6, false, [.reg f.d.toNat l (BitVec.allOnes 32)]⟩]) ∧
      (∀ e x o, ticketOf s (s.warp.reg (srcNum f.a) l).toNat = some (e, x) → s.op? x.id = some o → o.stage ≠ 1 → Sparse.sorted s.ops = true →
        Sparse.sorted (s.core s.selfCore).copies = true → here s o = true → (s.warpAt o.core o.slot).storeBuf = [] →
        answers (.tcancel f) s fun t => sameMemory s t ∧ t.op? x.id = none ∧ Sparse.get? (t.core s.selfCore).copies e = none ∧
          t.warp.pend = s.warp.pend ++ [⟨s.cycle + 6, false, [.reg f.d.toNat l (BitVec.ofNat 32 x.wrote)]⟩])) ∧
    ∀ (c e : Nat) (x : Copy) (o : MemOp), s.op? x.id = some o →
      (Sparse.get? (s.core c).copies copySlots = some x → x.vals ≠ [] →
        (List.range copySlots).find? (fun e => (Sparse.get? (s.core c).copies e).isNone) = some e →
        answers (.copyEntryGrant c) s fun t => sameMemory s t ∧
          Sparse.get? (t.core c).copies e = some { x with ticket := (s.core c).ticketGen.toNat } ∧
          (t.core c).ticketGen = (s.core c).ticketGen + 1 ∧ (t.warpAt c o.slot).pend = (s.warpAt c o.slot).pend ++
            [⟨s.cycle + 6, false, x.vals.map fun l => .reg x.dest l (BitVec.ofNat 32 (e + 1024 * (s.core c).ticketGen.toNat))⟩]) ∧
      (Sparse.get? (s.core c).copies e = some x → Sparse.sorted (s.core c).copies = true → here s o = true →
        (s.warpAt o.core o.slot).storeBuf = [] →
        (x.wb = none → answers (.copyCompletion c e) s fun t => sameMemory s t ∧ Sparse.get? (t.core c).copies e = none) ∧
        (∀ va ia, x.wb = some (va, ia) → answers (.copyCompletion c e) s fun t => sameMemory s t ∧ Sparse.get? (t.core c).copies e = some x ∧
          (∃ q y, t.op? x.id = some q ∧ q.stage = 1 ∧ q.lanes = [y] ∧ y.ia = ia ∧
            y.args = [descBytes x.desc * (if x.mask = 0 then 1 else (maskCores c x.mask).length)]) ∧
          ∃ d ∈ t.agenda, d.ev = .atomicAtHome x.id 0) ∧
        (∀ y u extra p, s.input.flag = false → o.kind = .copy → o.stage = 1 → o.core = c → o.lanes = [y] → y.ok = true → y.size = 16 → place s y.ia = .here →
          y.ia % 16 = 0 → (s.core c).copies.find? (fun q => q.2.id == x.id) = some (e, x) → blocked s (y.ia, 16) x.id 0 = false →
          openLine s (y.ia, 16) x.id o.who true true = .ok (p, extra, u) → MemoryOk u → homeErrs u y.ia = 0 → badBridge (homeNat u y.ia 16) = false →
          answers (.atomicAtHome x.id 0) s fun t => Sparse.get? (t.core c).copies e = none ∧
            homeNat t y.ia 16 = ((Bridge.ofNat (homeNat u y.ia 16)).arrive (y.args.headD 0)).1.over (homeNat u y.ia 16) % 2 ^ 128) ∧
        (∀ cause va, x.fail = some (cause, va) → cause ≠ 0x0C →
          answers (.copyFault c e) s fun t => sameMemory s t ∧ Sparse.get? (t.core c).copies e = none ∧
            (t.warpAt o.core o.slot).deferred = if (areaDeferred s (s.warpAt o.core o.slot)).isNone = true then
              (s.warpAt o.core o.slot).deferred.or (some { cause, addr := va, pc := o.pc }) else (s.warpAt o.core o.slot).deferred))

/-! ### Tasks and the allocator -/

/-- R286, R288, R289, R296, R297, R373: task instructions whose addresses pass the checks of issue hold their front while their setts are
read; `ALLOC` answers with blocks of its cluster, and changes no memory but the accessed bits of the pages that hold the next pointers (R193);
`FREE` puts a block of its own cluster first in the list of its class, and one of another cluster into the exchange buffer. That `ALLOC` answers
6 cycles after it issues is the model's own choice (log entry 52, DESIGN CHOICE): R373 does not list it. -/
def Obligations.TaskInstructions : Prop :=
  ∀ (s : State) (f : Fields) (xs : List (Nat × Nat × Option Nat)),
    let g := s.selfCore / 4
    let k := f.subBits 0 4
    let free : Prop := (releases f.order = true → releaseAt s f.scope = .go)
    let issued (i : Fields → Instr) (op : Nat) : Prop :=
      ready op f s = true → operandCheck s s.warp .read 64 false (addresses f s) = .ok xs → xs ≠ [] → free →
      (∀ x ∈ xs, ownStoreOut s (mkLane 64 x) = false ∧ ownStoreOut s { mkLane 64 x with ia := x.2.2.getD 0 + 32 } = false) →
      answers (i f) s fun t => sameMemory s t ∧ warpKept s.warp t.warp ∧ wentOn (wordsX f) s t ∧ t.warp.holds = some s.nextId ∧
        ∃ o, t.op? s.nextId = some o ∧ o.kind = .push ∧ o.op = op ∧ o.todo = xs.map (fun x => (x.1, x.2.1)) ∧
          onItsWay o xs.length = xs.map fun x => (x.1, x.2.1, x.2.2.getD 0, [])
    issued .spawn 0x1C0 ∧ issued .spawnj 0x1C1 ∧
    (ready 0x1C2 f s = true → operandCheck s s.warp .both 64 false (addresses f s) = .ok xs → xs ≠ [] → free →
      (f.order = .sc → scOut s = false) → (∀ t, counterRoom s.warp t xs.length = true) →
      (∀ x ∈ xs, ownStoreOut s { mkLane 4 x with ia := (mkLane 4 x).ia + 36 } = false) →
      answers (.depsig f) s fun t => sameMemory s t ∧ t.warp.regs = s.warp.regs ∧ wentOn (wordsX f) s t ∧ t.warp.holds = some s.nextId ∧
        ∃ o, t.op? s.nextId = some o ∧ o.kind = .depsig ∧
          onItsWay o xs.length = xs.map fun x => (x.1, x.2.1 + 36, (mkLane 4 x).ia + 36, [])) ∧
    (∀ u got, ready 0x1C3 f s = true → execLanes (used f s) s.warp ≠ [] → (∀ ia ∈ allocSpan f s, hwReadWaits s ia 8 = false) →
      allocLanes s g k ((execLanes (used f s) s.warp).filter s.warp.live) [] = some (u, got) →
      answers (.alloc f) s fun t => sameMemory u t ∧ warpKept s.warp t.warp ∧ wentOn (wordsX f) s t ∧ t.clusters = u.clusters ∧
        let given (l : Nat) : Option Nat := (got.find? fun p => p.1 == l).bind (·.2)
        t.warp.pend = s.warp.pend ++ [⟨s.cycle + 6, false, ((execLanes (used f s) s.warp).map fun l =>
          put64 (used f s) l f.d.toNat (BitVec.ofNat 64 ((given l).getD 0)) ++
            putPred (used f s) s.warp l (f.clsBits 0 3) (given l).isSome).flatten⟩]) ∧
    ∀ (l va ia : Nat) (d : Desc), ready 0x1C4 f s = true → addresses f s = [(l, va)] →
      operandCheck s s.warp .write (blockSize k) false [(l, va)] = .ok [(l, va, some ia)] → (s.cluster g).desc = some d →
      (¬ (d.winVa ≤ va ∧ va < d.winVa + Config.dieCount s.part * 12 * 2 ^ d.ashift) →
        exec (.free f) s = .next (faults 0x1C4 f s 0x02 (BitVec.ofNat 72 va) (trapWords (encodeExt 0x1C4 f)))) ∧
      (d.winVa ≤ va → va < d.winVa + Config.dieCount s.part * 12 * 2 ^ d.ashift → free → bufferFull s = false → va % 2 ^ 64 ≠ 0 →
        ((va - d.winVa) / 2 ^ d.ashift = g → (classOf s s.selfCore ia).cls ≠ 3 → ia % 512 + 8 ≤ 512 →
          answers (.free f) s fun t => sameMemory s t ∧ wentOn (wordsX f) s t ∧ listHead (t.cluster g) k = va % 2 ^ 64 ∧
            ∃ id o y, t.op? id = some o ∧ o.kind = .store ∧ o.lanes = [y] ∧ y.ia = ia ∧
              y.args = (toBytes 8 (listHead (s.cluster g) k)).map BitVec.toNat) ∧
        ((va - d.winVa) / 2 ^ d.ashift ≠ g → Sparse.get? (s.cluster g).exch k = none →
          answers (.free f) s fun t => sameMemory s t ∧ warpKept s.warp t.warp ∧ wentOn (wordsX f) s t ∧
            (∃ b, Sparse.get? (t.cluster g).exch k = some b ∧ b.owner = (va - d.winVa) / 2 ^ d.ashift ∧ b.blocks = [va % 2 ^ 64]) ∧
            ∃ e ∈ t.agenda, e.ev = .exchangeTimeout g k))

/-- R288, R291, R292, R293, R294, R295, R298: a checked sett stands in the bank in bank order; the dispatcher prepares leases, launches
groups, and reserves, commits and requeues gangs; banks spill and refill; entries are donated; exchange buffers are sent and received;
the end of a group makes its completion. The read of a sett's range list sets the accessed bits of its pages (R193). The context number of a
launched group, the entries that a steal and a refill take, and that a victim answers at once, are log entry 27 (DEDUCED); that the tip ring is a list of
entries beside the bytes in memory is log entry 13 (DESIGN CHOICE). -/
def Obligations.TaskEvents : Prop :=
  ∀ (s : State) (g : Nat),
    let x := s.cluster g
    let y := cutHead x
    let u := s.setCluster g y
    let ctx := g * 2 ^ 58 + x.launches.toNat
    (∀ id k o z rs ia, s.op? id = some o → o.kind = .push → o.op = 0x1C0 → here s o = true → o.left = 1 → o.lanes = [z] → z.ok = true →
      o.todo = [(z.lane, z.va)] → ((settOf z.got).rlist ≠ 0 → hwReadWaits s (settOf z.got).rlist 192 = false) →
      let v := if (settOf z.got).rlist = 0 then s else hwSeen s (settOf z.got).rlist 192
      settCheck v (v.warpAt o.core o.slot) z.got false = .ok (rs, ia) → (settOf z.got).depcnt = 0 →
      o.core / 4 = g → x.used < 512 →
      answers (.loadResponse id k) s fun t => sameMemory v t ∧ (t.cluster g).bank = bankInsert
        { sett := settOf z.got, card := false, ranges := rs, doneIa := ia, src := z.ia, stamp := s.now, cluster := g, upTo := 0 } x.bank) ∧
    (∀ e r v, y.bank = e :: r → leaseRoom s (e.leaseSet s s.nextId) = true → rangesWait s e.ranges e.sett.lmask = false →
      checkRanges (addLeases ({ s with nextId := s.nextId + 1 }.setCluster g y) (e.leaseSet s s.nextId)) e.who e.ranges e.sett.lmask = .ok v →
      answers (.leasePreparation g) s fun t => (t.cluster g).bank = { e with lease := some s.nextId } :: r) ∧
    (∀ e r c, y.bank = e :: r → e.card = false → e.chunk = false → coreIn u e.sett g = some c →
      answers (.groupLaunch g) s fun t => sameMemory s t ∧ (t.cluster g).bank = r ∧ (t.cluster g).readyAt = s.cycle + 16 ∧
        (t.cluster g).launches = x.launches + 1 ∧ ∃ h, t.group? ctx = some h ∧ h.core = c ∧ h.sett = e.sett ∧ h.gang = ctx ∧ h.index = 0) ∧
    (∀ e r v, y.bank = e :: r → e.chunk = false →
      reserve (u.setCluster g { (dropHead y) with placing := some e, reserved := [] }) g e.sett e.sett.gang = some v →
      answers (.gangReserve g) s fun t => sameMemory s t ∧ (t.cluster g).placing = some e ∧ (t.cluster g).bank = r ∧
        (t.cluster g).reserved.length = e.sett.gang) ∧
    (∀ e, x.placing = some e → e.chunk = false →
      (answers (.gangCommit g) s fun t => sameMemory s t ∧ (t.cluster g).placing = none ∧ (t.cluster g).reserved = [] ∧
        (t.cluster g).readyAt = s.cycle + 16 * x.reserved.length ∧
        ∃ h, Sparse.get? t.gangs ctx = some h ∧ h.size = x.reserved.length ∧ h.cls = e.sett.cls) ∧
      exec (.gangRequeue g) s = .next (s.setCluster g { x with placing := none, reserved := [], bank := bankHead e x.bank })) ∧
    (∀ c h, s.group? c = some h → Sparse.sorted s.groups = true → answers (.groupEnd c) s fun t => t.group? c = none ∧
      ∃ id o, t.op? id = some o ∧ o.kind = .done ∧ o.ctx = c) ∧
    (∀ d, x.desc = some d → x.used - 448 ≤ x.bank.length → x.tips.length + (x.used - 448) ≤ 2 ^ d.tipLog →
      answers (.spill g) s fun t => (t.cluster g).bank.length = x.bank.length - (x.used - 448) ∧
        (t.cluster g).tips.length = x.tips.length + (x.used - 448) ∧ (t.cluster g).aside = x.aside) ∧
    (let n := min (128 - x.bank.length) (448 - x.used)
     n ≤ x.tips.length → answers (.refill g) s fun t => sameMemory s t ∧ (t.cluster g).bank.length = x.bank.length + n ∧
       (t.cluster g).tips = x.tips.drop n) ∧
    (∀ v, v ≠ g → let d := donate (s.cluster v)
      x.arriving = [] → x.used + d.1.length ≤ 512 →
      answers (.stealRequest g v) s fun t => sameMemory s t ∧ t.cluster v = d.2 ∧
        (t.cluster g).bank.length = x.bank.length + d.1.length ∧ (t.cluster g).asked = if d.1 = [] then x.asked ++ [v] else []) ∧
    exec (.stealRetryTimeout g) s = .next (s.setCluster g { x with asked := [] }) ∧
    (∀ k b, Sparse.get? x.exch k = some b → Sparse.sorted x.exch = true →
      (b.last + 4096 ≤ s.cycle → answers (.exchangeTimeout g k) s fun t => sameMemory s t ∧ Sparse.get? (t.cluster g).exch k = none ∧
        ∃ e ∈ t.agenda, e.ev = .exchangeBatchReceive b.owner k b.blocks) ∧
      (s.cycle < b.last + 4096 → exec (.exchangeTimeout g k) s = .next s)) ∧
    ∀ k va r d, x.desc = some d → va ≠ 0 →
      (hwBlocked s (blockIa d va) 8 = false → ∃ t, exec (.exchangeBatchReceive g k [va]) s = .next t ∧ listHead (t.cluster g) k = va ∧
        exec (.exchangeBatchReceive g k (va :: r)) s = exec (.exchangeBatchReceive g k r) t) ∧
      (hwBlocked s (blockIa d va) 8 = true → answers (.exchangeBatchReceive g k (va :: r)) s fun t => sameMemory s t ∧ t.cluster g = x ∧
        ∃ e ∈ t.agenda, e.ev = .exchangeBatchReceive g k (va :: r) ∧ e.at_ = s.cycle + 1)

/-! ### Control registers, traps and the supervisor's instructions -/

/-- R88, R335, R373: `CRD` delivers a register 6 cycles after issue; a `CWR` of a legal value writes the warp's own copy at once, or a
register of the core from the next cycle on, and the value then reads back; an illegal one faults with cause 0x02, a privileged
instruction of a user warp with 0x03 (R82). The four rows for single registers mean what `CWR` of their index means (log entry 44, DEDUCED). -/
def Obligations.ControlRegisters : Prop :=
  ∀ (s : State) (f : Fields),
    let g := used f s
    let c := s.selfCore
    let i := f.idx
    let writes (k : Fields → Instr) : Prop := ∀ l, ready 0x1E6 f s = true → (s.onSl = true → warpOnly i = false) → actor g s.warp = some l →
      let v := if wideIdx i then src64 false g s.warp l f.a else (src32 g s.warp l f.a).setWidth 64
      (ctrlBad s i v = true → exec (k f) s = .next (faults 0x1E6 f s 0x02 0 (trapWords (encodeExt 0x1E6 f)))) ∧
      (ctrlBad s i v = false → ∀ u, ctrlWarp (begun 0x1E6 f s) i v = some u → exec (k f) s = .next (ended (wordsX f) s u)) ∧
      (ctrlBad s i v = false → ctrlWarp s i v = none → answers (k f) s fun t => sameMemory s t ∧ warpKept s.warp t.warp ∧
        wentOn (wordsX f) s t ∧ t.late = s.late ++ [(c, i, v)])
    (ready 0x1E5 f s = true → (s.onSl = true → warpOnly i = false) →
      exec (.crd f) s = .next (lands 0x1E5 f s (s.cycle + 6) false (results g s.warp fun _ l =>
        let x := ctrlRead (begun 0x1E5 f s) i
        if wideIdx i then put64 g l f.d.toNat x else put32 g l f.d.toNat (x.setWidth 32)))) ∧
    writes .cwr ∧ writes .svqbaseWrite ∧ writes .timecmpWrite ∧ writes .pmselWrite ∧ writes .mirrorCounterWrite ∧
    (∀ j v u, s.warp.single = s.onSl → ctrlBad s j v = false → ctrlWarp s j v = some u → ctrlRead u j = v) ∧
    (∀ j v, ctrlBad s j v = false → j ∈ [0x001, 0x031, 0x040, 0x041] ∨ (s.onSl = false ∧ j ∈ [0x020, 0x021]) ∨ (0x110 ≤ j ∧ j < 0x120) →
      ctrlRead (ctrlCore s c j v) j = v) ∧
    let privileged (k : Fields → Instr) (op : Nat) : Prop := mayIssue s s.warp op = true → s.warp.priv = false → g.one = false →
      exec (k f) s = .next (refusedAt (encodeExt op f) s 0x03)
    privileged .cwr 0x1E6 ∧ privileged .svpop 0x1E1 ∧ privileged .svdone 0x1E2 ∧ privileged .eret 0x1E4 ∧ privileged .xinv 0x1E7 ∧
    privileged .rmode 0x1E8 ∧ privileged .ctxsvReq 0x1E9 ∧ privileged .ctxld 0x1EA ∧ privileged .wfi 0x1EB ∧ privileged .ipiWake 0x1EC ∧
    privileged .lease 0x1F0

/-- R330, R333, R334, R335, R336, R340: what taking an exception leaves in a supervisor warp with a handler, in any other warp, and on the
S-lane; what `TRAP` and `BKPT` raise; what the returns restore. That a record is written at its home in the step that makes it, once the
stopped threads' stores are performed, is log entry 8 (DESIGN CHOICE); stops, steps and `ERET` in its corners are log entry 31 (DEDUCED). -/
def Obligations.TrapsAndReturns : Prop :=
  ∀ (s : State) (f : Fields) (x : FaultInfo),
    let w := s.warp
    let k := s.core s.selfCore
    let t := takeFault s x
    let trap : Trap := { cause := BitVec.ofNat 8 x.cause, pc := x.pc, addr := x.addr, info := x.info }
    let inPlace : Prop := w.priv = true ∧ k.trapvec ≠ 0 ∧ w.inHandler = false
    (s.onSl = false → x.cause ≠ 0x0C → inPlace → sameMemory s t ∧ t.warp.trap = trap ∧ t.warp.inHandler = true ∧ t.warp.regs = w.regs ∧
      frontAt s t fun _ => k.trapvec) ∧
    (s.onSl = false → x.cause ≠ 0x0C → ¬ inPlace → w.front?.isSome = true →
      t.warp.trap = (if laterFault s s.selfCore s.selfSlot (Warp.lowest w.frontMask) then w.trap else trap) ∧ t.warp.regs = w.regs ∧
      (frontAt s t fun l => (w.thread l).pc) ∧ (∀ l, hasLane w.frontMask l = true → hasLane (t.warp.parkedFor .fault) l = true) ∧
      let ia := areaOf k + 64 * k.tail.toNat
      (trapReady s s.selfCore s.selfSlot = false → ∃ r, (s.cycle, s.selfSlot, r) ∈ (t.core s.selfCore).awaiting) ∧
      (MemoryOk s → trapReady s s.selfCore s.selfSlot = true → (∀ p ∈ k.awaiting, p.2.1 ≠ s.selfSlot) → ringOpen s s.selfCore = true → k.held = [] → freshOf s s.selfCore = [] → place s ia = .here → iaDie ia < Config.dieCount s.part → (sline? s ia).isSome = true →
        pteCheck (attrs s ia).1 ⟨false, 0⟩ true = none → markPage s ia true = s →
        (t.core s.selfCore).count = k.count + 1 ∧ (t.core s.selfCore).tail = k.tail + 1 ∧
        homeBytes t ia 64 = mkRecord (kindOf x.cause) w.priv 0 s.selfCore w.wix (Warp.lowest w.frontMask) w.ctx
          (trapArgs x.cause x.isDeferred false w.frontMask x.pc.toNat x.addr.toNat x.info.toNat x.storeHi 0))) ∧
    (s.onSl = true → let sl := (t.core s.selfCore).sl;
      sameMemory s t ∧ t.warp.trap = { trap with cause := BitVec.ofNat 8 (x.cause + if w.ie then 128 else 0) } ∧ t.warp.ie = false ∧
      (k.sl.trapvec ≠ 0 → (t.warp.thread 0).pc = k.sl.trapvec) ∧ (k.sl.trapvec = 0 → sl.halted = true)) ∧
    (s.onSl = false → x.cause = 0x0C → ∀ g, s.group? w.ctx = some g → ∃ h, t.group? w.ctx = some h ∧ h.ending = some (g.ending.getD 0x0C)) ∧
    (∀ l, ready 0x1E3 f s = true → w.active.find? (guardOf (used f s) w) = some l →
      exec (.trap f) s = .next (faults 0x1E3 f s 0x15 0 ((src32 (used f s) w l f.a).setWidth 64))) ∧
    (ready 0x1ED f s = true → (w.frontLanes.any (guardOf (used f s) w)) = true →
      (s.onSl = true → exec (.bkpt f) s = .next (faults 0x1ED f s 0x13 0 0)) ∧
      (s.onSl = false → w.single = false → w.liveLanes ≠ [] → w.loads = [] →
        ((opsOf s s.selfCore w.gen).any fun p => p.2.kind.isAtomic || p.2.kind == .depsig || p.2.kind == .red) = false →
        answers (.bkpt f) s fun t => t.warp.debugStop = true ∧ t.warp.regs = w.regs ∧ (freshOf s s.selfCore = [] → t.warp.trap = { cause := 0x13, pc := w.pc, addr := 0, info := 0 }) ∧
          frontAt s t fun l => (w.thread l).pc)) ∧
    (ready 0x1E4 f s = true →
      (s.onSl = true → answers (.eret f) s fun t => sameMemory s t ∧ (t.warp.thread 0).pc = w.trap.pc ∧ t.warp.ie = w.trap.cause.getLsbD 7) ∧
      (s.onSl = false → w.inHandler = true → answers (.eret f) s fun t => onlyHere s t ∧ t.warp.regs = w.regs ∧ t.warp.inHandler = false ∧
        frontAt s t fun _ => w.trap.pc) ∧
      (s.onSl = false → w.inHandler = false → exec (.eret f) s = .next (faults 0x1E4 f s 0x02 0 (trapWords (encodeExt 0x1E4 f)))) ∧
      let resumes (i : Fields → Instr) (step : Bool) : Prop := ∀ l, w.frontLanes = [l] →
        let h := headerOf w (srcNum f.a) l
        (h.1 ∉ [0, 2, 3] → exec (i f) s = .next (faults 0x1E4 f s 0x02 0 (BitVec.ofNat 64 l))) ∧
        (h.1 ∈ [2, 3] → stoppedFront s s.selfCore h.2.2.2 h.2.1 h.2.2.1 = none → answers (i f) s fun t => sameMemory s t ∧
          warpKept w t.warp ∧ t.warp.pend = w.pend ++ [⟨s.cycle, false, [.reg f.d.toNat l 1]⟩]) ∧
        (∀ j m, h.1 ∈ [2, 3] → stoppedFront s s.selfCore h.2.2.2 h.2.1 h.2.2.1 = some (j, m, false) → j ≠ s.selfSlot →
          releaseAt s .pkg = .go → answers (i f) s fun t => sameMemory s t ∧
            t.warp.pend = w.pend ++ [⟨s.cycle, false, [.reg f.d.toNat l 0]⟩] ∧
            ∀ n, hasLane m n = true → ∃ y ∈ (t.warpAt s.selfCore j).fronts, y.wait = none ∧ hasLane y.lanes n = true ∧
              (step = true → hasLane y.stepping n = true))
      resumes .eretHeader false ∧ resumes .eretStep true)

/-- R282, R283, R284, R334, R335, R337, R338, R339: system calls and their service, saving, ending and loading groups, waiting and
inter-core interrupts. That `CTXSV.END` answers 1 for a slot that holds no warp, that it waits for the update, and the order of the checks
of `CTXLD` are log entry 28 (DEDUCED); what an area does not save comes back as log entry 11 says. -/
def Obligations.SupervisorInstructions : Prop :=
  ∀ (s : State) (f : Fields) (l : Nat),
    let w := s.warp
    let c := s.selfCore
    let g := used f s
    let k := s.core c
    let words (op : Nat) : Dword := trapWords (encodeExt op f)
    let one : Prop := w.frontLanes = [l]
    (ready 0x1E0 f s = true → let ls := (w.active.filter (guardOf g w)).filter w.live;
      (coreOn s c = false → exec (.syscall f) s = .next (faults 0x1E0 f s 0x06 0 (words 0x1E0))) ∧
      (coreOn s c = true → ls ≠ [] → (∀ ia ∈ ringSpan k w.frontLanes.length, hwBlocked s ia 64 = false) → releaseAt s .cluster = .go → ringRoom s c ls.length = true → answers (.syscall f) s fun t =>
        wentOn (wordsX f) s t ∧ ∀ l ∈ ls, hasLane (t.warp.parkedFor .syscall) l = true ∧ (t.warp.thread l).rpair = f.d ∧
          (t.warp.thread l).inCall = true)) ∧
    (ready 0x1E1 f s = true →
      (k.count = 0 → k.ipiPend.getLsbD s.selfSlot = false → answers (.svpop f) s fun t => onlyHere s t ∧ frontAt s t (fun l => (w.thread l).pc) ∧
        ∀ l ∈ w.frontLanes, hasLane (t.warp.parkedFor .svpop) l = true) ∧
      (let n := min k.count w.frontLanes.length;
        n ≠ 0 → answers (.svpop f) s fun t => sameMemory s t ∧ wentOn (wordsX f) s t ∧
          (t.core c).count = k.count - n ∧ (t.core c).head = k.head + BitVec.ofNat 8 n ∧ ∃ o, t.op? s.nextId = some o ∧ o.kind = .svpop ∧
          o.lanes.map (fun x => (x.lane, x.got)) = ((List.range n).zip (w.frontLanes.take n)).map fun p =>
            (p.2, homeNat s (areaOf k + 64 * ((k.head.toNat + p.1) % 256)) 64))) ∧
    (∀ j, ready 0x1E2 f s = true → (w.active.filter (guardOf g w)).filter w.live = [l] →
      let h := headerOf w (srcNum f.a) l
      (h.1 ∉ [1, 6] → exec (.svdone f) s = .next (faults 0x1E2 f s 0x02 0 (BitVec.ofNat 64 l))) ∧
      (h.1 = 1 → (∀ r, f.b ≠ .reg r) → releaseAt s .cluster = .go → callerSlot s c h.2.2.2 h.2.1 = some j →
        isParked s c j h.2.2.1 .syscall = true → ((s.warpAt c j).thread h.2.2.1).inCall = true →
        answers (.svdone f) s fun t => sameMemory s t ∧ wentOn (wordsX f) s t ∧ ((t.warpAt c j).thread h.2.2.1).inCall = false ∧
          (∃ o x, t.op? s.nextId = some o ∧ o.kind = .svdone ∧ o.slot = j ∧ o.lanes = [x] ∧ x.lane = h.2.2.1 ∧
            x.got = (src64 false g w l f.c).toNat) ∧ ∃ d ∈ t.agenda, d.ev = .loadResponse s.nextId 0 ∧ d.at_ = s.cycle + 6)) ∧
    (∀ ia ctx h, ready 0x1E9 f s = true → armOperands g s = .ok [(l, ia, ctx)] → s.group? ctx = some h →
      (answers (.ctxsvArm f) s fun t => sameMemory s t ∧ warpKept w t.warp ∧ wentOn (wordsX f) s t ∧ t.group? ctx = some { h with saveArea := ia }) ∧
      (hasLane w.frontMask l = true → answers (.ctxsvReq f) s fun t => sameMemory s t ∧ hasLane (t.warp.parkedFor .ctxsv) l = true ∧
        ∃ y, t.group? ctx = some y ∧ y.saveReq = true ∧ y.saveArea = ia ∧ y.core = h.core)) ∧
    (ready 0x1E9 f s = true → soleLane w = some l → let slot := (src32 g w l f.c).toNat;
      (f.sub = 0 → exec (.ctxsvEnd f) s = .next (faults 0x1E9 f s 0x02 0 (words 0x1E9))) ∧
      (f.sub ≠ 0 → slot < 64 → slotGroup s slot = none → releaseAt s .sys = .go → answers (.ctxsvEnd f) s fun t => sameMemory s t ∧
        warpKept w t.warp ∧ wentOn (wordsX f) s t ∧
        (w.active ≠ [] → t.warp.pend = w.pend ++ [⟨s.cycle + 6, false, w.active.map fun l => .reg f.d.toNat l 1⟩])) ∧
      (∀ ctx h, f.sub ≠ 0 → slot < 64 → slotGroup s slot = some ctx → (s.onSl = true ∨ ctx ≠ w.ctx) → s.group? ctx = some h → h.ending = none →
        releaseAt s .sys = .go → answers (.ctxsvEnd f) s fun t => sameMemory s t ∧ warpKept w t.warp ∧ t.warp.holds = some s.nextId ∧
          ∃ y, t.group? ctx = some y ∧ y.ending = some f.sub.toNat)) ∧
    (∀ va ia, ready 0x1EA f s = true → one → operandCheck s w .both 65536 false [(l, vaOf g w l)] = .ok [(l, va, some ia)] →
      let x := homeNat s ia 512
      areaWaits s ia = false → areaCheck s ia = none → areaBad s ia x = false →
      let gives (v : Word) (P : State → Prop) : Prop := answers (.ctxld f) s fun t => P t ∧ wentOn (wordsX f) s t ∧
        t.warp.pend = w.pend ++ [⟨s.cycle + 6, false, [.reg f.d.toNat l v]⟩]
      let seen := (areaSpans s ia).foldl (fun u p => hwSeen u p.1 p.2) s
      let same (t : State) : Prop := sameMemory seen t ∧ t.groups = s.groups
      (headerEnded x = true → gives 3 same) ∧ (headerEnded x = false → coreOn s c = false → gives 1 same) ∧
      (headerEnded x = false → coreOn s c = true → headerResident x = true → (∀ h, s.group? (headerCtx x) = some h → h.core ≠ c) →
        gives 2 same) ∧
      (headerEnded x = false → coreOn s c = true → headerResident x = false → (w.single = true ∨ w.ctx ≠ headerCtx x) →
        (roomSaved seen c ia (headerSett x).accs (headerMask x) = false → gives 1 same) ∧
        (roomSaved seen c ia (headerSett x).accs (headerMask x) = true → gives 0 fun t =>
          ∃ h, t.group? (headerCtx x) = some h ∧ h.core = c ∧ h.saveArea = ia ∧ h.sett = headerSett x))) ∧
    (ready 0x1EB f s = true → ((pendingSource s c).isSome = true → exec (.wfi f) s = .next (ended (wordsX f) s (begun 0x1EB f s))) ∧
      ((pendingSource s c).isSome = false → answers (.wfi f) s fun t => sameMemory s t ∧ (t.core c).sl.wfi = true ∧ wentOn 0 s t)) ∧
    let sends (i : Fields → Instr) (kind : Nat) : Prop := ready 0x1EC f s = true → actor g w = some l →
      let a := (src32 g w l f.a).toNat
      (Config.cores s.part ≤ a % 256 ∨ (kind = 2 ∧ a / 256 % 64 ≠ 0) → exec (i f) s = .next (faults 0x1EC f s 0x02 0 (words 0x1EC))) ∧
      (¬ (Config.cores s.part ≤ a % 256 ∨ (kind = 2 ∧ a / 256 % 64 ≠ 0)) → answers (i f) s fun t => sameMemory s t ∧ warpKept w t.warp ∧
        wentOn (wordsX f) s t ∧ ∃ d ∈ t.agenda, d.ev = .ipiDelivery kind (a % 256) (a / 256 % 64) c)
    sends .ipiWake 0 ∧ sends .ipiStop 1 ∧ sends .ipiSl 2

/-- R47, R90, R304, R306, R307: a warp asks for blocks and is blocked until they are granted; it shrinks to fewer blocks and keeps the
registers below, once no write to a returned block is still to land (log entry 54, DESIGN CHOICE: the rule does not name fixed-latency
writes); the table instructions hold their front with their pages still to be done. -/
def Obligations.BlocksAndTables : Prop :=
  ∀ (s : State) (f : Fields) (l : Nat),
    let w := s.warp
    let c := s.selfCore
    let g := used f s
    let n := f.sub.toNat
    (ready 0x1EE f s = true → (w.frontLanes.any (guardOf g w)) = true →
      (64 < w.blocks + n → exec (.reggrow f) s = .next (faults 0x1EE f s 0x02 0 (BitVec.ofNat 64 n))) ∧
      (w.blocks + n ≤ 64 → answers (.reggrow f) s fun t => onlyHere s t ∧ warpKept w t.warp ∧ wentOn 0 s t ∧
        t.warp.grow = some (n, s.cycle)) ∧
      (w.blocks + n ≤ 64 → growQueue s c = [] → n ≤ freeBlocksOn s c → Sparse.sorted (s.core c).warps = true → Sparse.sorted w.regs = true →
        answers (.reggrow f) s fun t => answers (.reggrowGrant c) t fun u => sameMemory s u ∧ wentOn 3 s u ∧ u.warp.blocks = w.blocks + n ∧
          u.warp.grow = none ∧ ∀ r, ∀ j < 32, u.warp.reg r j = if r < 8 * w.blocks then w.reg r j else 0)) ∧
    (ready 0x1EF f s = true → (w.frontLanes.any (guardOf g w)) = true →
      (w.blocks ≤ n → exec (.regshrink f) s = .next (faults 0x1EF f s 0x02 0 (BitVec.ofNat 64 n))) ∧
      (n < w.blocks → blocksBusy w (w.blocks - n) = false → Sparse.sorted w.regs = true → answers (.regshrink f) s fun t => sameMemory s t ∧
        wentOn (wordsX f) s t ∧ t.warp.blocks = w.blocks - n ∧ ∀ r < 8 * (w.blocks - n), ∀ j < 32, t.warp.reg r j = w.reg r j)) ∧
    (∀ xs ts, ready 0x1E7 f s = true → operandCheck s w .both 1 true (addresses f s) = .ok xs → xs ≠ [] →
      xs.map (fun x => x.2.2.bind (tableLine s)) = ts →
      (ts.all Option.isSome = true → releaseAt s .sys = .go → answers (.xinv f) s fun t => sameMemory s t ∧ warpKept w t.warp ∧
        wentOn (wordsX f) s t ∧ t.warp.holds = some s.nextId ∧ ∃ o, t.op? s.nextId = some o ∧ o.kind = .xinv ∧
          ∀ y, y ∈ o.todo ↔ some y ∈ ts) ∧
      (∀ x, xs.find? (fun x => (x.2.2.bind (tableLine s)).isNone) = some x →
        exec (.xinv f) s = .next (faults 0x1E7 f s 0x02 (BitVec.ofNat 72 x.2.1) (trapWords (encodeExt 0x1E7 f))))) ∧
    (ready 0x1E8 f s = true → actor g w = some l → let va := vaOf g w l;
      let m := (src32 g w l f.c).toNat
      (m = 0 ∨ 65535 < m → exec (.rmode f) s = .next (faults 0x1E8 f s 0x02 (BitVec.ofNat 72 va) (trapWords (encodeExt 0x1E8 f)))) ∧
      (0 < m → m ≤ 65535 → va % 65536 ≠ 0 →
        exec (.rmode f) s = .next (faults 0x1E8 f s 0x07 (BitVec.ofNat 72 va) (memInfo l true false false false))) ∧
      (∀ ps, 0 < m → m ≤ 65535 → va % 65536 = 0 → regionPages s w va m = .ok ps → releaseAt s .sys = .go →
        answers (.rmode f) s fun t => sameMemory s t ∧ warpKept w t.warp ∧ wentOn (wordsX f) s t ∧ t.warp.holds = some s.nextId ∧
          ∃ o, t.op? s.nextId = some o ∧ o.kind = .rmode ∧ o.todo = ps)) ∧
    (ready 0x1F0 f s = true → actor g w = some l → let va := vaOf g w l;
      (va % 8 ≠ 0 → exec (.lease f) s = .next (faults 0x1F0 f s 0x07 (BitVec.ofNat 72 va) (memInfo l false false false false))) ∧
      (∀ ia, va % 8 = 0 → va % 512 ≤ 320 → translateFor s w .read va = .ok ia → place s ia ≠ .io →
        answers (.lease f) s fun t => sameMemory s t ∧ warpKept w t.warp ∧ wentOn (wordsX f) s t ∧ t.warp.holds = some s.nextId ∧
          ∃ o, t.op? s.nextId = some o ∧ o.kind = .lease ∧ o.block = (l, va)))

/-! ### What the hardware of a core and of the slices does by itself -/

/-- R324, R327, R334, R335, R348, R376: how interrupts reach the S-lane and what it enters with; where messages and inter-core interrupts
arrive; what a capture samples. -/
def Obligations.InterruptsArrive : Prop :=
  ∀ (s : State) (c : Nat),
    let k := s.core c
    let w := s.warpAt c 64
    let enters (i : Instr) : Prop := ∀ cause info, slReady s c = true → k.sl.wfi = false → pendingSource s c = some (cause, info) →
      answers i s fun t => sameMemory s t ∧ (t.warpAt c 64).ie = false ∧
        (t.warpAt c 64).trap = { cause := BitVec.ofNat 8 (cause + 128), pc := w.pc, addr := 0, info } ∧
        (k.sl.trapvec ≠ 0 → ((t.warpAt c 64).thread 0).pc = k.sl.trapvec) ∧ (k.sl.trapvec = 0 → (t.core c).sl.halted = true)
    enters (.timerExpiry c) ∧ enters (.sLaneInterruptEntry c) ∧
    (k.timecmp.toNat ≤ s.now → pendingSource s c = some (0x20, 0)) ∧
    (k.sl.wfi = true → k.sl.halted = false → asleep s c = false → w.ie = false → (pendingSource s c).isSome = true →
      answers (.wfiWake c) s fun t => sameMemory s t ∧ (t.core c).sl.wfi = false ∧
        ((t.warpAt c 64).thread 0).pc = (w.thread 0).pc + 12 ∧ (t.warpAt c 64).regs = w.regs) ∧
    (∀ source event, let r := ioReg s (routeBase + 8 * source);
      (r / 2 ^ 63 = 1 → s.io.msgs = [] → r / 256 % 256 = c → k.sl.msgs.length < 8 →
        answers (.interruptMessage source event) s fun t => sameMemory s t ∧
          (t.core c).sl.msgs = k.sl.msgs ++ [BitVec.ofNat 40 (source * 2 ^ 32 + event % 2 ^ 24 * 256 + r % 256)]) ∧
      (r / 2 ^ 63 ≠ 1 → answers (.interruptMessage source event) s fun t => t.cores = s.cores ∧ sameMemory s t ∧
        Sparse.get 0 t.io.missed source = Sparse.get 0 s.io.missed source + 1)) ∧
    (∀ kind slot sender, Config.cores s.part ≤ c → exec (.ipiDelivery kind c slot sender) s = .fault .absentUnit) ∧
    (∀ slot sender, c < Config.cores s.part →
      (slot < 64 → answers (.ipiDelivery 0 c slot sender) s fun t => sameMemory s t ∧ (t.core c).ipiPend.getLsbD slot = true ∧
        (∀ v, Sparse.get? k.warps slot = some v → (t.warpAt c slot).parkedFor .svpop = 0)) ∧
      (∀ v, slot < 64 → Sparse.get? k.warps slot = some v → v.debugStop = false → v.single = false → v.liveLanes ≠ [] → checked s v = true →
        ((opsOf s c v.gen).any fun p => p.2.kind.isAtomic || p.2.kind == .depsig || p.2.kind == .red) = false →
        answers (.ipiDelivery 1 c slot sender) s fun t => (t.warpAt c slot).debugStop = true ∧ (t.warpAt c slot).regs = v.regs ∧
          (freshOf s c = [] → (t.warpAt c slot).trap.cause = 0x13 ∧ (t.warpAt c slot).trap.info = 1)) ∧
      (answers (.ipiDelivery 2 c slot sender) s fun t => sameMemory s t ∧ (t.core c).sl.ipiLatch = true ∧ (t.core c).sl.sender = sender)) ∧
    ∀ i u, Sparse.get? k.capts i = some u → answers (.capturePeriodSample c) s fun t => sameMemory s t ∧
      ∃ v, Sparse.get? (t.core c).capts i = some v ∧ v.cfg = u.cfg ∧
        v.samples = if u.cfg.toNat / 2 ^ 63 = 1 ∧ u.cfg.toNat % 256 ∈ [5, 7] then u.samples + 1 else u.samples

/-- R47, R48, R173, R281, R284, R337: held records enter a ring with room; a warp that overruns is stopped and saved whole; blocks are
granted in order; a warp is evicted, or its group ended; sleepers and saved callers wake. -/
def Obligations.CoreEvents : Prop :=
  ∀ (s : State) (c k : Nat),
    let x := s.core c
    let w := s.warpAt c k
    (ringOpen s c = false → exec (.heldRecordEntry c) s = .next s) ∧
    (∀ slot r, ringOpen s c = true → x.held = [(slot, r)] → reportFor s c = none → MemoryOk s → r.length = 64 →
      let ia := areaOf x + 64 * x.tail.toNat
      place s ia = .here → iaDie ia < Config.dieCount s.part → (sline? s ia).isSome = true → pteCheck (attrs s ia).1 ⟨false, 0⟩ true = none →
      markPage s ia true = s →
      answers (.heldRecordEntry c) s fun t => (t.core c).held = [] ∧ (t.core c).count = x.count + 1 ∧ homeBytes t ia 64 = r) ∧
    (∀ v, Sparse.get? x.warps k = some v → k < 64 → v.front?.isSome = true → answers (.safepointOverrun c k) s fun t =>
      (t.warpAt c k).saving = some (BitVec.allOnes 64) ∧ (freshOf s c = [] → (t.warpAt c k).trap = { cause := 0x11, pc := v.pc, addr := 0, info := 4096 }) ∧
      (t.warpAt c k).regs = v.regs ∧ ∀ l, hasLane v.frontMask l = true → hasLane ((t.warpAt c k).parkedFor .fault) l = true) ∧
    (victimSlot s c = none → exec (.eviction c) s = .next s) ∧
    (∀ g, victimSlot s c = some k → s.group? w.ctx = some g →
      (g.saveArea = 0 → answers (.eviction c) s fun t => sameMemory s t ∧ ∃ h, t.group? w.ctx = some h ∧ h.ending = some (g.ending.getD 0x04)) ∧
      (g.saveArea ≠ 0 → drained s c k = true → partsOpen s (saveParts g w (ownedNames s g k)) = true → Sparse.sorted x.warps = true → answers (.eviction c) s fun t =>
        Sparse.get? (t.core c).warps k = none ∧ ∃ h, t.group? w.ctx = some h ∧ h.evicted = withWarp g.evicted w.wix)) ∧
    (growNext s c = none → exec (.reggrowGrant c) s = .next s) ∧
    (∀ n, Sparse.sorted x.warps = true → Sparse.sorted w.regs = true → k < 64 → growNext s c = some (k, n) → answers (.reggrowGrant c) s fun t => sameMemory s t ∧
      (t.warpAt c k).blocks = w.blocks + n ∧ (t.warpAt c k).grow = none ∧
      ∀ r, ∀ j < 32, (t.warpAt c k).reg r j = if r < 8 * w.blocks then w.reg r j else 0) ∧
    (answers (.sleepWake c k) s fun t => sameMemory s t ∧ (t.warpAt c k).regs = w.regs ∧
      ∀ l < 32, (hasLane ((t.warpAt c k).parkedFor .sleep) l = true ↔
        hasLane (w.parkedFor .sleep) l = true ∧ s.now < (w.thread l).deadline.toNat)) ∧
    (∀ l < 32, hasLane (w.parkedFor .saved) l = true → copyHolds s w [(w.thread l).rpair.toNat, (w.thread l).rpair.toNat + 1] = true →
      answers (.savedSyscallWake c k l) s fun t => { t with agenda := s.agenda } = s ∧
        ∃ d ∈ t.agenda, d.ev = .savedSyscallWake c k l ∧ d.at_ = s.cycle + 1) ∧
    (∀ l < 32, hasLane (w.parkedFor .saved) l = true → copyHolds s w [(w.thread l).rpair.toNat, (w.thread l).rpair.toNat + 1] = false →
      Sparse.sorted w.regs = true → let v := homeNat s (w.savedAt.getD 0 + 0x400 + 64 * l + 31) 8;
      answers (.savedSyscallWake c k l) s fun t => sameMemory s t ∧ ((t.warpAt c k).thread l).inCall = false ∧
        hasLane ((t.warpAt c k).parkedFor .saved) l = false ∧
        (t.warpAt c k).reg (w.thread l).rpair.toNat l = BitVec.ofNat 32 v ∧
        (t.warpAt c k).reg ((w.thread l).rpair.toNat + 1) l = BitVec.ofNat 32 (v / 2 ^ 32)) ∧
    (∀ v, Sparse.get? x.warps k = some v → answers (.resultsLand c k) s fun t => sameMemory s t ∧
      (∀ p ∈ (t.warpAt c k).pend, s.cycle < p.due) ∧
      (∀ p, v.pend = [p] → p.due ≤ s.cycle → (t.warpAt c k).regs = (v.applyAll p.writes).regs)) ∧
    let id := s.input.a
    (s.op? id = none → exec (.instructionWordsArrive c k) s = .next s) ∧
    ∀ o v u q, s.op? id = some o → o.kind = .fetch → o.core = c → o.slot = k → Sparse.get? x.warps k = some v →
      (v.gen ≠ o.gen → exec (.instructionWordsArrive c k) s = .next (s.dropOp id)) ∧
      (v.gen = o.gen → legBack s id s.input.b o = (u, some q) →
        (q.left ≠ 0 → exec (.instructionWordsArrive c k) s = .next (u.setOp id q)) ∧
        (q.left = 0 → v.fetching ≠ some id → exec (.instructionWordsArrive c k) s = .next (u.dropOp id)) ∧
        (let ws := q.lanes.map (·.got)
         q.left = 0 → v.fetching = some id → v.pc.toNat = o.pc → v.front?.isSome = true → (q.lanes.all (·.ok)) = true →
         (∀ j, ∀ y : Lane, q.lanes[j]? = some y → y.lane = j) → ws ≠ [] → ws.length = wordCount (ws.headD 0) →
           answers (.instructionWordsArrive c k) s fun t => sameMemory s t ∧ (t.warpAt c k).fetched = some (v.pc, ws) ∧
             (t.warpAt c k).fetching = none ∧ (t.warpAt c k).regs = v.regs))

/-- R191, R193, R199, R200, R232: a read at its home takes the bytes that are there; a leg that waited is tried again as it came; a
grain unit of a requester-side copy goes when its lease has run out; a late acknowledgement is used up. -/
def Obligations.SliceEvents : Prop :=
  ∀ (s : State) (id k : Nat) (o : MemOp), s.op? id = some o →
    (∀ x e extra u, let p := o.part k;
      o.kind = .load → o.lanes = [x] → p.lanes = [x.lane] → p.via = false → place s p.ia = .here → lockedFor s p.ia id = false →
      openLine s (x.ia, x.size) id o.who false false = .ok (e, extra, u) →
      answers (.loadAtHomeSlice id k) s fun t => (∃ q y, t.op? id = some q ∧ q.lanes = [y] ∧ y.got = homeNat u x.ia x.size ∧
        (q.part k).seen = true ∧ (q.part k).pte = e) ∧ ∃ d ∈ t.agenda, d.ev = .loadResponse id k) ∧
    (∀ c, let p := o.part k;
      o.kind = .load → p.via = false → place s p.ia = .here → lockedFor s p.ia id = false →
      openLine s ((o.spans k).headD (p.ia, 1)) id o.who false false = .error (some c) →
      answers (.loadAtHomeSlice id k) s fun t => (∃ q, t.op? id = some q ∧ ∀ y ∈ q.lanes, y.lane ∈ p.lanes →
        y.ok = false ∧ y.cause = c) ∧ ∃ d ∈ t.agenda, d.ev = .loadResponse id k) ∧
    (o.kind = .store → s.input.flag = false → answers (.leasedSetFill id k) s fun t => exec (.storePerformed id) s = .next t) ∧
    (o.kind = .atom → s.input.flag = false → answers (.leasedSetFill id k) s fun t => exec (.atomicAtHome id k) s = .next t) ∧
    (Sparse.sorted s.ops = true → blocked s (o.left + 0x40, 0x50) id 0 = false → answers (.lateAcknowledgement id) s fun t => t.op? id = none) ∧
    ∀ n line y, Sparse.get? (s.slice n).copies line = some y → Sparse.sorted (s.slice n).copies = true →
      let u := s.input.a
      (s.now < Sparse.get 0 y.lease u → answers (.requesterCopyInvalidation n line) s fun t => sameMemory s t ∧
        (∃ z, Sparse.get? (t.slice n).copies line = some z ∧ { z with going := y.going } = y ∧ u ∈ z.going) ∧
        ∃ d ∈ t.agenda, d.ev = .requesterCopyInvalidation n line ∧ d.at_ = s.cycle + 1 ∧ d.data.a = u) ∧
      (Sparse.get 0 y.lease u ≤ s.now → answers (.requesterCopyInvalidation n line) s fun t => sameMemory s t ∧
        (∀ z i, Sparse.get? (t.slice n).copies line = some z → unitMask y.pte.cls u / 2 ^ i % 2 = 1 → z.valid / 2 ^ i % 2 = 0) ∧
        ∀ l, line < 2 ^ 31 → sline? s (line * 512) = some l → ∃ m, sline? t (line * 512) = some m ∧ Sparse.get 0 m.holders u / 2 ^ (n / 48) % 2 = 0)

/-! ### The I/O die, boot and management -/

/-- R191, R310, R345, R346, R350, R356, R357, R360: a store to a register sets the bits that are its own, and one that sets another bit
changes nothing, and fails with cause 0x02 in a filter entry or a route; the writes with an effect of their own have it; every one is acknowledged.
Which bits a register has, and how the reads and writes that go to a device end, are log entries 37, 38, 39 (DEDUCED) and 14, 17 (DESIGN CHOICE). -/
def Obligations.IoRegisters : Prop :=
  ∀ (s : State) (o : MemOp) (y : Lane), s.op? s.input.a = some o → o.lanes = [y] → Sparse.sorted s.io.regs = true →
    let x := s.input
    let does (i : Instr) (P : State → Prop) : Prop :=
      answers i s fun t => sameMemory s t ∧ t.cores = s.cores ∧ (∃ d ∈ t.agenda, d.ev = .storeAcknowledgement x.a) ∧ P t
    let bs : List Byte := y.args.map (BitVec.ofNat 8)
    let a := y.ia % 2 ^ 56
    (∀ n ev d, storeEvent s x.a a bs.length (leBytes bs) = some (n, ev, d) → n = bs.length → reservedStore s a (leBytes bs) = false →
      exec (.registerWrite x.a) s = .next { s with agenda := { at_ := s.cycle, ev, data := d } :: s.agenda }) ∧
    (∀ m, storeEvent s x.a a bs.length (leBytes bs) = none → 0x10000 ≤ a → pciePort a = none → a % 8 = 0 → bs.length = 8 → writeMask s a = some m →
      does (.registerWrite x.a) fun t => ∀ b, ioReg t b =
        if b / 8 = a / 8 ∧ m ≠ 0 ∧ Nat.land (leBytes bs) m = leBytes bs then leBytes bs else ioReg s b) ∧
    (∀ p < 2, a = pcieBase p + 8 → bs.length = 8 → Nat.land (leBytes bs) (2 ^ 16 + 15 * 2 ^ 8 + 1) = leBytes bs → does (.registerWrite x.a) fun t =>
      ioReg t a = leBytes bs ∧ ioReg t (pcieBase p) = if leBytes bs % 2 = 0 then 0 else ioReg s (pcieBase p)) ∧
    (a % 8 = 0 → bs.length = 8 → reservedStore s a (leBytes bs) = true → does (.registerWrite x.a) fun t => t.io = s.io ∧
      ∃ q, t.op? x.a = some q ∧ q.failed = true ∧ q.lanes = [{ y with cause := 0x02 }]) ∧
    (x.b < 8 * 8 → does .errorCounterClear fun t => ∀ b, ioReg t b = if b / 8 = (errBase + 8 * x.b) / 8 then 0 else ioReg s b) ∧
    (x.c < 2 ^ 63 → (∀ p ∈ s.slices, ∀ q ∈ p.2.copies, q.2.pte.tenant ≠ ioReg s x.b % 65536) → filterBase ≤ x.b → x.b < filterBase + 512 →
      Nat.land x.c (2 ^ 63 + 65535) = x.c → does .filterEntryClear fun t => ioReg t x.b = x.c) ∧
    (∀ p ∈ s.slices, ∀ q ∈ p.2.copies, Sparse.get? s.slices p.1 = some p.2 → Sparse.get? p.2.copies q.1 = some q.2 →
      q.2.pte.tenant = ioReg s x.b % 65536 → anyLease q.2.lease s.now = true →
      answers .filterEntryClear s fun t => { t with agenda := s.agenda } = s ∧
        ∃ d ∈ t.agenda, d.ev = .filterEntryClear ∧ d.data = x ∧ d.at_ = s.cycle + 1) ∧
    (does .extend fun t =>
      if s.io.extgo = 0 ∧ 1 ≤ x.c ∧ x.c ≤ 7 then
        t.io = { s.io with extgo := x.c, extDigest := ioBytes s 0x200 64 } ∧ ∃ d ∈ t.agenda, d.ev = .extendComplete
      else t.io = { s.io with errstat := 1 }) ∧
    (does .report fun t =>
      if x.c = 1 ∧ s.io.rptgo = false then t.io = { s.io with rptgo := true } ∧ ∃ d ∈ t.agenda, d.ev = .reportComplete
      else t.io = s.io) ∧
    (Nat.land x.c (2 ^ 16 + 15 * 2 ^ 8 + 3) = x.c → x.c / 2 % 2 = 1 → does .pcieRetrain fun t => ioReg t (pcieBase x.b + 8) = x.c - 2 ∧
      t.io.sent = s.io.sent ++ [(256 + x.b, 0, [])]) ∧
    (does .configWrite fun t => if endpoint s x.b then t.io = s.io
      else t.io.sent = s.io.sent ++ [(272 + x.b, ioReg s (pcieBase x.b + 0x800), toBytes 4 x.c)] ∧
        ioReg t (pcieBase x.b + 0x810) ∈ [0, 1, 2, 4, 256]) ∧
    (does .msixSend fun t =>
      if endpoint s x.b = true ∧ x.c < 32 then
        t.io = { s.io with sent := s.io.sent ++ [(x.b, ioReg s (msixAt x.b + 16 * x.c), ioBytes s (msixAt x.b + 16 * x.c + 8) 4)] }
      else t.io = s.io) ∧
    (∀ tail : Bool, let b := nvmeBase (x.b / 64) + 0x1000 + 64 * (x.b % 64)
      let size := ioReg s (b + 16) / (if tail then 1 else 65536) % 4096
      let off : Prop := endpoint s (x.b / 64) = true ∨ ioReg s (nvmeBase (x.b / 64)) % 2 = 0 ∨ ioReg s (b + 24) / 2 ^ 63 = 0
      does (if tail then .nvmeSqTailWrite else .nvmeCqHeadWrite) fun t =>
        (off → ioReg t (nvmeBase (x.b / 64) + 8) = 256 ∧ t.io.sent = s.io.sent) ∧
        (¬ off → size < x.c → ioReg t (nvmeBase (x.b / 64) + 8) = 512 ∧ t.io.sent = s.io.sent) ∧
        (¬ off → x.c ≤ size → t.io.sent = s.io.sent ++ [(x.b / 64, ioReg s (b + if tail then 32 else 40), toBytes 4 x.c)])) ∧
    (let v := x.c + ioReg s (ueQueue x.b + 32) / 2 ^ 32 * 2 ^ 32
     let u := setIo s (ueQueue x.b + 32) v
     x.c < 2 ^ 32 → answers .ueTailWrite s fun t => (∃ d ∈ t.agenda, d.ev = .storeAcknowledgement x.a) ∧ ioReg t (ueQueue x.b + 32) = v ∧
       (ueAt u x.b = none → sameMemory s t ∧ t.cores = s.cores) ∧
       ∀ ia, ueAt u x.b = some ia →
         (hwReadWaits u ia 64 = true → ∃ e ∈ t.agenda, e.ev = .ueSend ∧ e.data = { a := x.b, flag := true } ∧ e.at_ = s.cycle + 1) ∧
         (hwReadWaits u ia 64 = false → sameMemory (hwSeen u ia 64) t ∧ ∀ d, ueNext u x.b = some d →
           ∃ e ∈ t.agenda, e.data = { a := x.b, bytes := d } ∧
             e.ev = if descAt d 0 1 = 2 then .ueRemoteWrite else if descAt d 0 1 = 3 then .ueRemoteRead else .ueSend)) ∧
    (does .ueCqHeadWrite fun t => x.c < 2 ^ 32 → ioReg t (ueQueue x.b + 32) = ioReg s (ueQueue x.b + 32) % 2 ^ 32 + x.c * 2 ^ 32) ∧
    (x.flag = true → x.b < 24 →
      (answers .duselPortFence s fun t => sameMemory s t ∧ (∃ d ∈ t.agenda, d.ev = .storeAcknowledgement x.a) ∧
        ioReg t (duselPort x.b) / 4 % 2 = 1 ∧ ioReg t (duselPort x.b) % 4 = ioReg s (duselPort x.b) % 4) ∧
      does .duselPortReturn fun t => ioReg t (duselPort x.b) = ioReg s (duselPort x.b) / 8 * 8 + ioReg s (duselPort x.b) % 4) ∧
    ((o.part x.b).lanes = [y.lane] →
      let gives (t : State) (v : Nat) : Prop := (∃ q, t.op? x.a = some q ∧ q.lanes = [{ y with got := v % 2 ^ (8 * y.size) }]) ∧
        ∃ d ∈ t.agenda, d.ev = .loadResponse x.a x.b
      (answers .replaysRead s fun t => sameMemory s t ∧ ∃ v, gives t v ∧ ioReg t (errBase + 56) = (ioReg s (errBase + 56) + v) % 2 ^ 64) ∧
      (answers .configRead s fun t => sameMemory s t ∧
        (endpoint s x.c = true → gives t 0 ∧ t.io.sent = s.io.sent) ∧
        (endpoint s x.c = false → t.io.sent = s.io.sent ++ [(288 + x.c, ioReg s (pcieBase x.c + 0x800), [])] ∧ ioReg t (pcieBase x.c + 0x810) ∈ [0, 1, 2, 4, 256] ∧
          (ioReg t (pcieBase x.c + 0x810) ≠ 0 → gives t 0xFFFFFFFF))))

/-- R230, R310, R345, R346, R351, R353 to R355, R357, R360: what reaches the package from outside through the I/O die, and what its
units finish by themselves. The ordering domains of writes from outside are log entry 42, what other packages send and how a device
answers are log entry 14, what an HBM4 scrub finds is log entry 17 (DESIGN CHOICE); the Ultra Ethernet queues and the link state are log
entries 39 and 38 (DEDUCED). -/
def Obligations.IoEvents : Prop :=
  ∀ s : State, Sparse.sorted s.io.regs = true →
    let x := s.input
    let p := x.a % 2
    let readAnd (u : State) (i : Instr) (m : Nat × Nat × List Byte) : Prop := exec i s = .next { u with io := { u.io with sent := u.io.sent ++ [m] } }
    let leaves (i : Instr) (m : Nat × Nat × List Byte) : Prop := readAnd s i m
    let passes : Prop := x.a = 0 ∨ ∃ i < 64, ioReg s (filterBase + 8 * i) / 2 ^ 63 = 1 ∧ ioReg s (filterBase + 8 * i) % 65536 = x.a
    (¬ passes → leaves .partitionFilterProbe (128, x.b, [0])) ∧
    (passes →
      let ns := (List.range (Config.dieCount s.part)).map (48 * · + iaSliceNo x.b)
      let copy (u : State) (n : Nat) : Option SCopy := Sparse.get? (u.slice n).copies (l1Key s x.b)
      ((∀ n ∈ ns, ∀ y, copy s n = some y → anyLease y.lease s.now = false) → answers .partitionFilterProbe s fun t => sameMemory s t ∧
        t.cores = s.cores ∧ t.io = { s.io with sent := s.io.sent ++ [(128, x.b, ns.map fun _ => 1)] } ∧
        ∀ n ∈ ns, Sparse.sorted (s.slice n).copies = true → copy t n = none) ∧
      (∀ n ∈ ns, ∀ y, copy s n = some y → anyLease y.lease s.now = true → answers .partitionFilterProbe s fun t =>
        { t with agenda := s.agenda } = s ∧ ∃ d ∈ t.agenda, d.ev = .partitionFilterProbe ∧ d.data = x ∧ d.at_ = s.cycle + 1)) ∧
    (s.io.extgo = 0 → exec .extendComplete s = .next s) ∧
    (0 < s.io.extgo → s.io.extgo < 8 → answers .extendComplete s fun t => t.io.extgo = 0 ∧
      ioBytes t (64 * s.io.extgo) 64 = shake256 (ioBytes s (64 * s.io.extgo) 64 ++ s.io.extDigest) 64 ∧
      ∀ b, b < 64 * s.io.extgo ∨ 64 * s.io.extgo + 64 ≤ b → ioByte t b = ioByte s b) ∧
    (answers .reportComplete s fun t => t.io.rptgo = false ∨ (t.io.domains.any fun p => p.1 == domSecurity) = true) ∧
    ((reportBytes s).length = 4096 ∧ (reportBytes s).take 64 = ioBytes s 0x280 64 ∧ ((reportBytes s).drop 64).take 512 = ioBytes s 0 512) ∧
    (let n := errBase + 8 * if x.c = 0 then 4 else (x.c - 1) % 4
     answers .hbmScrub s fun t => { t with io := s.io, hbmErrs := s.hbmErrs } = s ∧
      (x.flag = false → t.hbmErrs = s.hbmErrs) ∧ (x.flag = true → t.hbmErrs.contains (x.b / 32) = true) ∧ ∀ b, ioReg t b =
      if b / 8 = n / 8 then (ioReg s n + x.a) % 2 ^ 64 else ioReg s b) ∧
    (let next : State := { s with nextId := s.nextId + 1 }
     let alone : Prop := s.io.domains = [] ∧ s.op? s.nextId = none
     let writes (dom port tenant ia : Nat) (user : Bool) : Prop := ∀ e extra u,
       let n := x.bytes.length
       let w : MemOp :=
         { kind := .inbound, core := 100000, slot := 0, gen := 0, ctx := 0, wix := 0, user, tenant := tenant, pc := 0, f := {}
           lanes := [{ lane := 0, va := 0, ia := ia, size := n, args := x.bytes.map BitVec.toNat }]
           block := (port, 0), visit := dom, since := s.cycle, tick := s.now }
       let v : State := { next with ops := Sparse.put s.ops s.nextId w, io := { s.io with domains := [(dom, s.nextId)] } }
       alone → 0 < n → ia % 512 + n ≤ 512 → place s ia = .here → iaDie ia < Config.dieCount s.part → blocked v (ia, n) s.nextId 0 = false →
       openLine v (ia, n) s.nextId ⟨user, tenant⟩ true true = .ok (e, extra, u) → MemoryOk u →
       answers .inboundPcieWrite s fun t => ∀ i < n, homeByte t (ia + i) = x.bytes.getD i 0
     (x.a < 2 →
       let page : Prop := endpoint s p = false ∧ ioReg s (pcieBase p + 0x900) % 2 = 1 ∧ x.b / 4096 = ioReg s (pcieBase p + 0x900) / 4096
       (512 < x.bytes.length → leaves .inboundPcieWrite (32 + p, x.b, [])) ∧
       (page → x.bytes.length ≤ 512 → alone → exec .inboundPcieWrite s = exec (.interruptMessage (1 + p) (leBytes x.bytes % 2 ^ 24)) next) ∧
       (¬ page → inboundWindow s p x.b true = none → leaves .inboundPcieWrite (32 + p, x.b, [])) ∧
       (¬ page → ∀ ia tenant, inboundWindow s p x.b true = some (ia, tenant) →
         writes (if x.flag then 4 * s.nextId + 1 else 4 * (x.c * 2 + p)) (1 + p) tenant ia false)) ∧
     (2 ≤ x.a → Config.dusel s.part = true → writes (4 * (x.a - 2) + 7) 0 x.c x.b x.flag) ∧
     (endpoint s p = false → exec .hostDoorbellWrite s = .next s) ∧
     (let o := x.b - 64
      let bar (i : Nat) : Byte := if i < 0x200 then ioByte s (pcieBase p + 0x2000 + i)
        else if 0x1000 ≤ i ∧ i < 0x1200 then ioByte s (msixAt p + (i - 0x1000)) else 0
      endpoint s p = true → 64 ≤ x.b →
        (x.flag = true → o + x.c ≤ 0x4000 → leaves .hostDoorbellWrite (48 + p, o, (List.range x.c).map fun i => bar (o + i))) ∧
        (x.flag = false → 0x1000 ≤ o → o < 0x1200 → o % 4 = 0 → alone → answers .hostDoorbellWrite s fun t => sameMemory s t ∧
          ioBytes t (msixAt p + (o - 0x1000)) 4 = toBytes 4 x.c)) ∧
     (endpoint s p = true → x.b < 64 → alone → answers .hostDoorbellWrite s fun t => sameMemory s t ∧
       ioReg t (pcieBase p + 0x2000 + 8 * x.b) = x.c % 2 ^ 64 ∧
       exec (.interruptMessage (1 + p) x.b) (setIo next (pcieBase p + 0x2000 + 8 * x.b) x.c) = .next t)) ∧
    (x.a < 2 → 4096 < x.c ∨ inboundWindow s p x.b false = none → leaves .inboundPcieRead (32 + p, x.b, [])) ∧
    (∀ ia tenant, x.a < 2 → x.c ≤ 4096 → inboundWindow s p x.b false = some (ia, tenant) →
      (hwReadWaits s ia x.c = true → answers .inboundPcieRead s fun t => sameMemory s t ∧ t.io = s.io ∧
        ∃ d ∈ t.agenda, d.ev = .inboundPcieRead ∧ d.data = x ∧ d.at_ = s.cycle + 1) ∧
      (hwReadWaits s ia x.c = false → hwCheck s ia x.c ⟨false, tenant⟩ false = none → hwErr s ia x.c = none →
        readAnd (hwSeen s ia x.c) .inboundPcieRead (16 + p, x.b, homeBytes s ia x.c)) ∧
      (hwReadWaits s ia x.c = false → (hwCheck s ia x.c ⟨false, tenant⟩ false).isSome = true ∨ (hwErr s ia x.c).isSome = true →
        readAnd (hwSeen s ia x.c) .inboundPcieRead (32 + p, x.b, []))) ∧
    (2 ≤ x.a → Config.dusel s.part = true →
      let comes (k : Nat) (kind : OpKind) (ev : Nat → Instr) : Prop := descAt x.bytes 0 1 = k → answers .inboundPcieRead s fun t =>
        sameMemory s t ∧ t.io = s.io ∧ t.agenda.head? = some { at_ := s.cycle, ev := ev s.nextId } ∧
        ∃ o, t.op? s.nextId = some o ∧ o.kind = kind ∧ o.tenant = x.c ∧ o.user = x.flag
      comes 0 .load (.loadAtHomeSlice · 0) ∧ comes 2 .mcas .mcasLockGrant ∧ comes 5 .waitc (.atomicAtHome · 0)) ∧
    (endpoint s p = false → exec .hotReset s = .next s) ∧
    (endpoint s p = true → answers .hotReset s fun t => sameMemory s t ∧ ioReg t (pcieBase p) = ioReg s (pcieBase p) % 2 ^ 16 ∧
      ∀ i < 64, ioReg t (msixAt p + 8 * i) = 0) ∧
    (let rate := min x.c (ioReg s (pcieBase x.a + 8) / 256 % 16)
     x.a < 2 → answers .linkUp s fun t => sameMemory s t ∧ ioReg t (pcieBase x.a) =
       if x.flag = true ∧ ioReg s (pcieBase x.a + 8) % 2 = 1 ∧ x.b ∈ [1, 4, 8, 16] ∧ 1 ≤ rate ∧ rate ≤ 7 then x.b + rate * 256 + 65536 else 0) ∧
    (2 ≤ x.a → x.a < 6 → answers .linkUp s fun t => sameMemory s t ∧ ioReg t (ueBase + 8) / 2 ^ (2 + x.a) % 2 = x.flag.toNat ∧
      let n (k v : Nat) : Prop := ioReg t k = (ioReg s k + v) % 2 ^ 64
      n (ueBase + 0x1000 + 64 * (x.a - 2) + 24) x.b ∧ n (ueBase + 0x1000 + 64 * (x.a - 2) + 32) x.c ∧ n (errBase + 48) x.c) ∧
    (x.flag = true → ueAt s x.a = none → exec .ueSend s = .next s) ∧
    (x.flag = false → ueOk s x.a x.bytes = true →
      let recv : Prop := ioReg s (ueQueue x.a + 48) / 2 ^ 25 % 2 = 1
      let entry := ueEntryAt s (descAt x.bytes 4 4)
      let u := hwSeen s entry 64
      let flies (i : Instr) (n : Nat) : Prop := ∀ e bs,
        let v := if n = 0 then u else hwSeen u (descAt x.bytes 8 8) n
        hwReadWaits s entry 64 = false → hwRead s entry 64 ⟨false, 0⟩ = .ok e →
        (n = 0 → bs = []) → (n ≠ 0 → hwReadWaits u (descAt x.bytes 8 8) n = false ∧ hwRead u (descAt x.bytes 8 8) n ⟨false, ueTenant s x.a⟩ = .ok bs) →
        answers i s fun t => t.io.flying = s.io.flying ++ [(x.a, x.bytes)] ∧ t.io.posted = s.io.posted ∧
          (∃ head, t.io.sent = s.io.sent ++ [(512 + x.a, descAt e 0 8, head ++ bs)] ∧ head.length = 35 ∧ head.take 14 = (e.drop 8).take 14 ∧
            head.drop 14 = toBytes 1 (descAt x.bytes 0 1) ++ toBytes 8 (descAt x.bytes 32 8) ++ toBytes 8 (descAt x.bytes 24 8) ++ toBytes 4 (descAt x.bytes 16 4)) ∧
          (ueAt s x.a = none → sameMemory v t)
      flies .ueRemoteWrite (descAt x.bytes 16 4) ∧ flies .ueRemoteRead 0 ∧ (¬ recv → flies .ueSend (descAt x.bytes 16 4)) ∧
      (recv → answers .ueSend s fun t => t.io.posted = s.io.posted ++ [(x.a, x.bytes)] ∧ t.io.sent = s.io.sent ∧
        (ueAt s x.a = none → sameMemory s t))) ∧
    (∀ i ∈ [Instr.ueRemoteWrite, Instr.ueRemoteRead, Instr.ueSend], x.flag = false → ueOk s x.a x.bytes = false → descAt x.bytes 1 1 % 2 = 0 →
      answers i s fun t => t.io.sent = s.io.sent ∧ t.io.flying = s.io.flying ∧ (ueAt s x.a = none → sameMemory s t)) ∧
    (let mine := s.io.flying.filter fun q => q.1 == x.a
     (mine.length ≤ x.b → exec .ueCompletionEntry s = .next s) ∧
     (∀ d, mine[x.b]? = some (x.a, d) → descAt d 1 1 % 2 = 0 → (descAt d 0 1 ≠ 3 ∨ x.c ≠ 0) → answers .ueCompletionEntry s fun t =>
       (ueAt s x.a = none → sameMemory s t) ∧ t.io.sent = s.io.sent ∧ (t.io.flying.filter fun q => q.1 == x.a) = mine.eraseIdx x.b)) ∧
    ((s.io.posted.filter fun q => q.1 == x.a) = [] → exec .ueMessageReceive s = .next s) ∧
    (∀ q r, (s.io.posted.filter fun q => q.1 == x.a) = q :: r → answers .ueMessageReceive s fun t =>
      (t.io.posted.filter fun q => q.1 == x.a) = r ∧ Sparse.get 0 t.io.cqDone x.a = Sparse.get 0 s.io.cqDone x.a + 1) ∧
    (let ka := ioReg s (ueBase + 0x2000) + 2 ^ 24 + 32 * (x.a % 65536)
     let n := if x.flag then x.bytes.length else x.c
     let on : Prop := ioReg s ueBase % 2 = 1
     (¬ on → leaves .ueInboundRemoteAccess (768, x.a, [])) ∧
     (on → hwReadWaits s ka 32 = true → answers .ueInboundRemoteAccess s fun t => sameMemory s t ∧ t.io = s.io ∧
       ∃ d ∈ t.agenda, d.ev = .ueInboundRemoteAccess ∧ d.data = x ∧ d.at_ = s.cycle + 1) ∧
     (∀ bs, on → hwReadWaits s ka 32 = false → hwRead s ka 32 ⟨false, 0⟩ = .ok bs →
       let u := hwSeen s ka 32
       let e := leBytes bs
       let at_ := fieldAt e 0 8 + x.b
       let bad : Prop := fieldAt e 8 8 < x.b + n ∨ fieldAt e 16 1 / (if x.flag then 1 else 2) % 2 = 0
       (bad → answers .ueInboundRemoteAccess s fun t => sameMemory u t ∧ t.io.sent = s.io.sent ++ [(768, x.a, [])]) ∧
       (∀ ys, ¬ bad → x.flag = false → hwReadWaits u at_ n = false → hwRead u at_ n ⟨false, fieldAt e 18 2⟩ = .ok ys →
         answers .ueInboundRemoteAccess s fun t => sameMemory (hwSeen u at_ n) t ∧ t.io.sent = s.io.sent ++ [(769, x.a, ys)]))) ∧
    (answers .duselFlitReplay s fun t => { t with io := s.io } = s ∧
      (x.flag = true → ioReg t (duselPort (x.a % 24) + 16) = (ioReg s (duselPort (x.a % 24) + 16) + 1) % 2 ^ 64) ∧
      (x.flag = false → ioReg t (duselPort (x.a % 24) + 8) = (ioReg s (duselPort (x.a % 24) + 8) + 1) % 2 ^ 64 ∧
        ioReg t (errBase + 40) = (ioReg s (errBase + 40) + 1) % 2 ^ 64)) ∧
    (Config.dusel s.part = true → x.a < 24 → x.b < 2 →
      exec .fencePortLane s = exec .duselLaneFailure s ∧
      answers .duselLaneFailure s fun t => sameMemory s t ∧ ioReg t (duselPort x.a) / 2 ^ x.b % 2 = 0 ∧
        (ioReg t (duselPort x.a) % 4 = 0 → ioReg t (duselPort x.a) / 4 % 2 = 1)) ∧
    ((192 ≤ x.a ∨ s.io.fenced.getLsbD x.a = true) → exec .packageFenced s = .next s) ∧
    (x.a < 192 → s.io.fenced.getLsbD x.a = false → answers .packageFenced s fun t => sameMemory s t ∧
      ∀ n, t.io.fenced.getLsbD n = (s.io.fenced.getLsbD n || n == x.a))

/-- R322, R324, R343, R344, R355, R357, R358, R359, R361: reset and the boot ROM, the global time, and the commands of the management
interface. What a reset keeps is log entries 2 and 13, how a clock step and a time adjustment take effect log entries 16, 40 and 41. -/
def Obligations.BootTimeAndManagement : Prop :=
  ∀ s : State,
    let x := s.input
    let len := flashNat s 8 8
    let load := flashNat s 24 8
    (answers .resetCommand s fun t =>
      { t with part := State.reset.part, flash := [], hbm := [], hbmErrs := [], clusters := [], free := 0 } = State.reset ∧
      t.part = s.part ∧ t.flash = s.flash ∧ t.hbm = (keepRings s).hbm ∧ t.hbmErrs = (keepRings s).hbmErrs ∧
      ((∀ p ∈ s.slices, ∀ l ∈ p.2.lines, l.2.dirty = 0) → t.hbm = s.hbm ∧ t.hbmErrs = s.hbmErrs) ∧
      (Sparse.sorted s.clusters = true → ∀ g, t.cluster g =
        { tips := (s.cluster g).tips, tipAt := if (s.cluster g).tips = [] then 0 else (s.cluster g).tipAt })) ∧
    (∀ t, s.boot ≠ .before → exec .resetCommand s = .next t → exec .packageReset s = exec .packageReset { t with agenda := [] }) ∧
    (∀ n, s.boot = .before → bootFailure s = some n → exec .packageReset s = .next { s with boot := .failed n }) ∧
    (s.boot = .before → bootFailure s = none → s.hbm.wf = true → s.flash.wf = true → Sparse.sorted s.io.regs = true →
      answers .packageReset s fun t => t.boot = .done ∧ t.now = s.now ∧ t.io.pcieMode = BitVec.ofNat 2 (flashNat s 32 1) ∧
        ioBytes t 0 64 = shake256 (List.replicate 64 0 ++ shake256 (signedBytes s) 64) 64 ∧
        (∀ i < len, Memory.read t.hbm (load + i) = Memory.read s.flash (8192 + i)) ∧
        (∀ d < Config.dieCount s.part, ∀ q < 2 ^ 22, leBytes (Memory.readAll t.hbm (d * 2 ^ 38 + 16 * q) 16) =
          if q < 1024 ∨ (d = 0 ∧ load / 65536 ≤ q ∧ q * 65536 < load + len) then bootPte q else 0) ∧
        ∀ c < Config.cores s.part, (t.core c).sl.started = true ∧ let w := t.warpAt c 64
          w.priv = true ∧ w.single = true ∧ w.liveLanes = [0] ∧ (w.thread 0).pc = BitVec.ofNat 72 (flashNat s 16 8) ∧
            w.reg 0 0 = BitVec.ofNat 32 c ∧ ∀ r, r ≠ 0 → ∀ l, w.reg r l = 0) ∧
    (let free : Prop := ∀ t, s.lastAdjust = some t → t + 1024 ≤ s.now
     ((s.io.domain = [] ∨ x.a ≤ 2 ∨ ¬ free) → exec .timeAdjustment s = .next s) ∧
     (s.io.domain ≠ [] → 2 < x.a → free → answers .timeAdjustment s fun t => sameMemory s t ∧ t.cores = s.cores ∧
       t.lastAdjust = some s.now ∧ t.hold = s.hold + 1 ∧ t.now = (if x.flag then s.now + 2 else s.now) ∧
       ∀ c k, Sparse.get? s.cores c = some k → s.now < k.timecmp.toNat → k.timecmp.toNat ≤ t.now →
         ∃ d ∈ t.agenda, d.ev = .timerExpiry c)) ∧
    (let asks (i : Instr) (n : Nat) : Prop := answers i s fun t =>
       { t with agenda := s.agenda, clockCmd := s.clockCmd, hot := s.hot } = s ∧ t.clockCmd = s.clockCmd ++ [n] ∧
       ∃ d ∈ t.agenda, d.ev = .clockStepChange ∧ d.at_ = (s.cycle / 4096 + 1) * 4096
     (x.a ≤ 4 → asks .clock x.a) ∧ (4 < x.a → exec .clock s = .next s) ∧
     asks .thermalStepDown (min 4 (s.clockCmd.getLastD s.clockStep + 1)) ∧ (answers .thermalStepDown s fun t => x.a ∈ t.hot)) ∧
    (∀ n r, s.clockCmd = n :: r → answers .clockStepChange s fun t =>
      { t with clockStep := s.clockStep, clockCmd := s.clockCmd, phase := s.phase } = s ∧ t.clockStep = n ∧ t.clockCmd = r) ∧
    (s.clockCmd = [] → exec .clockStepChange s = .next s) ∧
    ((Config.dieCount s.part ≤ x.a ∨ ∃ p ∈ s.cores, p.1 / 48 = x.a ∧ ∃ w ∈ p.2.warps, w.1 ≠ 64) → exec .diesleepSleep s = .next s) ∧
    (x.a < Config.dieCount s.part → (∀ p ∈ s.cores, p.1 / 48 = x.a → ∀ w ∈ p.2.warps, w.1 = 64) →
      answers .diesleepSleep s fun t => { t with dies := s.dies } = s ∧ (t.die x.a).asleep = true ∧ ∀ d, d ≠ x.a → t.die d = s.die d) ∧
    (x.a < Config.dieCount s.part → answers .diesleepWake s fun t => { t with dies := s.dies, clusters := s.clusters } = s ∧
      (t.die x.a).asleep = false ∧ ∀ d, d ≠ x.a → t.die d = s.die d) ∧
    (answers .gateidleCommand s fun t => { t with late := s.late } = s ∧
      ∀ c < Config.cores s.part, (c, 0x10042, BitVec.ofNat 64 (x.a % 2 ^ 32)) ∈ t.late) ∧
    (Config.dusel s.part = true → x.a < 192 → answers .fencePackage s fun t => { t with agenda := s.agenda } = s ∧
      t.agenda.head? = some { at_ := s.cycle, ev := .packageFenced, data := { a := x.a } }) ∧
    ((4096 < x.bytes.length ∨ 2 ^ 29 < x.a + x.bytes.length) → exec .flash s = .next s) ∧
    (x.bytes.length ≤ 4096 → x.a + x.bytes.length ≤ 2 ^ 29 → s.flash.wf = true → answers .flash s fun t => { t with flash := s.flash } = s ∧
      ∀ i, Memory.read t.flash i = if x.a ≤ i ∧ i < x.a + x.bytes.length then x.bytes.getD (i - x.a) 0 else Memory.read s.flash i) ∧
    (answers .statusCommand s fun t => { t with io := s.io, free := s.free } = s ∧
      ∃ bs, t.io = { s.io with sent := s.io.sent ++ [(1024, 0, BitVec.ofNat 8 (Boot.code s.boot) :: BitVec.ofNat 8 s.clockStep :: bs)] } ∧
        ((bs.drop (2 * Config.dieCount s.part)).take 64 = ((List.range 8).map fun i => toBytes 8 (ioReg s (errBase + 8 * i))).flatten)) ∧
    (exec .pkgnum s = .next (if s.boot ≠ .done ∧ x.a < 192 ∧ Config.dusel s.part = true then { s with pkg := x.a } else s)) ∧
    (Config.dusel s.part = true → Sparse.sorted s.io.regs = true → answers .duselDomainJoin s fun t => sameMemory s t ∧ t.cores = s.cores ∧
      t.now = max s.now x.a ∧ t.hold = s.hold + (s.now - x.a) ∧ s.pkg ∈ t.io.domain ∧ ∀ k < 24, ioReg t (duselPort k) % 4 = 3)

/-! ### Frames -/

/-- R58, R74, R76: what an instruction of the computing families leaves as it is. When it completes, its front has gone on by its words,
and its results wait for their cycle; no byte of memory, no register, predicate, tag, status, trap or special register has changed, no
other warp and no other core. (`computes` and `lands` are in terms of this state.) -/
def Obligations.ResultsFrame : Prop :=
  ∀ (op due : Nat) (s : State) (fixed : Bool) (W : List Write),
    let frame (n : Nat) (t : State) : Prop := onlyHere s t ∧ sameMemory s t ∧ warpKept s.warp t.warp ∧ wentOn n s t ∧
      t.warp.pend = s.warp.pend ++ if W = [] then [] else [⟨due, fixed, W⟩]
    (∀ f, ready op f s = true → frame (wordsX f) (lands op f s due fixed W)) ∧
    ∀ k, readyShort op k s = true → frame 1 (landsShort op k s due fixed W)

/-- R64, R86, R91: a result that lands changes its own register of its own lane and clears the tag of its block; a uniform register or a
predicate changes alone; a write to p7 is discarded, and p7 reads as true. -/
def Obligations.WritesAreExact : Prop :=
  ∀ (w : Warp) (n l : Nat), Sparse.sorted w.regs = true → Sparse.sorted w.sregs = true → Sparse.sorted w.tags = true → l < 32 →
    (∀ x, let v := w.apply (.reg n l x)
      (∀ m, ∀ j < 32, v.reg m j = if m = n ∧ j = l then x else w.reg m j) ∧
      (∀ b, v.tag b = if b = n / 8 then 0 else w.tag b) ∧ v.sregs = w.sregs ∧ v.threads = w.threads) ∧
    (∀ x, let v := w.apply (.sreg n x)
      (∀ m, v.sreg m = if m = n then x else w.sreg m) ∧ v.regs = w.regs ∧ v.tags = w.tags ∧ v.threads = w.threads) ∧
    (∀ x, let v := w.apply (.pred n l x)
      (n < 7 → ∀ q j, v.pred q j = if q = n ∧ j = l then x else w.pred q j) ∧ (n = 7 → v = w) ∧ v.pred 7 l = true ∧
      v.regs = w.regs ∧ v.sregs = w.sregs ∧ v.tags = w.tags ∧ ∀ j, (v.thread j).pc = (w.thread j).pc)
end

