-- ==== Sys2Proof/Laws/Memory.lean ====
section
/-! SUPPORT. Memory: a write is read back, leaves every other address alone, and keeps the canonical form. -/

namespace Sys2Proof

variable {α : Type}

theorem Sparse.above_mono (m : Sparse α) (b : Option Nat) (h : Sparse.above b m = true) : Sparse.above none m = true := by
  cases m with
  | nil => rfl
  | cons p r => cases b <;> simp_all [Sparse.above]

theorem Sparse.above_lower (m : Sparse α) (a b : Nat) (hab : a ≤ b) (h : Sparse.above (some b) m = true) :
    Sparse.above (some a) m = true := by
  cases m with
  | nil => rfl
  | cons p r =>
    simp only [Sparse.above, Bool.and_eq_true, decide_eq_true_eq] at h ⊢
    exact ⟨by omega, h.2⟩

/-- A key that is not above the bound is not listed. -/
theorem Sparse.get?_above (m : Sparse α) (b k : Nat) (h : Sparse.above (some b) m = true) (hk : k ≤ b) : Sparse.get? m k = none := by
  cases m with
  | nil => rfl
  | cons p r =>
    obtain ⟨j, v⟩ := p
    simp only [Sparse.above, Bool.and_eq_true, decide_eq_true_eq] at h
    simp only [Sparse.get?]
    rw [if_neg (by omega), if_pos (by omega)]

theorem Sparse.above_put (m : Sparse α) (b : Option Nat) (k : Nat) (v : α) (h : Sparse.above b m = true)
    (hk : ∀ x, b = some x → x < k) : Sparse.above b (Sparse.put m k v) = true := by
  induction m generalizing b with
  | nil => cases b <;> simp_all [Sparse.put, Sparse.above]
  | cons p r ih =>
    obtain ⟨j, w⟩ := p
    simp only [Sparse.above, Bool.and_eq_true] at h
    simp only [Sparse.put]
    split
    · cases b <;> simp_all [Sparse.above]
    · split
      · rename_i e; subst e; cases b <;> simp_all [Sparse.above]
      · simp only [Sparse.above, Bool.and_eq_true]
        exact ⟨h.1, ih _ h.2 (by intro x e; cases e; omega)⟩

theorem Sparse.above_erase (m : Sparse α) (b : Option Nat) (k : Nat) (h : Sparse.above b m = true) :
    Sparse.above b (Sparse.erase m k) = true := by
  induction m generalizing b with
  | nil => exact h
  | cons p r ih =>
    obtain ⟨j, w⟩ := p
    simp only [Sparse.erase]
    split
    · simp only [Sparse.above, Bool.and_eq_true] at h
      cases b with
      | none => exact Sparse.above_mono r (some j) h.2
      | some x =>
        simp only [decide_eq_true_eq] at h
        exact Sparse.above_lower r x j (by omega) h.2
    · split
      · exact h
      · simp only [Sparse.above, Bool.and_eq_true] at h ⊢
        exact ⟨h.1, ih _ h.2⟩

theorem Sparse.packed_put [DecidableEq α] (d : α) (m : Sparse α) (k : Nat) (v : α) (h : Sparse.packed d m = true) (hv : v ≠ d) :
    Sparse.packed d (Sparse.put m k v) = true := by
  induction m with
  | nil => simp [Sparse.put, Sparse.packed, hv]
  | cons p r ih =>
    obtain ⟨j, w⟩ := p
    simp only [Sparse.packed, Bool.and_eq_true] at h
    simp only [Sparse.put]
    split
    · simp [Sparse.packed, hv, h]
    · split
      · simp [Sparse.packed, hv, h]
      · simp [Sparse.packed, h.1, ih h.2]

theorem Sparse.packed_erase [DecidableEq α] (d : α) (m : Sparse α) (k : Nat) (h : Sparse.packed d m = true) :
    Sparse.packed d (Sparse.erase m k) = true := by
  induction m with
  | nil => rfl
  | cons p r ih =>
    obtain ⟨j, w⟩ := p
    have h' := h
    simp only [Sparse.packed, Bool.and_eq_true] at h'
    simp only [Sparse.erase]
    split
    · exact h'.2
    · split
      · exact h
      · simp [Sparse.packed, h'.1, ih h'.2]

theorem Sparse.get?_put_self (m : Sparse α) (k : Nat) (v : α) : Sparse.get? (Sparse.put m k v) k = some v := by
  induction m with
  | nil => simp [Sparse.put, Sparse.get?]
  | cons p r ih =>
    obtain ⟨j, w⟩ := p
    simp only [Sparse.put]
    split
    · simp [Sparse.get?]
    · split
      · simp [Sparse.get?]
      · simp only [Sparse.get?]
        rw [if_neg (by omega), if_neg (by omega), ih]

theorem Sparse.get?_put_ne (m : Sparse α) (k i : Nat) (v : α) (h : i ≠ k) :
    Sparse.get? (Sparse.put m k v) i = Sparse.get? m i := by
  induction m with
  | nil =>
    simp only [Sparse.put, Sparse.get?]
    rw [if_neg (by omega)]
    split <;> rfl
  | cons p r ih =>
    obtain ⟨j, w⟩ := p
    simp only [Sparse.put]
    split
    · simp only [Sparse.get?]
      rw [if_neg (show ¬k = i by omega)]
      split
      · split
        · omega
        · split
          · rfl
          · omega
      · rfl
    · split
      · simp only [Sparse.get?]
        rw [if_neg (show ¬k = i by omega)]
        rename_i e
        rw [if_neg (show ¬j = i by omega)]
        subst e
        rfl
      · simp only [Sparse.get?, ih]

theorem Sparse.get?_erase_self (m : Sparse α) (b : Option Nat) (k : Nat) (h : Sparse.above b m = true) :
    Sparse.get? (Sparse.erase m k) k = none := by
  induction m generalizing b with
  | nil => rfl
  | cons p r ih =>
    obtain ⟨j, w⟩ := p
    simp only [Sparse.above, Bool.and_eq_true] at h
    simp only [Sparse.erase]
    split
    · rename_i e; subst e; exact Sparse.get?_above r j j h.2 (Nat.le_refl j)
    · split
      · simp only [Sparse.get?]
        rw [if_neg (by omega), if_pos (by omega)]
      · simp only [Sparse.get?]
        rw [if_neg (by omega), if_neg (by omega), ih _ h.2]

theorem Sparse.get?_erase_ne (m : Sparse α) (b : Option Nat) (k i : Nat) (h : Sparse.above b m = true) (hi : i ≠ k) :
    Sparse.get? (Sparse.erase m k) i = Sparse.get? m i := by
  induction m generalizing b with
  | nil => rfl
  | cons p r ih =>
    obtain ⟨j, w⟩ := p
    simp only [Sparse.above, Bool.and_eq_true] at h
    simp only [Sparse.erase]
    split
    · rename_i e
      simp only [Sparse.get?]
      rw [if_neg (show ¬j = i by omega)]
      split
      · exact Sparse.get?_above r j i h.2 (by omega)
      · rfl
    · split
      · rfl
      · simp only [Sparse.get?, ih _ h.2]

theorem Memory.wf_sorted (m : Memory) (h : m.wf = true) : Sparse.above none m = true := by
  simp only [Memory.wf, Sparse.sorted, Bool.and_eq_true] at h; exact h.1
theorem Memory.wf_packed (m : Memory) (h : m.wf = true) : Sparse.packed Memory.blank m = true := by
  simp only [Memory.wf, Bool.and_eq_true] at h; exact h.2
theorem Memory.wf_of (m : Memory) (h : Sparse.above none m = true) (g : Sparse.packed Memory.blank m = true) : m.wf = true := by
  simp [Memory.wf, Sparse.sorted, h, g]

theorem Memory.wf_nil : Memory.wf [] = true := rfl

/-- A byte written is the byte read. -/
theorem Memory.read_write (m : Memory) (a : Nat) (b : Byte) (h : m.wf = true) : Memory.read (Memory.write m a b) a = b := by
  simp only [Memory.read, Memory.write, Sparse.set, Sparse.get]
  split
  · rename_i e
    rw [Sparse.get?_erase_self m none a (Memory.wf_sorted m h)]
    exact e.symm
  · rw [Sparse.get?_put_self]; rfl

/-- A write leaves every other byte alone. -/
theorem Memory.read_write_other (m : Memory) (a i : Nat) (b : Byte) (h : m.wf = true) (hi : i ≠ a) :
    Memory.read (Memory.write m a b) i = Memory.read m i := by
  simp only [Memory.read, Memory.write, Sparse.set, Sparse.get]
  split
  · rw [Sparse.get?_erase_ne m none a i (Memory.wf_sorted m h) hi]
  · rw [Sparse.get?_put_ne m a i b hi]

/-- A write keeps the canonical form. -/
theorem Memory.wf_write (m : Memory) (a : Nat) (b : Byte) (h : m.wf = true) : (Memory.write m a b).wf = true := by
  have hs := Memory.wf_sorted m h
  have hp := Memory.wf_packed m h
  simp only [Memory.write, Sparse.set]
  split
  · exact Memory.wf_of _ (Sparse.above_erase m none a hs) (Sparse.packed_erase _ m a hp)
  · rename_i e
    exact Memory.wf_of _ (Sparse.above_put m none a b hs (by intro x h; cases h)) (Sparse.packed_put _ m a b hp e)

theorem Memory.wf_writeAll (bs : List Byte) (m : Memory) (a : Nat) (h : m.wf = true) : (Memory.writeAll m a bs).wf = true := by
  induction bs generalizing m a with
  | nil => exact h
  | cons b r ih => exact ih _ _ (Memory.wf_write m a b h)

theorem Memory.read_writeAll_other (bs : List Byte) (m : Memory) (a i : Nat) (h : m.wf = true) (hi : i < a ∨ a + bs.length ≤ i) :
    Memory.read (Memory.writeAll m a bs) i = Memory.read m i := by
  induction bs generalizing m a with
  | nil => rfl
  | cons b r ih =>
    simp only [List.length_cons] at hi
    rw [Memory.writeAll, ih _ _ (Memory.wf_write m a b h) (by omega), Memory.read_write_other m a i b h (by omega)]

/-- Bytes written are the bytes read. -/
theorem Memory.readAll_writeAll (bs : List Byte) (m : Memory) (a : Nat) (h : m.wf = true) :
    Memory.readAll (Memory.writeAll m a bs) a bs.length = bs := by
  induction bs generalizing m a with
  | nil => rfl
  | cons b r ih =>
    have hw := Memory.wf_write m a b h
    simp only [List.length_cons, Memory.readAll, Memory.writeAll]
    rw [ih _ _ hw, Memory.read_writeAll_other r _ (a + 1) a hw (by omega), Memory.read_write m a b h]

theorem Sparse.above_filter (p : Nat × α → Bool) (m : Sparse α) (b : Option Nat) (h : Sparse.above b m = true) :
    Sparse.above b (m.filter p) = true := by
  induction m generalizing b with
  | nil => exact h
  | cons q r ih =>
    obtain ⟨j, v⟩ := q
    simp only [Sparse.above, Bool.and_eq_true] at h
    have hr := ih _ h.2
    simp only [List.filter]
    split
    · simp only [Sparse.above, Bool.and_eq_true]; exact ⟨h.1, hr⟩
    · cases b with
      | none => exact Sparse.above_mono _ _ hr
      | some x =>
        simp only [decide_eq_true_eq] at h
        exact Sparse.above_lower _ x j (by omega) hr

theorem Sparse.packed_filter [DecidableEq α] (d : α) (p : Nat × α → Bool) (m : Sparse α) (h : Sparse.packed d m = true) :
    Sparse.packed d (m.filter p) = true := by
  induction m with
  | nil => rfl
  | cons q r ih =>
    obtain ⟨j, v⟩ := q
    simp only [Sparse.packed, Bool.and_eq_true] at h
    simp only [List.filter]
    split
    · simp [Sparse.packed, h.1, ih h.2]
    · exact ih h.2

theorem Memory.wf_filter (p : Host.Cell → Bool) (m : Memory) (h : m.wf = true) : Memory.wf (m.filter p) = true :=
  Memory.wf_of _ (Sparse.above_filter p m none (Memory.wf_sorted m h)) (Sparse.packed_filter _ p m (Memory.wf_packed m h))

/-- A loop of memory operations keeps the canonical form if each does. -/
theorem Memory.wf_foldl {β : Type} (g : Memory → β → Memory) (l : List β) (m : Memory) (h : m.wf = true)
    (hg : ∀ m x, Memory.wf m = true → Memory.wf (g m x) = true) : Memory.wf (l.foldl g m) = true := by
  induction l generalizing m with
  | nil => exact h
  | cons x r ih => exact ih _ (hg m x h)

theorem Machine.Memory.wf_without (m : Memory) (lo n : Nat) (h : m.wf = true) : (Machine.Memory.without m lo n).wf = true :=
  Memory.wf_filter _ m h
theorem Machine.Memory.wf_range (m : Memory) (lo n : Nat) (h : m.wf = true) : (Machine.Memory.range m lo n).wf = true :=
  Memory.wf_filter _ m h
theorem Machine.Memory.wf_copyIn (m src : Memory) (lo n from_ : Nat) (h : m.wf = true) :
    (Machine.Memory.copyIn m lo n src from_).wf = true :=
  Memory.wf_foldl _ _ _ (Machine.Memory.wf_without m lo n h) fun m x hm => Memory.wf_write m _ x.2 hm

theorem Machine.State.reset_memory_wf :
    Machine.State.reset.hbm.wf = true ∧ Machine.State.reset.l2.wf = true ∧ Machine.State.reset.flash.wf = true := ⟨rfl, rfl, rfl⟩

end Sys2Proof
end

