-- ==== Sys2Proof/Laws/State.lean ====
section
/-! SUPPORT. One lemma for each field and each update of the state and of a warp: what the update leaves. -/

namespace Sys2Proof.Machine

@[simp] theorem State.setCore_part (s : State) (c : Nat) (k : Core) : (s.setCore c k).part = s.part := rfl
@[simp] theorem State.setCore_boot (s : State) (c : Nat) (k : Core) : (s.setCore c k).boot = s.boot := rfl
@[simp] theorem State.setCore_cycle (s : State) (c : Nat) (k : Core) : (s.setCore c k).cycle = s.cycle := rfl
@[simp] theorem State.setCore_now (s : State) (c : Nat) (k : Core) : (s.setCore c k).now = s.now := rfl
@[simp] theorem State.setCore_phase (s : State) (c : Nat) (k : Core) : (s.setCore c k).phase = s.phase := rfl
@[simp] theorem State.setCore_clockStep (s : State) (c : Nat) (k : Core) : (s.setCore c k).clockStep = s.clockStep := rfl
@[simp] theorem State.setCore_clockCmd (s : State) (c : Nat) (k : Core) : (s.setCore c k).clockCmd = s.clockCmd := rfl
@[simp] theorem State.setCore_lastAdjust (s : State) (c : Nat) (k : Core) : (s.setCore c k).lastAdjust = s.lastAdjust := rfl
@[simp] theorem State.setCore_hold (s : State) (c : Nat) (k : Core) : (s.setCore c k).hold = s.hold := rfl
@[simp] theorem State.setCore_pkg (s : State) (c : Nat) (k : Core) : (s.setCore c k).pkg = s.pkg := rfl
@[simp] theorem State.setCore_hbm (s : State) (c : Nat) (k : Core) : (s.setCore c k).hbm = s.hbm := rfl
@[simp] theorem State.setCore_l2 (s : State) (c : Nat) (k : Core) : (s.setCore c k).l2 = s.l2 := rfl
@[simp] theorem State.setCore_flash (s : State) (c : Nat) (k : Core) : (s.setCore c k).flash = s.flash := rfl
@[simp] theorem State.setCore_hbmErrs (s : State) (c : Nat) (k : Core) : (s.setCore c k).hbmErrs = s.hbmErrs := rfl
@[simp] theorem State.setCore_groups (s : State) (c : Nat) (k : Core) : (s.setCore c k).groups = s.groups := rfl
@[simp] theorem State.setCore_gangs (s : State) (c : Nat) (k : Core) : (s.setCore c k).gangs = s.gangs := rfl
@[simp] theorem State.setCore_ghosts (s : State) (c : Nat) (k : Core) : (s.setCore c k).ghosts = s.ghosts := rfl
@[simp] theorem State.setCore_clusters (s : State) (c : Nat) (k : Core) : (s.setCore c k).clusters = s.clusters := rfl
@[simp] theorem State.setCore_dies (s : State) (c : Nat) (k : Core) : (s.setCore c k).dies = s.dies := rfl
@[simp] theorem State.setCore_slices (s : State) (c : Nat) (k : Core) : (s.setCore c k).slices = s.slices := rfl
@[simp] theorem State.setCore_ops (s : State) (c : Nat) (k : Core) : (s.setCore c k).ops = s.ops := rfl
@[simp] theorem State.setCore_io (s : State) (c : Nat) (k : Core) : (s.setCore c k).io = s.io := rfl
@[simp] theorem State.setCore_routes (s : State) (c : Nat) (k : Core) : (s.setCore c k).routes = s.routes := rfl
@[simp] theorem State.setCore_hot (s : State) (c : Nat) (k : Core) : (s.setCore c k).hot = s.hot := rfl
@[simp] theorem State.setCore_agenda (s : State) (c : Nat) (k : Core) : (s.setCore c k).agenda = s.agenda := rfl
@[simp] theorem State.setCore_input (s : State) (c : Nat) (k : Core) : (s.setCore c k).input = s.input := rfl
@[simp] theorem State.setCore_late (s : State) (c : Nat) (k : Core) : (s.setCore c k).late = s.late := rfl
@[simp] theorem State.setCore_units (s : State) (c : Nat) (k : Core) : (s.setCore c k).units = s.units := rfl
@[simp] theorem State.setCore_selfCore (s : State) (c : Nat) (k : Core) : (s.setCore c k).selfCore = s.selfCore := rfl
@[simp] theorem State.setCore_selfSlot (s : State) (c : Nat) (k : Core) : (s.setCore c k).selfSlot = s.selfSlot := rfl
@[simp] theorem State.setCore_issued (s : State) (c : Nat) (k : Core) : (s.setCore c k).issued = s.issued := rfl
@[simp] theorem State.setCore_free (s : State) (c : Nat) (k : Core) : (s.setCore c k).free = s.free := rfl
@[simp] theorem State.setCore_nextId (s : State) (c : Nat) (k : Core) : (s.setCore c k).nextId = s.nextId := rfl

@[simp] theorem State.setSlice_part (s : State) (n : Nat) (x : Slice) : (s.setSlice n x).part = s.part := rfl
@[simp] theorem State.setSlice_boot (s : State) (n : Nat) (x : Slice) : (s.setSlice n x).boot = s.boot := rfl
@[simp] theorem State.setSlice_cycle (s : State) (n : Nat) (x : Slice) : (s.setSlice n x).cycle = s.cycle := rfl
@[simp] theorem State.setSlice_now (s : State) (n : Nat) (x : Slice) : (s.setSlice n x).now = s.now := rfl
@[simp] theorem State.setSlice_phase (s : State) (n : Nat) (x : Slice) : (s.setSlice n x).phase = s.phase := rfl
@[simp] theorem State.setSlice_clockStep (s : State) (n : Nat) (x : Slice) : (s.setSlice n x).clockStep = s.clockStep := rfl
@[simp] theorem State.setSlice_clockCmd (s : State) (n : Nat) (x : Slice) : (s.setSlice n x).clockCmd = s.clockCmd := rfl
@[simp] theorem State.setSlice_lastAdjust (s : State) (n : Nat) (x : Slice) : (s.setSlice n x).lastAdjust = s.lastAdjust := rfl
@[simp] theorem State.setSlice_hold (s : State) (n : Nat) (x : Slice) : (s.setSlice n x).hold = s.hold := rfl
@[simp] theorem State.setSlice_pkg (s : State) (n : Nat) (x : Slice) : (s.setSlice n x).pkg = s.pkg := rfl
@[simp] theorem State.setSlice_hbm (s : State) (n : Nat) (x : Slice) : (s.setSlice n x).hbm = s.hbm := rfl
@[simp] theorem State.setSlice_l2 (s : State) (n : Nat) (x : Slice) : (s.setSlice n x).l2 = s.l2 := rfl
@[simp] theorem State.setSlice_flash (s : State) (n : Nat) (x : Slice) : (s.setSlice n x).flash = s.flash := rfl
@[simp] theorem State.setSlice_hbmErrs (s : State) (n : Nat) (x : Slice) : (s.setSlice n x).hbmErrs = s.hbmErrs := rfl
@[simp] theorem State.setSlice_cores (s : State) (n : Nat) (x : Slice) : (s.setSlice n x).cores = s.cores := rfl
@[simp] theorem State.setSlice_groups (s : State) (n : Nat) (x : Slice) : (s.setSlice n x).groups = s.groups := rfl
@[simp] theorem State.setSlice_gangs (s : State) (n : Nat) (x : Slice) : (s.setSlice n x).gangs = s.gangs := rfl
@[simp] theorem State.setSlice_ghosts (s : State) (n : Nat) (x : Slice) : (s.setSlice n x).ghosts = s.ghosts := rfl
@[simp] theorem State.setSlice_clusters (s : State) (n : Nat) (x : Slice) : (s.setSlice n x).clusters = s.clusters := rfl
@[simp] theorem State.setSlice_dies (s : State) (n : Nat) (x : Slice) : (s.setSlice n x).dies = s.dies := rfl
@[simp] theorem State.setSlice_ops (s : State) (n : Nat) (x : Slice) : (s.setSlice n x).ops = s.ops := rfl
@[simp] theorem State.setSlice_io (s : State) (n : Nat) (x : Slice) : (s.setSlice n x).io = s.io := rfl
@[simp] theorem State.setSlice_routes (s : State) (n : Nat) (x : Slice) : (s.setSlice n x).routes = s.routes := rfl
@[simp] theorem State.setSlice_hot (s : State) (n : Nat) (x : Slice) : (s.setSlice n x).hot = s.hot := rfl
@[simp] theorem State.setSlice_agenda (s : State) (n : Nat) (x : Slice) : (s.setSlice n x).agenda = s.agenda := rfl
@[simp] theorem State.setSlice_input (s : State) (n : Nat) (x : Slice) : (s.setSlice n x).input = s.input := rfl
@[simp] theorem State.setSlice_late (s : State) (n : Nat) (x : Slice) : (s.setSlice n x).late = s.late := rfl
@[simp] theorem State.setSlice_units (s : State) (n : Nat) (x : Slice) : (s.setSlice n x).units = s.units := rfl
@[simp] theorem State.setSlice_selfCore (s : State) (n : Nat) (x : Slice) : (s.setSlice n x).selfCore = s.selfCore := rfl
@[simp] theorem State.setSlice_selfSlot (s : State) (n : Nat) (x : Slice) : (s.setSlice n x).selfSlot = s.selfSlot := rfl
@[simp] theorem State.setSlice_issued (s : State) (n : Nat) (x : Slice) : (s.setSlice n x).issued = s.issued := rfl
@[simp] theorem State.setSlice_free (s : State) (n : Nat) (x : Slice) : (s.setSlice n x).free = s.free := rfl
@[simp] theorem State.setSlice_nextId (s : State) (n : Nat) (x : Slice) : (s.setSlice n x).nextId = s.nextId := rfl

@[simp] theorem State.setDie_part (s : State) (d : Nat) (x : Die) : (s.setDie d x).part = s.part := rfl
@[simp] theorem State.setDie_boot (s : State) (d : Nat) (x : Die) : (s.setDie d x).boot = s.boot := rfl
@[simp] theorem State.setDie_cycle (s : State) (d : Nat) (x : Die) : (s.setDie d x).cycle = s.cycle := rfl
@[simp] theorem State.setDie_now (s : State) (d : Nat) (x : Die) : (s.setDie d x).now = s.now := rfl
@[simp] theorem State.setDie_phase (s : State) (d : Nat) (x : Die) : (s.setDie d x).phase = s.phase := rfl
@[simp] theorem State.setDie_clockStep (s : State) (d : Nat) (x : Die) : (s.setDie d x).clockStep = s.clockStep := rfl
@[simp] theorem State.setDie_clockCmd (s : State) (d : Nat) (x : Die) : (s.setDie d x).clockCmd = s.clockCmd := rfl
@[simp] theorem State.setDie_lastAdjust (s : State) (d : Nat) (x : Die) : (s.setDie d x).lastAdjust = s.lastAdjust := rfl
@[simp] theorem State.setDie_hold (s : State) (d : Nat) (x : Die) : (s.setDie d x).hold = s.hold := rfl
@[simp] theorem State.setDie_pkg (s : State) (d : Nat) (x : Die) : (s.setDie d x).pkg = s.pkg := rfl
@[simp] theorem State.setDie_hbm (s : State) (d : Nat) (x : Die) : (s.setDie d x).hbm = s.hbm := rfl
@[simp] theorem State.setDie_l2 (s : State) (d : Nat) (x : Die) : (s.setDie d x).l2 = s.l2 := rfl
@[simp] theorem State.setDie_flash (s : State) (d : Nat) (x : Die) : (s.setDie d x).flash = s.flash := rfl
@[simp] theorem State.setDie_hbmErrs (s : State) (d : Nat) (x : Die) : (s.setDie d x).hbmErrs = s.hbmErrs := rfl
@[simp] theorem State.setDie_cores (s : State) (d : Nat) (x : Die) : (s.setDie d x).cores = s.cores := rfl
@[simp] theorem State.setDie_groups (s : State) (d : Nat) (x : Die) : (s.setDie d x).groups = s.groups := rfl
@[simp] theorem State.setDie_gangs (s : State) (d : Nat) (x : Die) : (s.setDie d x).gangs = s.gangs := rfl
@[simp] theorem State.setDie_ghosts (s : State) (d : Nat) (x : Die) : (s.setDie d x).ghosts = s.ghosts := rfl
@[simp] theorem State.setDie_clusters (s : State) (d : Nat) (x : Die) : (s.setDie d x).clusters = s.clusters := rfl
@[simp] theorem State.setDie_slices (s : State) (d : Nat) (x : Die) : (s.setDie d x).slices = s.slices := rfl
@[simp] theorem State.setDie_ops (s : State) (d : Nat) (x : Die) : (s.setDie d x).ops = s.ops := rfl
@[simp] theorem State.setDie_io (s : State) (d : Nat) (x : Die) : (s.setDie d x).io = s.io := rfl
@[simp] theorem State.setDie_routes (s : State) (d : Nat) (x : Die) : (s.setDie d x).routes = s.routes := rfl
@[simp] theorem State.setDie_hot (s : State) (d : Nat) (x : Die) : (s.setDie d x).hot = s.hot := rfl
@[simp] theorem State.setDie_agenda (s : State) (d : Nat) (x : Die) : (s.setDie d x).agenda = s.agenda := rfl
@[simp] theorem State.setDie_input (s : State) (d : Nat) (x : Die) : (s.setDie d x).input = s.input := rfl
@[simp] theorem State.setDie_late (s : State) (d : Nat) (x : Die) : (s.setDie d x).late = s.late := rfl
@[simp] theorem State.setDie_units (s : State) (d : Nat) (x : Die) : (s.setDie d x).units = s.units := rfl
@[simp] theorem State.setDie_selfCore (s : State) (d : Nat) (x : Die) : (s.setDie d x).selfCore = s.selfCore := rfl
@[simp] theorem State.setDie_selfSlot (s : State) (d : Nat) (x : Die) : (s.setDie d x).selfSlot = s.selfSlot := rfl
@[simp] theorem State.setDie_issued (s : State) (d : Nat) (x : Die) : (s.setDie d x).issued = s.issued := rfl
@[simp] theorem State.setDie_free (s : State) (d : Nat) (x : Die) : (s.setDie d x).free = s.free := rfl
@[simp] theorem State.setDie_nextId (s : State) (d : Nat) (x : Die) : (s.setDie d x).nextId = s.nextId := rfl

@[simp] theorem State.setOp_part (s : State) (id : Nat) (o : MemOp) : (s.setOp id o).part = s.part := rfl
@[simp] theorem State.setOp_boot (s : State) (id : Nat) (o : MemOp) : (s.setOp id o).boot = s.boot := rfl
@[simp] theorem State.setOp_cycle (s : State) (id : Nat) (o : MemOp) : (s.setOp id o).cycle = s.cycle := rfl
@[simp] theorem State.setOp_now (s : State) (id : Nat) (o : MemOp) : (s.setOp id o).now = s.now := rfl
@[simp] theorem State.setOp_phase (s : State) (id : Nat) (o : MemOp) : (s.setOp id o).phase = s.phase := rfl
@[simp] theorem State.setOp_clockStep (s : State) (id : Nat) (o : MemOp) : (s.setOp id o).clockStep = s.clockStep := rfl
@[simp] theorem State.setOp_clockCmd (s : State) (id : Nat) (o : MemOp) : (s.setOp id o).clockCmd = s.clockCmd := rfl
@[simp] theorem State.setOp_lastAdjust (s : State) (id : Nat) (o : MemOp) : (s.setOp id o).lastAdjust = s.lastAdjust := rfl
@[simp] theorem State.setOp_hold (s : State) (id : Nat) (o : MemOp) : (s.setOp id o).hold = s.hold := rfl
@[simp] theorem State.setOp_pkg (s : State) (id : Nat) (o : MemOp) : (s.setOp id o).pkg = s.pkg := rfl
@[simp] theorem State.setOp_hbm (s : State) (id : Nat) (o : MemOp) : (s.setOp id o).hbm = s.hbm := rfl
@[simp] theorem State.setOp_l2 (s : State) (id : Nat) (o : MemOp) : (s.setOp id o).l2 = s.l2 := rfl
@[simp] theorem State.setOp_flash (s : State) (id : Nat) (o : MemOp) : (s.setOp id o).flash = s.flash := rfl
@[simp] theorem State.setOp_hbmErrs (s : State) (id : Nat) (o : MemOp) : (s.setOp id o).hbmErrs = s.hbmErrs := rfl
@[simp] theorem State.setOp_cores (s : State) (id : Nat) (o : MemOp) : (s.setOp id o).cores = s.cores := rfl
@[simp] theorem State.setOp_groups (s : State) (id : Nat) (o : MemOp) : (s.setOp id o).groups = s.groups := rfl
@[simp] theorem State.setOp_gangs (s : State) (id : Nat) (o : MemOp) : (s.setOp id o).gangs = s.gangs := rfl
@[simp] theorem State.setOp_ghosts (s : State) (id : Nat) (o : MemOp) : (s.setOp id o).ghosts = s.ghosts := rfl
@[simp] theorem State.setOp_clusters (s : State) (id : Nat) (o : MemOp) : (s.setOp id o).clusters = s.clusters := rfl
@[simp] theorem State.setOp_dies (s : State) (id : Nat) (o : MemOp) : (s.setOp id o).dies = s.dies := rfl
@[simp] theorem State.setOp_slices (s : State) (id : Nat) (o : MemOp) : (s.setOp id o).slices = s.slices := rfl
@[simp] theorem State.setOp_io (s : State) (id : Nat) (o : MemOp) : (s.setOp id o).io = s.io := rfl
@[simp] theorem State.setOp_routes (s : State) (id : Nat) (o : MemOp) : (s.setOp id o).routes = s.routes := rfl
@[simp] theorem State.setOp_hot (s : State) (id : Nat) (o : MemOp) : (s.setOp id o).hot = s.hot := rfl
@[simp] theorem State.setOp_agenda (s : State) (id : Nat) (o : MemOp) : (s.setOp id o).agenda = s.agenda := rfl
@[simp] theorem State.setOp_input (s : State) (id : Nat) (o : MemOp) : (s.setOp id o).input = s.input := rfl
@[simp] theorem State.setOp_late (s : State) (id : Nat) (o : MemOp) : (s.setOp id o).late = s.late := rfl
@[simp] theorem State.setOp_units (s : State) (id : Nat) (o : MemOp) : (s.setOp id o).units = s.units := rfl
@[simp] theorem State.setOp_selfCore (s : State) (id : Nat) (o : MemOp) : (s.setOp id o).selfCore = s.selfCore := rfl
@[simp] theorem State.setOp_selfSlot (s : State) (id : Nat) (o : MemOp) : (s.setOp id o).selfSlot = s.selfSlot := rfl
@[simp] theorem State.setOp_issued (s : State) (id : Nat) (o : MemOp) : (s.setOp id o).issued = s.issued := rfl
@[simp] theorem State.setOp_free (s : State) (id : Nat) (o : MemOp) : (s.setOp id o).free = s.free := rfl
@[simp] theorem State.setOp_nextId (s : State) (id : Nat) (o : MemOp) : (s.setOp id o).nextId = s.nextId := rfl

@[simp] theorem State.dropOp_part (s : State) (id : Nat) : (s.dropOp id).part = s.part := rfl
@[simp] theorem State.dropOp_boot (s : State) (id : Nat) : (s.dropOp id).boot = s.boot := rfl
@[simp] theorem State.dropOp_cycle (s : State) (id : Nat) : (s.dropOp id).cycle = s.cycle := rfl
@[simp] theorem State.dropOp_now (s : State) (id : Nat) : (s.dropOp id).now = s.now := rfl
@[simp] theorem State.dropOp_phase (s : State) (id : Nat) : (s.dropOp id).phase = s.phase := rfl
@[simp] theorem State.dropOp_clockStep (s : State) (id : Nat) : (s.dropOp id).clockStep = s.clockStep := rfl
@[simp] theorem State.dropOp_clockCmd (s : State) (id : Nat) : (s.dropOp id).clockCmd = s.clockCmd := rfl
@[simp] theorem State.dropOp_lastAdjust (s : State) (id : Nat) : (s.dropOp id).lastAdjust = s.lastAdjust := rfl
@[simp] theorem State.dropOp_hold (s : State) (id : Nat) : (s.dropOp id).hold = s.hold := rfl
@[simp] theorem State.dropOp_pkg (s : State) (id : Nat) : (s.dropOp id).pkg = s.pkg := rfl
@[simp] theorem State.dropOp_hbm (s : State) (id : Nat) : (s.dropOp id).hbm = s.hbm := rfl
@[simp] theorem State.dropOp_l2 (s : State) (id : Nat) : (s.dropOp id).l2 = s.l2 := rfl
@[simp] theorem State.dropOp_flash (s : State) (id : Nat) : (s.dropOp id).flash = s.flash := rfl
@[simp] theorem State.dropOp_hbmErrs (s : State) (id : Nat) : (s.dropOp id).hbmErrs = s.hbmErrs := rfl
@[simp] theorem State.dropOp_cores (s : State) (id : Nat) : (s.dropOp id).cores = s.cores := rfl
@[simp] theorem State.dropOp_groups (s : State) (id : Nat) : (s.dropOp id).groups = s.groups := rfl
@[simp] theorem State.dropOp_gangs (s : State) (id : Nat) : (s.dropOp id).gangs = s.gangs := rfl
@[simp] theorem State.dropOp_ghosts (s : State) (id : Nat) : (s.dropOp id).ghosts = s.ghosts := rfl
@[simp] theorem State.dropOp_clusters (s : State) (id : Nat) : (s.dropOp id).clusters = s.clusters := rfl
@[simp] theorem State.dropOp_dies (s : State) (id : Nat) : (s.dropOp id).dies = s.dies := rfl
@[simp] theorem State.dropOp_slices (s : State) (id : Nat) : (s.dropOp id).slices = s.slices := rfl
@[simp] theorem State.dropOp_io (s : State) (id : Nat) : (s.dropOp id).io = s.io := rfl
@[simp] theorem State.dropOp_routes (s : State) (id : Nat) : (s.dropOp id).routes = s.routes := rfl
@[simp] theorem State.dropOp_hot (s : State) (id : Nat) : (s.dropOp id).hot = s.hot := rfl
@[simp] theorem State.dropOp_agenda (s : State) (id : Nat) : (s.dropOp id).agenda = s.agenda := rfl
@[simp] theorem State.dropOp_input (s : State) (id : Nat) : (s.dropOp id).input = s.input := rfl
@[simp] theorem State.dropOp_late (s : State) (id : Nat) : (s.dropOp id).late = s.late := rfl
@[simp] theorem State.dropOp_units (s : State) (id : Nat) : (s.dropOp id).units = s.units := rfl
@[simp] theorem State.dropOp_selfCore (s : State) (id : Nat) : (s.dropOp id).selfCore = s.selfCore := rfl
@[simp] theorem State.dropOp_selfSlot (s : State) (id : Nat) : (s.dropOp id).selfSlot = s.selfSlot := rfl
@[simp] theorem State.dropOp_issued (s : State) (id : Nat) : (s.dropOp id).issued = s.issued := rfl
@[simp] theorem State.dropOp_free (s : State) (id : Nat) : (s.dropOp id).free = s.free := rfl
@[simp] theorem State.dropOp_nextId (s : State) (id : Nat) : (s.dropOp id).nextId = s.nextId := rfl

@[simp] theorem State.postWith_part (s : State) (x : Due) : (s.postWith x).part = s.part := rfl
@[simp] theorem State.postWith_boot (s : State) (x : Due) : (s.postWith x).boot = s.boot := rfl
@[simp] theorem State.postWith_cycle (s : State) (x : Due) : (s.postWith x).cycle = s.cycle := rfl
@[simp] theorem State.postWith_now (s : State) (x : Due) : (s.postWith x).now = s.now := rfl
@[simp] theorem State.postWith_phase (s : State) (x : Due) : (s.postWith x).phase = s.phase := rfl
@[simp] theorem State.postWith_clockStep (s : State) (x : Due) : (s.postWith x).clockStep = s.clockStep := rfl
@[simp] theorem State.postWith_clockCmd (s : State) (x : Due) : (s.postWith x).clockCmd = s.clockCmd := rfl
@[simp] theorem State.postWith_lastAdjust (s : State) (x : Due) : (s.postWith x).lastAdjust = s.lastAdjust := rfl
@[simp] theorem State.postWith_hold (s : State) (x : Due) : (s.postWith x).hold = s.hold := rfl
@[simp] theorem State.postWith_pkg (s : State) (x : Due) : (s.postWith x).pkg = s.pkg := rfl
@[simp] theorem State.postWith_hbm (s : State) (x : Due) : (s.postWith x).hbm = s.hbm := rfl
@[simp] theorem State.postWith_l2 (s : State) (x : Due) : (s.postWith x).l2 = s.l2 := rfl
@[simp] theorem State.postWith_flash (s : State) (x : Due) : (s.postWith x).flash = s.flash := rfl
@[simp] theorem State.postWith_hbmErrs (s : State) (x : Due) : (s.postWith x).hbmErrs = s.hbmErrs := rfl
@[simp] theorem State.postWith_cores (s : State) (x : Due) : (s.postWith x).cores = s.cores := rfl
@[simp] theorem State.postWith_groups (s : State) (x : Due) : (s.postWith x).groups = s.groups := rfl
@[simp] theorem State.postWith_gangs (s : State) (x : Due) : (s.postWith x).gangs = s.gangs := rfl
@[simp] theorem State.postWith_ghosts (s : State) (x : Due) : (s.postWith x).ghosts = s.ghosts := rfl
@[simp] theorem State.postWith_clusters (s : State) (x : Due) : (s.postWith x).clusters = s.clusters := rfl
@[simp] theorem State.postWith_dies (s : State) (x : Due) : (s.postWith x).dies = s.dies := rfl
@[simp] theorem State.postWith_slices (s : State) (x : Due) : (s.postWith x).slices = s.slices := rfl
@[simp] theorem State.postWith_ops (s : State) (x : Due) : (s.postWith x).ops = s.ops := rfl
@[simp] theorem State.postWith_io (s : State) (x : Due) : (s.postWith x).io = s.io := rfl
@[simp] theorem State.postWith_routes (s : State) (x : Due) : (s.postWith x).routes = s.routes := rfl
@[simp] theorem State.postWith_hot (s : State) (x : Due) : (s.postWith x).hot = s.hot := rfl
@[simp] theorem State.postWith_input (s : State) (x : Due) : (s.postWith x).input = s.input := rfl
@[simp] theorem State.postWith_late (s : State) (x : Due) : (s.postWith x).late = s.late := rfl
@[simp] theorem State.postWith_units (s : State) (x : Due) : (s.postWith x).units = s.units := rfl
@[simp] theorem State.postWith_selfCore (s : State) (x : Due) : (s.postWith x).selfCore = s.selfCore := rfl
@[simp] theorem State.postWith_selfSlot (s : State) (x : Due) : (s.postWith x).selfSlot = s.selfSlot := rfl
@[simp] theorem State.postWith_issued (s : State) (x : Due) : (s.postWith x).issued = s.issued := rfl
@[simp] theorem State.postWith_free (s : State) (x : Due) : (s.postWith x).free = s.free := rfl
@[simp] theorem State.postWith_nextId (s : State) (x : Due) : (s.postWith x).nextId = s.nextId := rfl

@[simp] theorem State.post_part (s : State) (t : Nat) (ev : Instr) : (s.post t ev).part = s.part := rfl
@[simp] theorem State.post_boot (s : State) (t : Nat) (ev : Instr) : (s.post t ev).boot = s.boot := rfl
@[simp] theorem State.post_cycle (s : State) (t : Nat) (ev : Instr) : (s.post t ev).cycle = s.cycle := rfl
@[simp] theorem State.post_now (s : State) (t : Nat) (ev : Instr) : (s.post t ev).now = s.now := rfl
@[simp] theorem State.post_phase (s : State) (t : Nat) (ev : Instr) : (s.post t ev).phase = s.phase := rfl
@[simp] theorem State.post_clockStep (s : State) (t : Nat) (ev : Instr) : (s.post t ev).clockStep = s.clockStep := rfl
@[simp] theorem State.post_clockCmd (s : State) (t : Nat) (ev : Instr) : (s.post t ev).clockCmd = s.clockCmd := rfl
@[simp] theorem State.post_lastAdjust (s : State) (t : Nat) (ev : Instr) : (s.post t ev).lastAdjust = s.lastAdjust := rfl
@[simp] theorem State.post_hold (s : State) (t : Nat) (ev : Instr) : (s.post t ev).hold = s.hold := rfl
@[simp] theorem State.post_pkg (s : State) (t : Nat) (ev : Instr) : (s.post t ev).pkg = s.pkg := rfl
@[simp] theorem State.post_hbm (s : State) (t : Nat) (ev : Instr) : (s.post t ev).hbm = s.hbm := rfl
@[simp] theorem State.post_l2 (s : State) (t : Nat) (ev : Instr) : (s.post t ev).l2 = s.l2 := rfl
@[simp] theorem State.post_flash (s : State) (t : Nat) (ev : Instr) : (s.post t ev).flash = s.flash := rfl
@[simp] theorem State.post_hbmErrs (s : State) (t : Nat) (ev : Instr) : (s.post t ev).hbmErrs = s.hbmErrs := rfl
@[simp] theorem State.post_cores (s : State) (t : Nat) (ev : Instr) : (s.post t ev).cores = s.cores := rfl
@[simp] theorem State.post_groups (s : State) (t : Nat) (ev : Instr) : (s.post t ev).groups = s.groups := rfl
@[simp] theorem State.post_gangs (s : State) (t : Nat) (ev : Instr) : (s.post t ev).gangs = s.gangs := rfl
@[simp] theorem State.post_ghosts (s : State) (t : Nat) (ev : Instr) : (s.post t ev).ghosts = s.ghosts := rfl
@[simp] theorem State.post_clusters (s : State) (t : Nat) (ev : Instr) : (s.post t ev).clusters = s.clusters := rfl
@[simp] theorem State.post_dies (s : State) (t : Nat) (ev : Instr) : (s.post t ev).dies = s.dies := rfl
@[simp] theorem State.post_slices (s : State) (t : Nat) (ev : Instr) : (s.post t ev).slices = s.slices := rfl
@[simp] theorem State.post_ops (s : State) (t : Nat) (ev : Instr) : (s.post t ev).ops = s.ops := rfl
@[simp] theorem State.post_io (s : State) (t : Nat) (ev : Instr) : (s.post t ev).io = s.io := rfl
@[simp] theorem State.post_routes (s : State) (t : Nat) (ev : Instr) : (s.post t ev).routes = s.routes := rfl
@[simp] theorem State.post_hot (s : State) (t : Nat) (ev : Instr) : (s.post t ev).hot = s.hot := rfl
@[simp] theorem State.post_input (s : State) (t : Nat) (ev : Instr) : (s.post t ev).input = s.input := rfl
@[simp] theorem State.post_late (s : State) (t : Nat) (ev : Instr) : (s.post t ev).late = s.late := rfl
@[simp] theorem State.post_units (s : State) (t : Nat) (ev : Instr) : (s.post t ev).units = s.units := rfl
@[simp] theorem State.post_selfCore (s : State) (t : Nat) (ev : Instr) : (s.post t ev).selfCore = s.selfCore := rfl
@[simp] theorem State.post_selfSlot (s : State) (t : Nat) (ev : Instr) : (s.post t ev).selfSlot = s.selfSlot := rfl
@[simp] theorem State.post_issued (s : State) (t : Nat) (ev : Instr) : (s.post t ev).issued = s.issued := rfl
@[simp] theorem State.post_free (s : State) (t : Nat) (ev : Instr) : (s.post t ev).free = s.free := rfl
@[simp] theorem State.post_nextId (s : State) (t : Nat) (ev : Instr) : (s.post t ev).nextId = s.nextId := rfl

@[simp] theorem State.postNow_part (s : State) (ev : Instr) : (s.postNow ev).part = s.part := rfl
@[simp] theorem State.postNow_boot (s : State) (ev : Instr) : (s.postNow ev).boot = s.boot := rfl
@[simp] theorem State.postNow_cycle (s : State) (ev : Instr) : (s.postNow ev).cycle = s.cycle := rfl
@[simp] theorem State.postNow_now (s : State) (ev : Instr) : (s.postNow ev).now = s.now := rfl
@[simp] theorem State.postNow_phase (s : State) (ev : Instr) : (s.postNow ev).phase = s.phase := rfl
@[simp] theorem State.postNow_clockStep (s : State) (ev : Instr) : (s.postNow ev).clockStep = s.clockStep := rfl
@[simp] theorem State.postNow_clockCmd (s : State) (ev : Instr) : (s.postNow ev).clockCmd = s.clockCmd := rfl
@[simp] theorem State.postNow_lastAdjust (s : State) (ev : Instr) : (s.postNow ev).lastAdjust = s.lastAdjust := rfl
@[simp] theorem State.postNow_hold (s : State) (ev : Instr) : (s.postNow ev).hold = s.hold := rfl
@[simp] theorem State.postNow_pkg (s : State) (ev : Instr) : (s.postNow ev).pkg = s.pkg := rfl
@[simp] theorem State.postNow_hbm (s : State) (ev : Instr) : (s.postNow ev).hbm = s.hbm := rfl
@[simp] theorem State.postNow_l2 (s : State) (ev : Instr) : (s.postNow ev).l2 = s.l2 := rfl
@[simp] theorem State.postNow_flash (s : State) (ev : Instr) : (s.postNow ev).flash = s.flash := rfl
@[simp] theorem State.postNow_hbmErrs (s : State) (ev : Instr) : (s.postNow ev).hbmErrs = s.hbmErrs := rfl
@[simp] theorem State.postNow_cores (s : State) (ev : Instr) : (s.postNow ev).cores = s.cores := rfl
@[simp] theorem State.postNow_groups (s : State) (ev : Instr) : (s.postNow ev).groups = s.groups := rfl
@[simp] theorem State.postNow_gangs (s : State) (ev : Instr) : (s.postNow ev).gangs = s.gangs := rfl
@[simp] theorem State.postNow_ghosts (s : State) (ev : Instr) : (s.postNow ev).ghosts = s.ghosts := rfl
@[simp] theorem State.postNow_clusters (s : State) (ev : Instr) : (s.postNow ev).clusters = s.clusters := rfl
@[simp] theorem State.postNow_dies (s : State) (ev : Instr) : (s.postNow ev).dies = s.dies := rfl
@[simp] theorem State.postNow_slices (s : State) (ev : Instr) : (s.postNow ev).slices = s.slices := rfl
@[simp] theorem State.postNow_ops (s : State) (ev : Instr) : (s.postNow ev).ops = s.ops := rfl
@[simp] theorem State.postNow_io (s : State) (ev : Instr) : (s.postNow ev).io = s.io := rfl
@[simp] theorem State.postNow_routes (s : State) (ev : Instr) : (s.postNow ev).routes = s.routes := rfl
@[simp] theorem State.postNow_hot (s : State) (ev : Instr) : (s.postNow ev).hot = s.hot := rfl
@[simp] theorem State.postNow_input (s : State) (ev : Instr) : (s.postNow ev).input = s.input := rfl
@[simp] theorem State.postNow_late (s : State) (ev : Instr) : (s.postNow ev).late = s.late := rfl
@[simp] theorem State.postNow_units (s : State) (ev : Instr) : (s.postNow ev).units = s.units := rfl
@[simp] theorem State.postNow_selfCore (s : State) (ev : Instr) : (s.postNow ev).selfCore = s.selfCore := rfl
@[simp] theorem State.postNow_selfSlot (s : State) (ev : Instr) : (s.postNow ev).selfSlot = s.selfSlot := rfl
@[simp] theorem State.postNow_issued (s : State) (ev : Instr) : (s.postNow ev).issued = s.issued := rfl
@[simp] theorem State.postNow_free (s : State) (ev : Instr) : (s.postNow ev).free = s.free := rfl
@[simp] theorem State.postNow_nextId (s : State) (ev : Instr) : (s.postNow ev).nextId = s.nextId := rfl

@[simp] theorem State.postWake_part (s : State) (x : Due) : (s.postWake x).part = s.part := rfl
@[simp] theorem State.postWake_boot (s : State) (x : Due) : (s.postWake x).boot = s.boot := rfl
@[simp] theorem State.postWake_cycle (s : State) (x : Due) : (s.postWake x).cycle = s.cycle := rfl
@[simp] theorem State.postWake_now (s : State) (x : Due) : (s.postWake x).now = s.now := rfl
@[simp] theorem State.postWake_phase (s : State) (x : Due) : (s.postWake x).phase = s.phase := rfl
@[simp] theorem State.postWake_clockStep (s : State) (x : Due) : (s.postWake x).clockStep = s.clockStep := rfl
@[simp] theorem State.postWake_clockCmd (s : State) (x : Due) : (s.postWake x).clockCmd = s.clockCmd := rfl
@[simp] theorem State.postWake_lastAdjust (s : State) (x : Due) : (s.postWake x).lastAdjust = s.lastAdjust := rfl
@[simp] theorem State.postWake_hold (s : State) (x : Due) : (s.postWake x).hold = s.hold := rfl
@[simp] theorem State.postWake_pkg (s : State) (x : Due) : (s.postWake x).pkg = s.pkg := rfl
@[simp] theorem State.postWake_hbm (s : State) (x : Due) : (s.postWake x).hbm = s.hbm := rfl
@[simp] theorem State.postWake_l2 (s : State) (x : Due) : (s.postWake x).l2 = s.l2 := rfl
@[simp] theorem State.postWake_flash (s : State) (x : Due) : (s.postWake x).flash = s.flash := rfl
@[simp] theorem State.postWake_hbmErrs (s : State) (x : Due) : (s.postWake x).hbmErrs = s.hbmErrs := rfl
@[simp] theorem State.postWake_cores (s : State) (x : Due) : (s.postWake x).cores = s.cores := rfl
@[simp] theorem State.postWake_groups (s : State) (x : Due) : (s.postWake x).groups = s.groups := rfl
@[simp] theorem State.postWake_gangs (s : State) (x : Due) : (s.postWake x).gangs = s.gangs := rfl
@[simp] theorem State.postWake_ghosts (s : State) (x : Due) : (s.postWake x).ghosts = s.ghosts := rfl
@[simp] theorem State.postWake_clusters (s : State) (x : Due) : (s.postWake x).clusters = s.clusters := rfl
@[simp] theorem State.postWake_dies (s : State) (x : Due) : (s.postWake x).dies = s.dies := rfl
@[simp] theorem State.postWake_slices (s : State) (x : Due) : (s.postWake x).slices = s.slices := rfl
@[simp] theorem State.postWake_ops (s : State) (x : Due) : (s.postWake x).ops = s.ops := rfl
@[simp] theorem State.postWake_io (s : State) (x : Due) : (s.postWake x).io = s.io := rfl
@[simp] theorem State.postWake_routes (s : State) (x : Due) : (s.postWake x).routes = s.routes := rfl
@[simp] theorem State.postWake_hot (s : State) (x : Due) : (s.postWake x).hot = s.hot := rfl
@[simp] theorem State.postWake_input (s : State) (x : Due) : (s.postWake x).input = s.input := rfl
@[simp] theorem State.postWake_late (s : State) (x : Due) : (s.postWake x).late = s.late := rfl
@[simp] theorem State.postWake_units (s : State) (x : Due) : (s.postWake x).units = s.units := rfl
@[simp] theorem State.postWake_selfCore (s : State) (x : Due) : (s.postWake x).selfCore = s.selfCore := rfl
@[simp] theorem State.postWake_selfSlot (s : State) (x : Due) : (s.postWake x).selfSlot = s.selfSlot := rfl
@[simp] theorem State.postWake_issued (s : State) (x : Due) : (s.postWake x).issued = s.issued := rfl
@[simp] theorem State.postWake_free (s : State) (x : Due) : (s.postWake x).free = s.free := rfl
@[simp] theorem State.postWake_nextId (s : State) (x : Due) : (s.postWake x).nextId = s.nextId := rfl

@[simp] theorem State.setWarpAt_part (s : State) (c k : Nat) (w : Warp) : (s.setWarpAt c k w).part = s.part := rfl
@[simp] theorem State.setWarpAt_boot (s : State) (c k : Nat) (w : Warp) : (s.setWarpAt c k w).boot = s.boot := rfl
@[simp] theorem State.setWarpAt_cycle (s : State) (c k : Nat) (w : Warp) : (s.setWarpAt c k w).cycle = s.cycle := rfl
@[simp] theorem State.setWarpAt_now (s : State) (c k : Nat) (w : Warp) : (s.setWarpAt c k w).now = s.now := rfl
@[simp] theorem State.setWarpAt_phase (s : State) (c k : Nat) (w : Warp) : (s.setWarpAt c k w).phase = s.phase := rfl
@[simp] theorem State.setWarpAt_clockStep (s : State) (c k : Nat) (w : Warp) : (s.setWarpAt c k w).clockStep = s.clockStep := rfl
@[simp] theorem State.setWarpAt_clockCmd (s : State) (c k : Nat) (w : Warp) : (s.setWarpAt c k w).clockCmd = s.clockCmd := rfl
@[simp] theorem State.setWarpAt_lastAdjust (s : State) (c k : Nat) (w : Warp) : (s.setWarpAt c k w).lastAdjust = s.lastAdjust := rfl
@[simp] theorem State.setWarpAt_hold (s : State) (c k : Nat) (w : Warp) : (s.setWarpAt c k w).hold = s.hold := rfl
@[simp] theorem State.setWarpAt_pkg (s : State) (c k : Nat) (w : Warp) : (s.setWarpAt c k w).pkg = s.pkg := rfl
@[simp] theorem State.setWarpAt_hbm (s : State) (c k : Nat) (w : Warp) : (s.setWarpAt c k w).hbm = s.hbm := rfl
@[simp] theorem State.setWarpAt_l2 (s : State) (c k : Nat) (w : Warp) : (s.setWarpAt c k w).l2 = s.l2 := rfl
@[simp] theorem State.setWarpAt_flash (s : State) (c k : Nat) (w : Warp) : (s.setWarpAt c k w).flash = s.flash := rfl
@[simp] theorem State.setWarpAt_hbmErrs (s : State) (c k : Nat) (w : Warp) : (s.setWarpAt c k w).hbmErrs = s.hbmErrs := rfl
@[simp] theorem State.setWarpAt_groups (s : State) (c k : Nat) (w : Warp) : (s.setWarpAt c k w).groups = s.groups := rfl
@[simp] theorem State.setWarpAt_gangs (s : State) (c k : Nat) (w : Warp) : (s.setWarpAt c k w).gangs = s.gangs := rfl
@[simp] theorem State.setWarpAt_ghosts (s : State) (c k : Nat) (w : Warp) : (s.setWarpAt c k w).ghosts = s.ghosts := rfl
@[simp] theorem State.setWarpAt_clusters (s : State) (c k : Nat) (w : Warp) : (s.setWarpAt c k w).clusters = s.clusters := rfl
@[simp] theorem State.setWarpAt_dies (s : State) (c k : Nat) (w : Warp) : (s.setWarpAt c k w).dies = s.dies := rfl
@[simp] theorem State.setWarpAt_slices (s : State) (c k : Nat) (w : Warp) : (s.setWarpAt c k w).slices = s.slices := rfl
@[simp] theorem State.setWarpAt_ops (s : State) (c k : Nat) (w : Warp) : (s.setWarpAt c k w).ops = s.ops := rfl
@[simp] theorem State.setWarpAt_io (s : State) (c k : Nat) (w : Warp) : (s.setWarpAt c k w).io = s.io := rfl
@[simp] theorem State.setWarpAt_routes (s : State) (c k : Nat) (w : Warp) : (s.setWarpAt c k w).routes = s.routes := rfl
@[simp] theorem State.setWarpAt_hot (s : State) (c k : Nat) (w : Warp) : (s.setWarpAt c k w).hot = s.hot := rfl
@[simp] theorem State.setWarpAt_agenda (s : State) (c k : Nat) (w : Warp) : (s.setWarpAt c k w).agenda = s.agenda := rfl
@[simp] theorem State.setWarpAt_input (s : State) (c k : Nat) (w : Warp) : (s.setWarpAt c k w).input = s.input := rfl
@[simp] theorem State.setWarpAt_late (s : State) (c k : Nat) (w : Warp) : (s.setWarpAt c k w).late = s.late := rfl
@[simp] theorem State.setWarpAt_units (s : State) (c k : Nat) (w : Warp) : (s.setWarpAt c k w).units = s.units := rfl
@[simp] theorem State.setWarpAt_selfCore (s : State) (c k : Nat) (w : Warp) : (s.setWarpAt c k w).selfCore = s.selfCore := rfl
@[simp] theorem State.setWarpAt_selfSlot (s : State) (c k : Nat) (w : Warp) : (s.setWarpAt c k w).selfSlot = s.selfSlot := rfl
@[simp] theorem State.setWarpAt_issued (s : State) (c k : Nat) (w : Warp) : (s.setWarpAt c k w).issued = s.issued := rfl
@[simp] theorem State.setWarpAt_free (s : State) (c k : Nat) (w : Warp) : (s.setWarpAt c k w).free = s.free := rfl
@[simp] theorem State.setWarpAt_nextId (s : State) (c k : Nat) (w : Warp) : (s.setWarpAt c k w).nextId = s.nextId := rfl

@[simp] theorem State.setWarp_part (s : State) (w : Warp) : (s.setWarp w).part = s.part := rfl
@[simp] theorem State.setWarp_boot (s : State) (w : Warp) : (s.setWarp w).boot = s.boot := rfl
@[simp] theorem State.setWarp_cycle (s : State) (w : Warp) : (s.setWarp w).cycle = s.cycle := rfl
@[simp] theorem State.setWarp_now (s : State) (w : Warp) : (s.setWarp w).now = s.now := rfl
@[simp] theorem State.setWarp_phase (s : State) (w : Warp) : (s.setWarp w).phase = s.phase := rfl
@[simp] theorem State.setWarp_clockStep (s : State) (w : Warp) : (s.setWarp w).clockStep = s.clockStep := rfl
@[simp] theorem State.setWarp_clockCmd (s : State) (w : Warp) : (s.setWarp w).clockCmd = s.clockCmd := rfl
@[simp] theorem State.setWarp_lastAdjust (s : State) (w : Warp) : (s.setWarp w).lastAdjust = s.lastAdjust := rfl
@[simp] theorem State.setWarp_hold (s : State) (w : Warp) : (s.setWarp w).hold = s.hold := rfl
@[simp] theorem State.setWarp_pkg (s : State) (w : Warp) : (s.setWarp w).pkg = s.pkg := rfl
@[simp] theorem State.setWarp_hbm (s : State) (w : Warp) : (s.setWarp w).hbm = s.hbm := rfl
@[simp] theorem State.setWarp_l2 (s : State) (w : Warp) : (s.setWarp w).l2 = s.l2 := rfl
@[simp] theorem State.setWarp_flash (s : State) (w : Warp) : (s.setWarp w).flash = s.flash := rfl
@[simp] theorem State.setWarp_hbmErrs (s : State) (w : Warp) : (s.setWarp w).hbmErrs = s.hbmErrs := rfl
@[simp] theorem State.setWarp_groups (s : State) (w : Warp) : (s.setWarp w).groups = s.groups := rfl
@[simp] theorem State.setWarp_gangs (s : State) (w : Warp) : (s.setWarp w).gangs = s.gangs := rfl
@[simp] theorem State.setWarp_ghosts (s : State) (w : Warp) : (s.setWarp w).ghosts = s.ghosts := rfl
@[simp] theorem State.setWarp_clusters (s : State) (w : Warp) : (s.setWarp w).clusters = s.clusters := rfl
@[simp] theorem State.setWarp_dies (s : State) (w : Warp) : (s.setWarp w).dies = s.dies := rfl
@[simp] theorem State.setWarp_slices (s : State) (w : Warp) : (s.setWarp w).slices = s.slices := rfl
@[simp] theorem State.setWarp_ops (s : State) (w : Warp) : (s.setWarp w).ops = s.ops := rfl
@[simp] theorem State.setWarp_io (s : State) (w : Warp) : (s.setWarp w).io = s.io := rfl
@[simp] theorem State.setWarp_routes (s : State) (w : Warp) : (s.setWarp w).routes = s.routes := rfl
@[simp] theorem State.setWarp_hot (s : State) (w : Warp) : (s.setWarp w).hot = s.hot := rfl
@[simp] theorem State.setWarp_agenda (s : State) (w : Warp) : (s.setWarp w).agenda = s.agenda := rfl
@[simp] theorem State.setWarp_input (s : State) (w : Warp) : (s.setWarp w).input = s.input := rfl
@[simp] theorem State.setWarp_late (s : State) (w : Warp) : (s.setWarp w).late = s.late := rfl
@[simp] theorem State.setWarp_units (s : State) (w : Warp) : (s.setWarp w).units = s.units := rfl
@[simp] theorem State.setWarp_selfCore (s : State) (w : Warp) : (s.setWarp w).selfCore = s.selfCore := rfl
@[simp] theorem State.setWarp_selfSlot (s : State) (w : Warp) : (s.setWarp w).selfSlot = s.selfSlot := rfl
@[simp] theorem State.setWarp_issued (s : State) (w : Warp) : (s.setWarp w).issued = s.issued := rfl
@[simp] theorem State.setWarp_free (s : State) (w : Warp) : (s.setWarp w).free = s.free := rfl
@[simp] theorem State.setWarp_nextId (s : State) (w : Warp) : (s.setWarp w).nextId = s.nextId := rfl

@[simp] theorem State.select_part (s : State) (c k : Nat) : (s.select c k).part = s.part := rfl
@[simp] theorem State.select_boot (s : State) (c k : Nat) : (s.select c k).boot = s.boot := rfl
@[simp] theorem State.select_cycle (s : State) (c k : Nat) : (s.select c k).cycle = s.cycle := rfl
@[simp] theorem State.select_now (s : State) (c k : Nat) : (s.select c k).now = s.now := rfl
@[simp] theorem State.select_phase (s : State) (c k : Nat) : (s.select c k).phase = s.phase := rfl
@[simp] theorem State.select_clockStep (s : State) (c k : Nat) : (s.select c k).clockStep = s.clockStep := rfl
@[simp] theorem State.select_clockCmd (s : State) (c k : Nat) : (s.select c k).clockCmd = s.clockCmd := rfl
@[simp] theorem State.select_lastAdjust (s : State) (c k : Nat) : (s.select c k).lastAdjust = s.lastAdjust := rfl
@[simp] theorem State.select_hold (s : State) (c k : Nat) : (s.select c k).hold = s.hold := rfl
@[simp] theorem State.select_pkg (s : State) (c k : Nat) : (s.select c k).pkg = s.pkg := rfl
@[simp] theorem State.select_hbm (s : State) (c k : Nat) : (s.select c k).hbm = s.hbm := rfl
@[simp] theorem State.select_l2 (s : State) (c k : Nat) : (s.select c k).l2 = s.l2 := rfl
@[simp] theorem State.select_flash (s : State) (c k : Nat) : (s.select c k).flash = s.flash := rfl
@[simp] theorem State.select_hbmErrs (s : State) (c k : Nat) : (s.select c k).hbmErrs = s.hbmErrs := rfl
@[simp] theorem State.select_cores (s : State) (c k : Nat) : (s.select c k).cores = s.cores := rfl
@[simp] theorem State.select_groups (s : State) (c k : Nat) : (s.select c k).groups = s.groups := rfl
@[simp] theorem State.select_gangs (s : State) (c k : Nat) : (s.select c k).gangs = s.gangs := rfl
@[simp] theorem State.select_ghosts (s : State) (c k : Nat) : (s.select c k).ghosts = s.ghosts := rfl
@[simp] theorem State.select_clusters (s : State) (c k : Nat) : (s.select c k).clusters = s.clusters := rfl
@[simp] theorem State.select_dies (s : State) (c k : Nat) : (s.select c k).dies = s.dies := rfl
@[simp] theorem State.select_slices (s : State) (c k : Nat) : (s.select c k).slices = s.slices := rfl
@[simp] theorem State.select_ops (s : State) (c k : Nat) : (s.select c k).ops = s.ops := rfl
@[simp] theorem State.select_io (s : State) (c k : Nat) : (s.select c k).io = s.io := rfl
@[simp] theorem State.select_routes (s : State) (c k : Nat) : (s.select c k).routes = s.routes := rfl
@[simp] theorem State.select_hot (s : State) (c k : Nat) : (s.select c k).hot = s.hot := rfl
@[simp] theorem State.select_agenda (s : State) (c k : Nat) : (s.select c k).agenda = s.agenda := rfl
@[simp] theorem State.select_input (s : State) (c k : Nat) : (s.select c k).input = s.input := rfl
@[simp] theorem State.select_late (s : State) (c k : Nat) : (s.select c k).late = s.late := rfl
@[simp] theorem State.select_units (s : State) (c k : Nat) : (s.select c k).units = s.units := rfl
@[simp] theorem State.select_free (s : State) (c k : Nat) : (s.select c k).free = s.free := rfl
@[simp] theorem State.select_nextId (s : State) (c k : Nat) : (s.select c k).nextId = s.nextId := rfl

@[simp] theorem State.taken_part (s : State) : (s.taken).part = s.part := rfl
@[simp] theorem State.taken_boot (s : State) : (s.taken).boot = s.boot := rfl
@[simp] theorem State.taken_cycle (s : State) : (s.taken).cycle = s.cycle := rfl
@[simp] theorem State.taken_now (s : State) : (s.taken).now = s.now := rfl
@[simp] theorem State.taken_phase (s : State) : (s.taken).phase = s.phase := rfl
@[simp] theorem State.taken_clockStep (s : State) : (s.taken).clockStep = s.clockStep := rfl
@[simp] theorem State.taken_clockCmd (s : State) : (s.taken).clockCmd = s.clockCmd := rfl
@[simp] theorem State.taken_lastAdjust (s : State) : (s.taken).lastAdjust = s.lastAdjust := rfl
@[simp] theorem State.taken_hold (s : State) : (s.taken).hold = s.hold := rfl
@[simp] theorem State.taken_pkg (s : State) : (s.taken).pkg = s.pkg := rfl
@[simp] theorem State.taken_hbm (s : State) : (s.taken).hbm = s.hbm := rfl
@[simp] theorem State.taken_l2 (s : State) : (s.taken).l2 = s.l2 := rfl
@[simp] theorem State.taken_flash (s : State) : (s.taken).flash = s.flash := rfl
@[simp] theorem State.taken_hbmErrs (s : State) : (s.taken).hbmErrs = s.hbmErrs := rfl
@[simp] theorem State.taken_cores (s : State) : (s.taken).cores = s.cores := rfl
@[simp] theorem State.taken_groups (s : State) : (s.taken).groups = s.groups := rfl
@[simp] theorem State.taken_gangs (s : State) : (s.taken).gangs = s.gangs := rfl
@[simp] theorem State.taken_ghosts (s : State) : (s.taken).ghosts = s.ghosts := rfl
@[simp] theorem State.taken_clusters (s : State) : (s.taken).clusters = s.clusters := rfl
@[simp] theorem State.taken_dies (s : State) : (s.taken).dies = s.dies := rfl
@[simp] theorem State.taken_slices (s : State) : (s.taken).slices = s.slices := rfl
@[simp] theorem State.taken_ops (s : State) : (s.taken).ops = s.ops := rfl
@[simp] theorem State.taken_io (s : State) : (s.taken).io = s.io := rfl
@[simp] theorem State.taken_routes (s : State) : (s.taken).routes = s.routes := rfl
@[simp] theorem State.taken_hot (s : State) : (s.taken).hot = s.hot := rfl
@[simp] theorem State.taken_agenda (s : State) : (s.taken).agenda = s.agenda := rfl
@[simp] theorem State.taken_input (s : State) : (s.taken).input = s.input := rfl
@[simp] theorem State.taken_late (s : State) : (s.taken).late = s.late := rfl
@[simp] theorem State.taken_units (s : State) : (s.taken).units = s.units := rfl
@[simp] theorem State.taken_selfCore (s : State) : (s.taken).selfCore = s.selfCore := rfl
@[simp] theorem State.taken_selfSlot (s : State) : (s.taken).selfSlot = s.selfSlot := rfl
@[simp] theorem State.taken_free (s : State) : (s.taken).free = s.free := rfl
@[simp] theorem State.taken_nextId (s : State) : (s.taken).nextId = s.nextId := rfl

@[simp] theorem State.setGroup_part (s : State) (ctx : Nat) (g : Group) : (s.setGroup ctx g).part = s.part := rfl
@[simp] theorem State.setGroup_boot (s : State) (ctx : Nat) (g : Group) : (s.setGroup ctx g).boot = s.boot := rfl
@[simp] theorem State.setGroup_cycle (s : State) (ctx : Nat) (g : Group) : (s.setGroup ctx g).cycle = s.cycle := rfl
@[simp] theorem State.setGroup_now (s : State) (ctx : Nat) (g : Group) : (s.setGroup ctx g).now = s.now := rfl
@[simp] theorem State.setGroup_phase (s : State) (ctx : Nat) (g : Group) : (s.setGroup ctx g).phase = s.phase := rfl
@[simp] theorem State.setGroup_clockStep (s : State) (ctx : Nat) (g : Group) : (s.setGroup ctx g).clockStep = s.clockStep := rfl
@[simp] theorem State.setGroup_clockCmd (s : State) (ctx : Nat) (g : Group) : (s.setGroup ctx g).clockCmd = s.clockCmd := rfl
@[simp] theorem State.setGroup_lastAdjust (s : State) (ctx : Nat) (g : Group) : (s.setGroup ctx g).lastAdjust = s.lastAdjust := rfl
@[simp] theorem State.setGroup_hold (s : State) (ctx : Nat) (g : Group) : (s.setGroup ctx g).hold = s.hold := rfl
@[simp] theorem State.setGroup_pkg (s : State) (ctx : Nat) (g : Group) : (s.setGroup ctx g).pkg = s.pkg := rfl
@[simp] theorem State.setGroup_hbm (s : State) (ctx : Nat) (g : Group) : (s.setGroup ctx g).hbm = s.hbm := rfl
@[simp] theorem State.setGroup_l2 (s : State) (ctx : Nat) (g : Group) : (s.setGroup ctx g).l2 = s.l2 := rfl
@[simp] theorem State.setGroup_flash (s : State) (ctx : Nat) (g : Group) : (s.setGroup ctx g).flash = s.flash := rfl
@[simp] theorem State.setGroup_hbmErrs (s : State) (ctx : Nat) (g : Group) : (s.setGroup ctx g).hbmErrs = s.hbmErrs := rfl
@[simp] theorem State.setGroup_cores (s : State) (ctx : Nat) (g : Group) : (s.setGroup ctx g).cores = s.cores := rfl
@[simp] theorem State.setGroup_gangs (s : State) (ctx : Nat) (g : Group) : (s.setGroup ctx g).gangs = s.gangs := rfl
@[simp] theorem State.setGroup_ghosts (s : State) (ctx : Nat) (g : Group) : (s.setGroup ctx g).ghosts = s.ghosts := rfl
@[simp] theorem State.setGroup_clusters (s : State) (ctx : Nat) (g : Group) : (s.setGroup ctx g).clusters = s.clusters := rfl
@[simp] theorem State.setGroup_dies (s : State) (ctx : Nat) (g : Group) : (s.setGroup ctx g).dies = s.dies := rfl
@[simp] theorem State.setGroup_slices (s : State) (ctx : Nat) (g : Group) : (s.setGroup ctx g).slices = s.slices := rfl
@[simp] theorem State.setGroup_ops (s : State) (ctx : Nat) (g : Group) : (s.setGroup ctx g).ops = s.ops := rfl
@[simp] theorem State.setGroup_io (s : State) (ctx : Nat) (g : Group) : (s.setGroup ctx g).io = s.io := rfl
@[simp] theorem State.setGroup_routes (s : State) (ctx : Nat) (g : Group) : (s.setGroup ctx g).routes = s.routes := rfl
@[simp] theorem State.setGroup_hot (s : State) (ctx : Nat) (g : Group) : (s.setGroup ctx g).hot = s.hot := rfl
@[simp] theorem State.setGroup_agenda (s : State) (ctx : Nat) (g : Group) : (s.setGroup ctx g).agenda = s.agenda := rfl
@[simp] theorem State.setGroup_input (s : State) (ctx : Nat) (g : Group) : (s.setGroup ctx g).input = s.input := rfl
@[simp] theorem State.setGroup_late (s : State) (ctx : Nat) (g : Group) : (s.setGroup ctx g).late = s.late := rfl
@[simp] theorem State.setGroup_units (s : State) (ctx : Nat) (g : Group) : (s.setGroup ctx g).units = s.units := rfl
@[simp] theorem State.setGroup_selfCore (s : State) (ctx : Nat) (g : Group) : (s.setGroup ctx g).selfCore = s.selfCore := rfl
@[simp] theorem State.setGroup_selfSlot (s : State) (ctx : Nat) (g : Group) : (s.setGroup ctx g).selfSlot = s.selfSlot := rfl
@[simp] theorem State.setGroup_issued (s : State) (ctx : Nat) (g : Group) : (s.setGroup ctx g).issued = s.issued := rfl
@[simp] theorem State.setGroup_free (s : State) (ctx : Nat) (g : Group) : (s.setGroup ctx g).free = s.free := rfl
@[simp] theorem State.setGroup_nextId (s : State) (ctx : Nat) (g : Group) : (s.setGroup ctx g).nextId = s.nextId := rfl

@[simp] theorem State.setCluster_part (s : State) (g : Nat) (x : Cluster) : (s.setCluster g x).part = s.part := rfl
@[simp] theorem State.setCluster_boot (s : State) (g : Nat) (x : Cluster) : (s.setCluster g x).boot = s.boot := rfl
@[simp] theorem State.setCluster_cycle (s : State) (g : Nat) (x : Cluster) : (s.setCluster g x).cycle = s.cycle := rfl
@[simp] theorem State.setCluster_now (s : State) (g : Nat) (x : Cluster) : (s.setCluster g x).now = s.now := rfl
@[simp] theorem State.setCluster_phase (s : State) (g : Nat) (x : Cluster) : (s.setCluster g x).phase = s.phase := rfl
@[simp] theorem State.setCluster_clockStep (s : State) (g : Nat) (x : Cluster) : (s.setCluster g x).clockStep = s.clockStep := rfl
@[simp] theorem State.setCluster_clockCmd (s : State) (g : Nat) (x : Cluster) : (s.setCluster g x).clockCmd = s.clockCmd := rfl
@[simp] theorem State.setCluster_lastAdjust (s : State) (g : Nat) (x : Cluster) : (s.setCluster g x).lastAdjust = s.lastAdjust := rfl
@[simp] theorem State.setCluster_hold (s : State) (g : Nat) (x : Cluster) : (s.setCluster g x).hold = s.hold := rfl
@[simp] theorem State.setCluster_pkg (s : State) (g : Nat) (x : Cluster) : (s.setCluster g x).pkg = s.pkg := rfl
@[simp] theorem State.setCluster_hbm (s : State) (g : Nat) (x : Cluster) : (s.setCluster g x).hbm = s.hbm := rfl
@[simp] theorem State.setCluster_l2 (s : State) (g : Nat) (x : Cluster) : (s.setCluster g x).l2 = s.l2 := rfl
@[simp] theorem State.setCluster_flash (s : State) (g : Nat) (x : Cluster) : (s.setCluster g x).flash = s.flash := rfl
@[simp] theorem State.setCluster_hbmErrs (s : State) (g : Nat) (x : Cluster) : (s.setCluster g x).hbmErrs = s.hbmErrs := rfl
@[simp] theorem State.setCluster_cores (s : State) (g : Nat) (x : Cluster) : (s.setCluster g x).cores = s.cores := rfl
@[simp] theorem State.setCluster_groups (s : State) (g : Nat) (x : Cluster) : (s.setCluster g x).groups = s.groups := rfl
@[simp] theorem State.setCluster_gangs (s : State) (g : Nat) (x : Cluster) : (s.setCluster g x).gangs = s.gangs := rfl
@[simp] theorem State.setCluster_ghosts (s : State) (g : Nat) (x : Cluster) : (s.setCluster g x).ghosts = s.ghosts := rfl
@[simp] theorem State.setCluster_dies (s : State) (g : Nat) (x : Cluster) : (s.setCluster g x).dies = s.dies := rfl
@[simp] theorem State.setCluster_slices (s : State) (g : Nat) (x : Cluster) : (s.setCluster g x).slices = s.slices := rfl
@[simp] theorem State.setCluster_ops (s : State) (g : Nat) (x : Cluster) : (s.setCluster g x).ops = s.ops := rfl
@[simp] theorem State.setCluster_io (s : State) (g : Nat) (x : Cluster) : (s.setCluster g x).io = s.io := rfl
@[simp] theorem State.setCluster_routes (s : State) (g : Nat) (x : Cluster) : (s.setCluster g x).routes = s.routes := rfl
@[simp] theorem State.setCluster_hot (s : State) (g : Nat) (x : Cluster) : (s.setCluster g x).hot = s.hot := rfl
@[simp] theorem State.setCluster_agenda (s : State) (g : Nat) (x : Cluster) : (s.setCluster g x).agenda = s.agenda := rfl
@[simp] theorem State.setCluster_input (s : State) (g : Nat) (x : Cluster) : (s.setCluster g x).input = s.input := rfl
@[simp] theorem State.setCluster_late (s : State) (g : Nat) (x : Cluster) : (s.setCluster g x).late = s.late := rfl
@[simp] theorem State.setCluster_units (s : State) (g : Nat) (x : Cluster) : (s.setCluster g x).units = s.units := rfl
@[simp] theorem State.setCluster_selfCore (s : State) (g : Nat) (x : Cluster) : (s.setCluster g x).selfCore = s.selfCore := rfl
@[simp] theorem State.setCluster_selfSlot (s : State) (g : Nat) (x : Cluster) : (s.setCluster g x).selfSlot = s.selfSlot := rfl
@[simp] theorem State.setCluster_issued (s : State) (g : Nat) (x : Cluster) : (s.setCluster g x).issued = s.issued := rfl
@[simp] theorem State.setCluster_free (s : State) (g : Nat) (x : Cluster) : (s.setCluster g x).free = s.free := rfl
@[simp] theorem State.setCluster_nextId (s : State) (g : Nat) (x : Cluster) : (s.setCluster g x).nextId = s.nextId := rfl

@[simp] theorem State.select_selfCore (s : State) (c k : Nat) : (s.select c k).selfCore = c := rfl
@[simp] theorem State.select_selfSlot (s : State) (c k : Nat) : (s.select c k).selfSlot = k := rfl
@[simp] theorem State.select_issued (s : State) (c k : Nat) : (s.select c k).issued = false := rfl

/-! ### A warp -/

@[simp] theorem Warp.setThread_gen (w : Warp) (l : Nat) (t : Thread) : (w.setThread l t).gen = w.gen := rfl
@[simp] theorem Warp.setThread_ctx (w : Warp) (l : Nat) (t : Thread) : (w.setThread l t).ctx = w.ctx := rfl
@[simp] theorem Warp.setThread_wix (w : Warp) (l : Nat) (t : Thread) : (w.setThread l t).wix = w.wix := rfl
@[simp] theorem Warp.setThread_single (w : Warp) (l : Nat) (t : Thread) : (w.setThread l t).single = w.single := rfl
@[simp] theorem Warp.setThread_prio (w : Warp) (l : Nat) (t : Thread) : (w.setThread l t).prio = w.prio := rfl
@[simp] theorem Warp.setThread_stamp (w : Warp) (l : Nat) (t : Thread) : (w.setThread l t).stamp = w.stamp := rfl
@[simp] theorem Warp.setThread_regs (w : Warp) (l : Nat) (t : Thread) : (w.setThread l t).regs = w.regs := rfl
@[simp] theorem Warp.setThread_sregs (w : Warp) (l : Nat) (t : Thread) : (w.setThread l t).sregs = w.sregs := rfl
@[simp] theorem Warp.setThread_regErrs (w : Warp) (l : Nat) (t : Thread) : (w.setThread l t).regErrs = w.regErrs := rfl
@[simp] theorem Warp.setThread_sregErrs (w : Warp) (l : Nat) (t : Thread) : (w.setThread l t).sregErrs = w.sregErrs := rfl
@[simp] theorem Warp.setThread_blocks (w : Warp) (l : Nat) (t : Thread) : (w.setThread l t).blocks = w.blocks := rfl
@[simp] theorem Warp.setThread_tags (w : Warp) (l : Nat) (t : Thread) : (w.setThread l t).tags = w.tags := rfl
@[simp] theorem Warp.setThread_fronts (w : Warp) (l : Nat) (t : Thread) : (w.setThread l t).fronts = w.fronts := rfl
@[simp] theorem Warp.setThread_cur (w : Warp) (l : Nat) (t : Thread) : (w.setThread l t).cur = w.cur := rfl
@[simp] theorem Warp.setThread_entries (w : Warp) (l : Nat) (t : Thread) : (w.setThread l t).entries = w.entries := rfl
@[simp] theorem Warp.setThread_solos (w : Warp) (l : Nat) (t : Thread) : (w.setThread l t).solos = w.solos := rfl
@[simp] theorem Warp.setThread_opbuf (w : Warp) (l : Nat) (t : Thread) : (w.setThread l t).opbuf = w.opbuf := rfl
@[simp] theorem Warp.setThread_priv (w : Warp) (l : Nat) (t : Thread) : (w.setThread l t).priv = w.priv := rfl
@[simp] theorem Warp.setThread_chk (w : Warp) (l : Nat) (t : Thread) : (w.setThread l t).chk = w.chk := rfl
@[simp] theorem Warp.setThread_ie (w : Warp) (l : Nat) (t : Thread) : (w.setThread l t).ie = w.ie := rfl
@[simp] theorem Warp.setThread_trap (w : Warp) (l : Nat) (t : Thread) : (w.setThread l t).trap = w.trap := rfl
@[simp] theorem Warp.setThread_tenant (w : Warp) (l : Nat) (t : Thread) : (w.setThread l t).tenant = w.tenant := rfl
@[simp] theorem Warp.setThread_ranges (w : Warp) (l : Nat) (t : Thread) : (w.setThread l t).ranges = w.ranges := rfl
@[simp] theorem Warp.setThread_nextIssue (w : Warp) (l : Nat) (t : Thread) : (w.setThread l t).nextIssue = w.nextIssue := rfl
@[simp] theorem Warp.setThread_pend (w : Warp) (l : Nat) (t : Thread) : (w.setThread l t).pend = w.pend := rfl
@[simp] theorem Warp.setThread_marks (w : Warp) (l : Nat) (t : Thread) : (w.setThread l t).marks = w.marks := rfl
@[simp] theorem Warp.setThread_loads (w : Warp) (l : Nat) (t : Thread) : (w.setThread l t).loads = w.loads := rfl
@[simp] theorem Warp.setThread_holds (w : Warp) (l : Nat) (t : Thread) : (w.setThread l t).holds = w.holds := rfl
@[simp] theorem Warp.setThread_acqs (w : Warp) (l : Nat) (t : Thread) : (w.setThread l t).acqs = w.acqs := rfl
@[simp] theorem Warp.setThread_storeBuf (w : Warp) (l : Nat) (t : Thread) : (w.setThread l t).storeBuf = w.storeBuf := rfl
@[simp] theorem Warp.setThread_unack (w : Warp) (l : Nat) (t : Thread) : (w.setThread l t).unack = w.unack := rfl
@[simp] theorem Warp.setThread_savedAt (w : Warp) (l : Nat) (t : Thread) : (w.setThread l t).savedAt = w.savedAt := rfl
@[simp] theorem Warp.setThread_savedDef (w : Warp) (l : Nat) (t : Thread) : (w.setThread l t).savedDef = w.savedDef := rfl
@[simp] theorem Warp.setThread_deferred (w : Warp) (l : Nat) (t : Thread) : (w.setThread l t).deferred = w.deferred := rfl
@[simp] theorem Warp.setThread_inHandler (w : Warp) (l : Nat) (t : Thread) : (w.setThread l t).inHandler = w.inHandler := rfl
@[simp] theorem Warp.setThread_debugStop (w : Warp) (l : Nat) (t : Thread) : (w.setThread l t).debugStop = w.debugStop := rfl
@[simp] theorem Warp.setThread_stopReq (w : Warp) (l : Nat) (t : Thread) : (w.setThread l t).stopReq = w.stopReq := rfl
@[simp] theorem Warp.setThread_step (w : Warp) (l : Nat) (t : Thread) : (w.setThread l t).step = w.step := rfl
@[simp] theorem Warp.setThread_overrun (w : Warp) (l : Nat) (t : Thread) : (w.setThread l t).overrun = w.overrun := rfl
@[simp] theorem Warp.setThread_region (w : Warp) (l : Nat) (t : Thread) : (w.setThread l t).region = w.region := rfl
@[simp] theorem Warp.setThread_grow (w : Warp) (l : Nat) (t : Thread) : (w.setThread l t).grow = w.grow := rfl
@[simp] theorem Warp.setThread_saving (w : Warp) (l : Nat) (t : Thread) : (w.setThread l t).saving = w.saving := rfl
@[simp] theorem Warp.setThread_fetching (w : Warp) (l : Nat) (t : Thread) : (w.setThread l t).fetching = w.fetching := rfl
@[simp] theorem Warp.setThread_fetched (w : Warp) (l : Nat) (t : Thread) : (w.setThread l t).fetched = w.fetched := rfl
@[simp] theorem Warp.setThread_held (w : Warp) (l : Nat) (t : Thread) : (w.setThread l t).held = w.held := rfl
@[simp] theorem Warp.setThread_seen (w : Warp) (l : Nat) (t : Thread) : (w.setThread l t).seen = w.seen := rfl
@[simp] theorem Warp.setThread_lastAcq (w : Warp) (l : Nat) (t : Thread) : (w.setThread l t).lastAcq = w.lastAcq := rfl
@[simp] theorem Warp.setThread_lastAck (w : Warp) (l : Nat) (t : Thread) : (w.setThread l t).lastAck = w.lastAck := rfl

@[simp] theorem Warp.unbuffer_gen (w : Warp) (n : Nat) : (w.unbuffer n).gen = w.gen := rfl
@[simp] theorem Warp.unbuffer_ctx (w : Warp) (n : Nat) : (w.unbuffer n).ctx = w.ctx := rfl
@[simp] theorem Warp.unbuffer_wix (w : Warp) (n : Nat) : (w.unbuffer n).wix = w.wix := rfl
@[simp] theorem Warp.unbuffer_single (w : Warp) (n : Nat) : (w.unbuffer n).single = w.single := rfl
@[simp] theorem Warp.unbuffer_prio (w : Warp) (n : Nat) : (w.unbuffer n).prio = w.prio := rfl
@[simp] theorem Warp.unbuffer_stamp (w : Warp) (n : Nat) : (w.unbuffer n).stamp = w.stamp := rfl
@[simp] theorem Warp.unbuffer_regs (w : Warp) (n : Nat) : (w.unbuffer n).regs = w.regs := rfl
@[simp] theorem Warp.unbuffer_sregs (w : Warp) (n : Nat) : (w.unbuffer n).sregs = w.sregs := rfl
@[simp] theorem Warp.unbuffer_regErrs (w : Warp) (n : Nat) : (w.unbuffer n).regErrs = w.regErrs := rfl
@[simp] theorem Warp.unbuffer_sregErrs (w : Warp) (n : Nat) : (w.unbuffer n).sregErrs = w.sregErrs := rfl
@[simp] theorem Warp.unbuffer_blocks (w : Warp) (n : Nat) : (w.unbuffer n).blocks = w.blocks := rfl
@[simp] theorem Warp.unbuffer_tags (w : Warp) (n : Nat) : (w.unbuffer n).tags = w.tags := rfl
@[simp] theorem Warp.unbuffer_threads (w : Warp) (n : Nat) : (w.unbuffer n).threads = w.threads := rfl
@[simp] theorem Warp.unbuffer_fronts (w : Warp) (n : Nat) : (w.unbuffer n).fronts = w.fronts := rfl
@[simp] theorem Warp.unbuffer_cur (w : Warp) (n : Nat) : (w.unbuffer n).cur = w.cur := rfl
@[simp] theorem Warp.unbuffer_entries (w : Warp) (n : Nat) : (w.unbuffer n).entries = w.entries := rfl
@[simp] theorem Warp.unbuffer_solos (w : Warp) (n : Nat) : (w.unbuffer n).solos = w.solos := rfl
@[simp] theorem Warp.unbuffer_priv (w : Warp) (n : Nat) : (w.unbuffer n).priv = w.priv := rfl
@[simp] theorem Warp.unbuffer_chk (w : Warp) (n : Nat) : (w.unbuffer n).chk = w.chk := rfl
@[simp] theorem Warp.unbuffer_ie (w : Warp) (n : Nat) : (w.unbuffer n).ie = w.ie := rfl
@[simp] theorem Warp.unbuffer_trap (w : Warp) (n : Nat) : (w.unbuffer n).trap = w.trap := rfl
@[simp] theorem Warp.unbuffer_tenant (w : Warp) (n : Nat) : (w.unbuffer n).tenant = w.tenant := rfl
@[simp] theorem Warp.unbuffer_ranges (w : Warp) (n : Nat) : (w.unbuffer n).ranges = w.ranges := rfl
@[simp] theorem Warp.unbuffer_nextIssue (w : Warp) (n : Nat) : (w.unbuffer n).nextIssue = w.nextIssue := rfl
@[simp] theorem Warp.unbuffer_pend (w : Warp) (n : Nat) : (w.unbuffer n).pend = w.pend := rfl
@[simp] theorem Warp.unbuffer_marks (w : Warp) (n : Nat) : (w.unbuffer n).marks = w.marks := rfl
@[simp] theorem Warp.unbuffer_loads (w : Warp) (n : Nat) : (w.unbuffer n).loads = w.loads := rfl
@[simp] theorem Warp.unbuffer_holds (w : Warp) (n : Nat) : (w.unbuffer n).holds = w.holds := rfl
@[simp] theorem Warp.unbuffer_acqs (w : Warp) (n : Nat) : (w.unbuffer n).acqs = w.acqs := rfl
@[simp] theorem Warp.unbuffer_storeBuf (w : Warp) (n : Nat) : (w.unbuffer n).storeBuf = w.storeBuf := rfl
@[simp] theorem Warp.unbuffer_unack (w : Warp) (n : Nat) : (w.unbuffer n).unack = w.unack := rfl
@[simp] theorem Warp.unbuffer_savedAt (w : Warp) (n : Nat) : (w.unbuffer n).savedAt = w.savedAt := rfl
@[simp] theorem Warp.unbuffer_savedDef (w : Warp) (n : Nat) : (w.unbuffer n).savedDef = w.savedDef := rfl
@[simp] theorem Warp.unbuffer_deferred (w : Warp) (n : Nat) : (w.unbuffer n).deferred = w.deferred := rfl
@[simp] theorem Warp.unbuffer_inHandler (w : Warp) (n : Nat) : (w.unbuffer n).inHandler = w.inHandler := rfl
@[simp] theorem Warp.unbuffer_debugStop (w : Warp) (n : Nat) : (w.unbuffer n).debugStop = w.debugStop := rfl
@[simp] theorem Warp.unbuffer_stopReq (w : Warp) (n : Nat) : (w.unbuffer n).stopReq = w.stopReq := rfl
@[simp] theorem Warp.unbuffer_step (w : Warp) (n : Nat) : (w.unbuffer n).step = w.step := rfl
@[simp] theorem Warp.unbuffer_overrun (w : Warp) (n : Nat) : (w.unbuffer n).overrun = w.overrun := rfl
@[simp] theorem Warp.unbuffer_region (w : Warp) (n : Nat) : (w.unbuffer n).region = w.region := rfl
@[simp] theorem Warp.unbuffer_grow (w : Warp) (n : Nat) : (w.unbuffer n).grow = w.grow := rfl
@[simp] theorem Warp.unbuffer_saving (w : Warp) (n : Nat) : (w.unbuffer n).saving = w.saving := rfl
@[simp] theorem Warp.unbuffer_fetching (w : Warp) (n : Nat) : (w.unbuffer n).fetching = w.fetching := rfl
@[simp] theorem Warp.unbuffer_fetched (w : Warp) (n : Nat) : (w.unbuffer n).fetched = w.fetched := rfl
@[simp] theorem Warp.unbuffer_held (w : Warp) (n : Nat) : (w.unbuffer n).held = w.held := rfl
@[simp] theorem Warp.unbuffer_seen (w : Warp) (n : Nat) : (w.unbuffer n).seen = w.seen := rfl
@[simp] theorem Warp.unbuffer_lastAcq (w : Warp) (n : Nat) : (w.unbuffer n).lastAcq = w.lastAcq := rfl
@[simp] theorem Warp.unbuffer_lastAck (w : Warp) (n : Nat) : (w.unbuffer n).lastAck = w.lastAck := rfl

@[simp] theorem Warp.setReg_gen (w : Warp) (n l : Nat) (x : Word) : (w.setReg n l x).gen = w.gen := rfl
@[simp] theorem Warp.setReg_ctx (w : Warp) (n l : Nat) (x : Word) : (w.setReg n l x).ctx = w.ctx := rfl
@[simp] theorem Warp.setReg_wix (w : Warp) (n l : Nat) (x : Word) : (w.setReg n l x).wix = w.wix := rfl
@[simp] theorem Warp.setReg_single (w : Warp) (n l : Nat) (x : Word) : (w.setReg n l x).single = w.single := rfl
@[simp] theorem Warp.setReg_prio (w : Warp) (n l : Nat) (x : Word) : (w.setReg n l x).prio = w.prio := rfl
@[simp] theorem Warp.setReg_stamp (w : Warp) (n l : Nat) (x : Word) : (w.setReg n l x).stamp = w.stamp := rfl
@[simp] theorem Warp.setReg_sregs (w : Warp) (n l : Nat) (x : Word) : (w.setReg n l x).sregs = w.sregs := rfl
@[simp] theorem Warp.setReg_sregErrs (w : Warp) (n l : Nat) (x : Word) : (w.setReg n l x).sregErrs = w.sregErrs := rfl
@[simp] theorem Warp.setReg_blocks (w : Warp) (n l : Nat) (x : Word) : (w.setReg n l x).blocks = w.blocks := rfl
@[simp] theorem Warp.setReg_threads (w : Warp) (n l : Nat) (x : Word) : (w.setReg n l x).threads = w.threads := rfl
@[simp] theorem Warp.setReg_fronts (w : Warp) (n l : Nat) (x : Word) : (w.setReg n l x).fronts = w.fronts := rfl
@[simp] theorem Warp.setReg_cur (w : Warp) (n l : Nat) (x : Word) : (w.setReg n l x).cur = w.cur := rfl
@[simp] theorem Warp.setReg_entries (w : Warp) (n l : Nat) (x : Word) : (w.setReg n l x).entries = w.entries := rfl
@[simp] theorem Warp.setReg_solos (w : Warp) (n l : Nat) (x : Word) : (w.setReg n l x).solos = w.solos := rfl
@[simp] theorem Warp.setReg_priv (w : Warp) (n l : Nat) (x : Word) : (w.setReg n l x).priv = w.priv := rfl
@[simp] theorem Warp.setReg_chk (w : Warp) (n l : Nat) (x : Word) : (w.setReg n l x).chk = w.chk := rfl
@[simp] theorem Warp.setReg_ie (w : Warp) (n l : Nat) (x : Word) : (w.setReg n l x).ie = w.ie := rfl
@[simp] theorem Warp.setReg_trap (w : Warp) (n l : Nat) (x : Word) : (w.setReg n l x).trap = w.trap := rfl
@[simp] theorem Warp.setReg_tenant (w : Warp) (n l : Nat) (x : Word) : (w.setReg n l x).tenant = w.tenant := rfl
@[simp] theorem Warp.setReg_ranges (w : Warp) (n l : Nat) (x : Word) : (w.setReg n l x).ranges = w.ranges := rfl
@[simp] theorem Warp.setReg_nextIssue (w : Warp) (n l : Nat) (x : Word) : (w.setReg n l x).nextIssue = w.nextIssue := rfl
@[simp] theorem Warp.setReg_pend (w : Warp) (n l : Nat) (x : Word) : (w.setReg n l x).pend = w.pend := rfl
@[simp] theorem Warp.setReg_marks (w : Warp) (n l : Nat) (x : Word) : (w.setReg n l x).marks = w.marks := rfl
@[simp] theorem Warp.setReg_loads (w : Warp) (n l : Nat) (x : Word) : (w.setReg n l x).loads = w.loads := rfl
@[simp] theorem Warp.setReg_holds (w : Warp) (n l : Nat) (x : Word) : (w.setReg n l x).holds = w.holds := rfl
@[simp] theorem Warp.setReg_acqs (w : Warp) (n l : Nat) (x : Word) : (w.setReg n l x).acqs = w.acqs := rfl
@[simp] theorem Warp.setReg_storeBuf (w : Warp) (n l : Nat) (x : Word) : (w.setReg n l x).storeBuf = w.storeBuf := rfl
@[simp] theorem Warp.setReg_unack (w : Warp) (n l : Nat) (x : Word) : (w.setReg n l x).unack = w.unack := rfl
@[simp] theorem Warp.setReg_savedAt (w : Warp) (n l : Nat) (x : Word) : (w.setReg n l x).savedAt = w.savedAt := rfl
@[simp] theorem Warp.setReg_savedDef (w : Warp) (n l : Nat) (x : Word) : (w.setReg n l x).savedDef = w.savedDef := rfl
@[simp] theorem Warp.setReg_deferred (w : Warp) (n l : Nat) (x : Word) : (w.setReg n l x).deferred = w.deferred := rfl
@[simp] theorem Warp.setReg_inHandler (w : Warp) (n l : Nat) (x : Word) : (w.setReg n l x).inHandler = w.inHandler := rfl
@[simp] theorem Warp.setReg_debugStop (w : Warp) (n l : Nat) (x : Word) : (w.setReg n l x).debugStop = w.debugStop := rfl
@[simp] theorem Warp.setReg_stopReq (w : Warp) (n l : Nat) (x : Word) : (w.setReg n l x).stopReq = w.stopReq := rfl
@[simp] theorem Warp.setReg_step (w : Warp) (n l : Nat) (x : Word) : (w.setReg n l x).step = w.step := rfl
@[simp] theorem Warp.setReg_overrun (w : Warp) (n l : Nat) (x : Word) : (w.setReg n l x).overrun = w.overrun := rfl
@[simp] theorem Warp.setReg_region (w : Warp) (n l : Nat) (x : Word) : (w.setReg n l x).region = w.region := rfl
@[simp] theorem Warp.setReg_grow (w : Warp) (n l : Nat) (x : Word) : (w.setReg n l x).grow = w.grow := rfl
@[simp] theorem Warp.setReg_saving (w : Warp) (n l : Nat) (x : Word) : (w.setReg n l x).saving = w.saving := rfl
@[simp] theorem Warp.setReg_fetching (w : Warp) (n l : Nat) (x : Word) : (w.setReg n l x).fetching = w.fetching := rfl
@[simp] theorem Warp.setReg_fetched (w : Warp) (n l : Nat) (x : Word) : (w.setReg n l x).fetched = w.fetched := rfl
@[simp] theorem Warp.setReg_held (w : Warp) (n l : Nat) (x : Word) : (w.setReg n l x).held = w.held := rfl
@[simp] theorem Warp.setReg_seen (w : Warp) (n l : Nat) (x : Word) : (w.setReg n l x).seen = w.seen := rfl
@[simp] theorem Warp.setReg_lastAcq (w : Warp) (n l : Nat) (x : Word) : (w.setReg n l x).lastAcq = w.lastAcq := rfl
@[simp] theorem Warp.setReg_lastAck (w : Warp) (n l : Nat) (x : Word) : (w.setReg n l x).lastAck = w.lastAck := rfl

@[simp] theorem Warp.setSreg_gen (w : Warp) (n : Nat) (x : Word) : (w.setSreg n x).gen = w.gen := rfl
@[simp] theorem Warp.setSreg_ctx (w : Warp) (n : Nat) (x : Word) : (w.setSreg n x).ctx = w.ctx := rfl
@[simp] theorem Warp.setSreg_wix (w : Warp) (n : Nat) (x : Word) : (w.setSreg n x).wix = w.wix := rfl
@[simp] theorem Warp.setSreg_single (w : Warp) (n : Nat) (x : Word) : (w.setSreg n x).single = w.single := rfl
@[simp] theorem Warp.setSreg_prio (w : Warp) (n : Nat) (x : Word) : (w.setSreg n x).prio = w.prio := rfl
@[simp] theorem Warp.setSreg_stamp (w : Warp) (n : Nat) (x : Word) : (w.setSreg n x).stamp = w.stamp := rfl
@[simp] theorem Warp.setSreg_regs (w : Warp) (n : Nat) (x : Word) : (w.setSreg n x).regs = w.regs := rfl
@[simp] theorem Warp.setSreg_regErrs (w : Warp) (n : Nat) (x : Word) : (w.setSreg n x).regErrs = w.regErrs := rfl
@[simp] theorem Warp.setSreg_blocks (w : Warp) (n : Nat) (x : Word) : (w.setSreg n x).blocks = w.blocks := rfl
@[simp] theorem Warp.setSreg_tags (w : Warp) (n : Nat) (x : Word) : (w.setSreg n x).tags = w.tags := rfl
@[simp] theorem Warp.setSreg_threads (w : Warp) (n : Nat) (x : Word) : (w.setSreg n x).threads = w.threads := rfl
@[simp] theorem Warp.setSreg_fronts (w : Warp) (n : Nat) (x : Word) : (w.setSreg n x).fronts = w.fronts := rfl
@[simp] theorem Warp.setSreg_cur (w : Warp) (n : Nat) (x : Word) : (w.setSreg n x).cur = w.cur := rfl
@[simp] theorem Warp.setSreg_entries (w : Warp) (n : Nat) (x : Word) : (w.setSreg n x).entries = w.entries := rfl
@[simp] theorem Warp.setSreg_solos (w : Warp) (n : Nat) (x : Word) : (w.setSreg n x).solos = w.solos := rfl
@[simp] theorem Warp.setSreg_opbuf (w : Warp) (n : Nat) (x : Word) : (w.setSreg n x).opbuf = w.opbuf := rfl
@[simp] theorem Warp.setSreg_priv (w : Warp) (n : Nat) (x : Word) : (w.setSreg n x).priv = w.priv := rfl
@[simp] theorem Warp.setSreg_chk (w : Warp) (n : Nat) (x : Word) : (w.setSreg n x).chk = w.chk := rfl
@[simp] theorem Warp.setSreg_ie (w : Warp) (n : Nat) (x : Word) : (w.setSreg n x).ie = w.ie := rfl
@[simp] theorem Warp.setSreg_trap (w : Warp) (n : Nat) (x : Word) : (w.setSreg n x).trap = w.trap := rfl
@[simp] theorem Warp.setSreg_tenant (w : Warp) (n : Nat) (x : Word) : (w.setSreg n x).tenant = w.tenant := rfl
@[simp] theorem Warp.setSreg_ranges (w : Warp) (n : Nat) (x : Word) : (w.setSreg n x).ranges = w.ranges := rfl
@[simp] theorem Warp.setSreg_nextIssue (w : Warp) (n : Nat) (x : Word) : (w.setSreg n x).nextIssue = w.nextIssue := rfl
@[simp] theorem Warp.setSreg_pend (w : Warp) (n : Nat) (x : Word) : (w.setSreg n x).pend = w.pend := rfl
@[simp] theorem Warp.setSreg_marks (w : Warp) (n : Nat) (x : Word) : (w.setSreg n x).marks = w.marks := rfl
@[simp] theorem Warp.setSreg_loads (w : Warp) (n : Nat) (x : Word) : (w.setSreg n x).loads = w.loads := rfl
@[simp] theorem Warp.setSreg_holds (w : Warp) (n : Nat) (x : Word) : (w.setSreg n x).holds = w.holds := rfl
@[simp] theorem Warp.setSreg_acqs (w : Warp) (n : Nat) (x : Word) : (w.setSreg n x).acqs = w.acqs := rfl
@[simp] theorem Warp.setSreg_storeBuf (w : Warp) (n : Nat) (x : Word) : (w.setSreg n x).storeBuf = w.storeBuf := rfl
@[simp] theorem Warp.setSreg_unack (w : Warp) (n : Nat) (x : Word) : (w.setSreg n x).unack = w.unack := rfl
@[simp] theorem Warp.setSreg_savedAt (w : Warp) (n : Nat) (x : Word) : (w.setSreg n x).savedAt = w.savedAt := rfl
@[simp] theorem Warp.setSreg_savedDef (w : Warp) (n : Nat) (x : Word) : (w.setSreg n x).savedDef = w.savedDef := rfl
@[simp] theorem Warp.setSreg_deferred (w : Warp) (n : Nat) (x : Word) : (w.setSreg n x).deferred = w.deferred := rfl
@[simp] theorem Warp.setSreg_inHandler (w : Warp) (n : Nat) (x : Word) : (w.setSreg n x).inHandler = w.inHandler := rfl
@[simp] theorem Warp.setSreg_debugStop (w : Warp) (n : Nat) (x : Word) : (w.setSreg n x).debugStop = w.debugStop := rfl
@[simp] theorem Warp.setSreg_stopReq (w : Warp) (n : Nat) (x : Word) : (w.setSreg n x).stopReq = w.stopReq := rfl
@[simp] theorem Warp.setSreg_step (w : Warp) (n : Nat) (x : Word) : (w.setSreg n x).step = w.step := rfl
@[simp] theorem Warp.setSreg_overrun (w : Warp) (n : Nat) (x : Word) : (w.setSreg n x).overrun = w.overrun := rfl
@[simp] theorem Warp.setSreg_region (w : Warp) (n : Nat) (x : Word) : (w.setSreg n x).region = w.region := rfl
@[simp] theorem Warp.setSreg_grow (w : Warp) (n : Nat) (x : Word) : (w.setSreg n x).grow = w.grow := rfl
@[simp] theorem Warp.setSreg_saving (w : Warp) (n : Nat) (x : Word) : (w.setSreg n x).saving = w.saving := rfl
@[simp] theorem Warp.setSreg_fetching (w : Warp) (n : Nat) (x : Word) : (w.setSreg n x).fetching = w.fetching := rfl
@[simp] theorem Warp.setSreg_fetched (w : Warp) (n : Nat) (x : Word) : (w.setSreg n x).fetched = w.fetched := rfl
@[simp] theorem Warp.setSreg_held (w : Warp) (n : Nat) (x : Word) : (w.setSreg n x).held = w.held := rfl
@[simp] theorem Warp.setSreg_seen (w : Warp) (n : Nat) (x : Word) : (w.setSreg n x).seen = w.seen := rfl
@[simp] theorem Warp.setSreg_lastAcq (w : Warp) (n : Nat) (x : Word) : (w.setSreg n x).lastAcq = w.lastAcq := rfl
@[simp] theorem Warp.setSreg_lastAck (w : Warp) (n : Nat) (x : Word) : (w.setSreg n x).lastAck = w.lastAck := rfl

/-! ### Reading back -/

@[simp] theorem Sparse.get_put {α : Type} (d : α) (m : Sparse α) (k : Nat) (v : α) : Sparse.get d (Sparse.put m k v) k = v := by
  simp [Sparse.get, Sparse.get?_put_self]

theorem Sparse.get_put_other {α : Type} (d : α) (m : Sparse α) (k i : Nat) (v : α) (h : i ≠ k) :
    Sparse.get d (Sparse.put m k v) i = Sparse.get d m i := by
  simp [Sparse.get, Sparse.get?_put_ne m k i v h]

@[simp] theorem State.core_setCore (s : State) (c : Nat) (k : Core) : (s.setCore c k).core c = k := by
  simp [State.core, State.setCore]

theorem State.core_setCore_other (s : State) (c d : Nat) (k : Core) (h : d ≠ c) : (s.setCore c k).core d = s.core d := by
  simp [State.core, State.setCore, Sparse.get_put_other _ _ _ _ _ h]

@[simp] theorem State.warpAt_setWarpAt (s : State) (c k : Nat) (w : Warp) : (s.setWarpAt c k w).warpAt c k = w := by
  simp [State.warpAt, State.setWarpAt]

/-- No other warp of the package changes. -/
theorem State.warpAt_setWarpAt_other (s : State) (c k d j : Nat) (w : Warp) (h : d ≠ c ∨ j ≠ k) :
    (s.setWarpAt c k w).warpAt d j = s.warpAt d j := by
  by_cases e : d = c
  · subst e
    have h : j ≠ k := by simpa using h
    simp [State.warpAt, State.setWarpAt, Sparse.get_put_other _ _ _ _ _ h]
  · simp [State.warpAt, State.setWarpAt, State.core_setCore_other _ _ _ _ e]

@[simp] theorem State.warp_setWarp (s : State) (w : Warp) : (s.setWarp w).warp = w := by
  simp [State.warp, State.setWarp, State.warpAt, State.setWarpAt]

@[simp] theorem State.op?_setOp (s : State) (id : Nat) (o : MemOp) : (s.setOp id o).op? id = some o := by
  simp [State.op?, State.setOp, Sparse.get?_put_self]

@[simp] theorem State.slice_setSlice (s : State) (n : Nat) (x : Slice) : (s.setSlice n x).slice n = x := by
  simp [State.slice, State.setSlice]

@[simp] theorem State.die_setDie (s : State) (d : Nat) (x : Die) : (s.setDie d x).die d = x := by
  simp [State.die, State.setDie]

@[simp] theorem State.group?_setGroup (s : State) (ctx : Nat) (g : Group) : (s.setGroup ctx g).group? ctx = some g := by
  simp [State.group?, State.setGroup, Sparse.get?_put_self]

@[simp] theorem State.cluster_setCluster (s : State) (g : Nat) (x : Cluster) : (s.setCluster g x).cluster g = x := by
  simp [State.cluster, State.setCluster]

@[simp] theorem State.core_post (s : State) (t : Nat) (ev : Instr) (c : Nat) : (s.post t ev).core c = s.core c := rfl
@[simp] theorem State.warpAt_post (s : State) (t : Nat) (ev : Instr) (c k : Nat) : (s.post t ev).warpAt c k = s.warpAt c k := rfl
@[simp] theorem State.warp_post (s : State) (t : Nat) (ev : Instr) : (s.post t ev).warp = s.warp := rfl
@[simp] theorem State.warp_taken (s : State) : s.taken.warp = s.warp := rfl
@[simp] theorem State.core_taken (s : State) (c : Nat) : s.taken.core c = s.core c := rfl
@[simp] theorem State.warp_postNow (s : State) (ev : Instr) : (s.postNow ev).warp = s.warp := rfl
@[simp] theorem Warp.thread_setThread (w : Warp) (l : Nat) (t : Thread) : (w.setThread l t).thread l = t := by
  simp [Warp.thread, Warp.setThread]
@[simp] theorem Warp.reg_setSreg (w : Warp) (n m l : Nat) (x : Word) : (w.setSreg n x).reg m l = w.reg m l := rfl
@[simp] theorem Warp.sreg_setReg (w : Warp) (n l m : Nat) (x : Word) : (w.setReg n l x).sreg m = w.sreg m := rfl
@[simp] theorem Warp.reg_setThread (w : Warp) (n l j : Nat) (t : Thread) : (w.setThread j t).reg n l = w.reg n l := rfl

end Sys2Proof.Machine
end

