-- ==== Sys2Proof/Laws/Issue.lean ====
section
/-! SUPPORT. What the issue of an instruction can do: one lemma for each way in which its effect ends, when the instruction may issue. -/

namespace Sys2Proof.Machine

/-- The checks of `issue`, taken apart. -/
theorem ready_iff (op : Nat) (f : Fields) (s : State) : ready op f s = true ↔
    mayIssue s s.warp op = true ∧ s.warp.held = false ∧ ((used f s).one && !((form op).getD {}).one) = false ∧
    ((((form op).getD {}).super || (op == 0x1E5 && !userReads f.idx)) && !s.warp.priv) = false ∧
    wrongUnit s op f ((form op).getD {}).sl = false ∧
    namedOk s.warp op f (used f s).one = true ∧ scoreboard s.warp (usesIn op f s) = false ∧
    earlyUse s.warp s.cycle (usesIn op f s) ((form op).getD {}).lat = false ∧
    spanBad s.warp op f (usesIn op f s) (used f s).one = none ∧
    regErr s.warp op f (usesIn op f s) (used f s).one = none := by
  simp only [ready, Bool.and_eq_true, Bool.not_eq_true', Option.isNone_iff_eq_none, and_assoc]

/-- An instruction that may issue: its effect alone decides. -/
theorem issue_ready (op : Nat) (ws : List Nat) (f : Fields) (s : State) (body : State → Act) (h : ready op f s = true) :
    issue op ws f s body = (match body (begun op f s) with
      | .wait => .next s
      | .hold => .next (holdAt s (begun op f s) ws)
      | .trap cause addr info => .next (faulted (begun op f s) { cause, addr, info := trapInfo op f s info, pc := s.warp.pc })
      | .fault x => .next (faulted (begun op f s) x)
      | .jump t => .next (jumped s t)
      | .next t => .next (ended ws.length s t)) := by
  obtain ⟨h1, h0, h2, h3, h4, h5, h6, h7, h8, h9⟩ := (ready_iff op f s).1 h
  have keep : ∀ g t : State, restored s g t = t := fun g t => by simp [restored, h0]
  have b : issueGo s f (usesIn op f s) (used f s).one = begun op f s := rfl
  simp only [used] at h2 h5 h8 h9
  simp only [usesIn, used] at h6 h7 h8 h9 b
  simp only [issue, h1, h2, h3, h4, h5, h6, h7, h8, h9, Bool.not_true, Bool.false_eq_true, if_false]
  rw [b]
  cases body (begun op f s) <;> simp only [keep] <;> rfl

theorem issue_next (op : Nat) (ws : List Nat) (f : Fields) (s t : State) (body : State → Act) (h : ready op f s = true)
    (e : body (begun op f s) = .next t) : issue op ws f s body = .next (ended ws.length s t) := by
  rw [issue_ready op ws f s body h, e]
theorem issue_jump (op : Nat) (ws : List Nat) (f : Fields) (s t : State) (body : State → Act) (h : ready op f s = true)
    (e : body (begun op f s) = .jump t) : issue op ws f s body = .next (jumped s t) := by
  rw [issue_ready op ws f s body h, e]
theorem issue_trap (op : Nat) (ws : List Nat) (f : Fields) (s : State) (body : State → Act) (cause : Nat) (addr : Va) (info : Dword)
    (h : ready op f s = true) (e : body (begun op f s) = .trap cause addr info) :
    issue op ws f s body = .next (faults op f s cause addr info) := by
  rw [issue_ready op ws f s body h, e]; rfl

theorem wordsX_eq (op : Nat) (f : Fields) : (encodeExt op f).length = wordsX f := by
  simp [wordsX, encodeExt]

/-- An extended instruction whose effect is done. -/
theorem issueX_next (op : Nat) (f : Fields) (s t : State) (body : Fields → State → Act) (h : ready op f s = true)
    (e : body (used f s) (begun op f s) = .next t) : issueX op f s body = .next (ended (wordsX f) s t) := by
  rw [← wordsX_eq op f]; exact issue_next op (encodeExt op f) f s t (body (used f s)) h e
/-- An extended instruction that sets the program counters itself. -/
theorem issueX_jump (op : Nat) (f : Fields) (s t : State) (body : Fields → State → Act) (h : ready op f s = true)
    (e : body (used f s) (begun op f s) = .jump t) : issueX op f s body = .next (jumped s t) :=
  issue_jump op (encodeExt op f) f s t (body (used f s)) h e
/-- An extended instruction that faults. -/
theorem issueX_trap (op : Nat) (f : Fields) (s : State) (body : Fields → State → Act) (cause : Nat) (addr : Va) (info : Dword)
    (h : ready op f s = true) (e : body (used f s) (begun op f s) = .trap cause addr info) :
    issueX op f s body = .next (faults op f s cause addr info) :=
  issue_trap op (encodeExt op f) f s (body (used f s)) cause addr info h e

/-- A short form whose effect is done. -/
theorem issueK_next (sop : Nat) (k : Short) (s t : State) (body : Fields → State → Act) (h : readyShort sop k s = true)
    (e : body (used (k.ext sop).2 s) (begun (k.ext sop).1 (k.ext sop).2 s) = .next t) :
    issueK sop k s body = .next (ended 1 s t) :=
  issue_next _ [k.word sop] _ s t (body (used (k.ext sop).2 s)) h e
theorem issueK_jump (sop : Nat) (k : Short) (s t : State) (body : Fields → State → Act) (h : readyShort sop k s = true)
    (e : body (used (k.ext sop).2 s) (begun (k.ext sop).1 (k.ext sop).2 s) = .jump t) :
    issueK sop k s body = .next (jumped s t) :=
  issue_jump _ [k.word sop] _ s t (body (used (k.ext sop).2 s)) h e

end Sys2Proof.Machine
end

