-- ==== Sys2Proof/Laws/Begin.lean ====
section
/-! SUPPORT. What counting an issue leaves: everything but the stall, the operand buffer, the picker's notes and the event counters. -/

namespace Sys2Proof.Machine

@[simp] theorem countEvent_warp (s : State) (c e n : Nat) (u : Bool) : (countEvent s c e n u).warp = s.warp := by
  unfold countEvent
  dsimp only
  split
  · by_cases h : s.selfCore = c
    · subst h; simp [State.warp, State.warpAt, State.setCore, State.core]
    · simp [State.warp, State.warpAt, State.setCore, State.core, Sparse.get_put_other _ _ _ _ _ h]
  · rfl
@[simp] theorem countEvent_selfCore (s : State) (c e n : Nat) (u : Bool) : (countEvent s c e n u).selfCore = s.selfCore := by
  unfold countEvent; dsimp only; split <;> rfl
@[simp] theorem countEvent_selfSlot (s : State) (c e n : Nat) (u : Bool) : (countEvent s c e n u).selfSlot = s.selfSlot := by
  unfold countEvent; dsimp only; split <;> rfl
@[simp] theorem countEvent_cycle (s : State) (c e n : Nat) (u : Bool) : (countEvent s c e n u).cycle = s.cycle := by
  unfold countEvent; dsimp only; split <;> rfl
@[simp] theorem noteIssue_warp (s : State) : (noteIssue s).warp = s.warp := by
  unfold noteIssue
  dsimp only
  split
  · rfl
  · simp [State.warp, State.warpAt, State.setCore, State.core]

/-- Two states agree outside the cores. -/
def OutsideCores (s t : State) : Prop := { t with cores := s.cores, issued := s.issued } = s

theorem countEvent_outside (s : State) (c e n : Nat) (u : Bool) : OutsideCores s (countEvent s c e n u) := by
  unfold countEvent OutsideCores; dsimp only; split <;> rfl
theorem noteIssue_outside (s : State) : OutsideCores s (noteIssue s) := by
  unfold noteIssue OutsideCores; dsimp only; split <;> rfl
theorem OutsideCores.trans {s t u : State} (h : OutsideCores s t) (g : OutsideCores t u) : OutsideCores s u := by
  unfold OutsideCores at *
  rw [← h, ← g]

theorem issueCount_outside (s : State) (stall : Nat) (u : Uses) (kept : Option Nat) : OutsideCores s (issueCount s stall u kept) := by
  unfold issueCount
  dsimp only
  have h0 : ∀ w : Warp, OutsideCores s (s.setWarp w) := fun w => rfl
  have h1 : ∀ t : State, OutsideCores t t.taken := fun t => rfl
  split
  · exact (((h0 _).trans (noteIssue_outside _)).trans (countEvent_outside _ _ _ _ _)).trans (h1 _)
  · exact ((((h0 _).trans (noteIssue_outside _)).trans (countEvent_outside _ _ _ _ _)).trans (countEvent_outside _ _ _ _ _)).trans
      (h1 _)

/-- Counting an issue changes nothing outside the cores. -/
theorem begun_outside (op : Nat) (f : Fields) (s : State) : OutsideCores s (begun op f s) := by
  unfold begun issueGo
  dsimp only
  by_cases h : s.warp.held = true
  · rw [if_pos h]; rfl
  · rw [if_neg h]; exact issueCount_outside _ _ _ _

theorem OutsideCores.eq {s t : State} (h : OutsideCores s t) : t = { s with cores := t.cores, issued := t.issued } := by
  unfold OutsideCores at h
  rw [← h]

@[simp] theorem begun_cycle (op : Nat) (f : Fields) (s : State) : (begun op f s).cycle = s.cycle := by
  rw [(begun_outside op f s).eq]
@[simp] theorem begun_now (op : Nat) (f : Fields) (s : State) : (begun op f s).now = s.now := by
  rw [(begun_outside op f s).eq]
@[simp] theorem begun_selfCore (op : Nat) (f : Fields) (s : State) : (begun op f s).selfCore = s.selfCore := by
  rw [(begun_outside op f s).eq]
@[simp] theorem begun_selfSlot (op : Nat) (f : Fields) (s : State) : (begun op f s).selfSlot = s.selfSlot := by
  rw [(begun_outside op f s).eq]
@[simp] theorem begun_part (op : Nat) (f : Fields) (s : State) : (begun op f s).part = s.part := by
  rw [(begun_outside op f s).eq]
@[simp] theorem begun_hbm (op : Nat) (f : Fields) (s : State) : (begun op f s).hbm = s.hbm := by
  rw [(begun_outside op f s).eq]
@[simp] theorem begun_l2 (op : Nat) (f : Fields) (s : State) : (begun op f s).l2 = s.l2 := by
  rw [(begun_outside op f s).eq]
@[simp] theorem begun_flash (op : Nat) (f : Fields) (s : State) : (begun op f s).flash = s.flash := by
  rw [(begun_outside op f s).eq]
@[simp] theorem begun_groups (op : Nat) (f : Fields) (s : State) : (begun op f s).groups = s.groups := by
  rw [(begun_outside op f s).eq]
@[simp] theorem begun_ops (op : Nat) (f : Fields) (s : State) : (begun op f s).ops = s.ops := by
  rw [(begun_outside op f s).eq]
@[simp] theorem begun_slices (op : Nat) (f : Fields) (s : State) : (begun op f s).slices = s.slices := by
  rw [(begun_outside op f s).eq]
@[simp] theorem begun_agenda (op : Nat) (f : Fields) (s : State) : (begun op f s).agenda = s.agenda := by
  rw [(begun_outside op f s).eq]
@[simp] theorem begun_onSl (op : Nat) (f : Fields) (s : State) : (begun op f s).onSl = s.onSl := by
  simp [State.onSl]
@[simp] theorem begun_group? (op : Nat) (f : Fields) (s : State) (c : Nat) : (begun op f s).group? c = s.group? c := by
  simp [State.group?]

/-- Counting an issue leaves the executing warp but for its stall and its operand buffer. -/
theorem begun_warp (op : Nat) (f : Fields) (s : State) (hold : s.warp.held = false) :
    ∃ n o, (begun op f s).warp = { s.warp with nextIssue := n, opbuf := o } := by
  unfold begun issueGo
  dsimp only
  rw [if_neg (by simp [hold])]
  · have key : ∀ (u : Uses) (k : Option Nat) (w : Warp), ∃ o, keepRead w s.cycle u.readR k = { w with opbuf := o } := by
      intro u k w
      unfold keepRead
      dsimp only
      split <;> exact ⟨_, rfl⟩
    have shape : ∃ o, (if s.warp.single = true then s.warp
        else keepRead s.warp s.cycle (usesIn op f s).readR (if (used f s).one = true then none else keptReg f)) =
        { s.warp with opbuf := o } := by
      split
      · exact ⟨_, rfl⟩
      · exact key _ _ _
    obtain ⟨o, e⟩ := shape
    refine ⟨s.cycle + f.stall.toNat + 1, o, ?_⟩
    unfold issueCount
    dsimp only
    rw [e]
    split <;> simp

end Sys2Proof.Machine
end

