-- ==== Sys2Proof/Laws/Alu.lean ====
section
/-! SUPPORT. Instructions whose results land after a fixed time: what their effect is once they may issue. -/

namespace Sys2Proof.Machine

/-- Values that a warp gives do not depend on what an issue counts. -/
def Steady (g : Warp → Nat → List Write) : Prop :=
  ∀ (w : Warp) (b : Nat) (c : List OpBuf) (l : Nat), g { w with nextIssue := b, opbuf := c } l = g w l

theorem alu_begun (op : Nat) (f : Fields) (s : State) (g : Warp → Nat → List Write) (hg : Steady g)
    (hold : s.warp.held = false) : alu op (used f s) (begun op f s) g = .next (land (begun op f s)
      (s.cycle + (match form op with | some F => F.lat.cycles | none => 4)) true (results (used f s) s.warp g)) := by
  obtain ⟨b, c, e⟩ := begun_warp op f s hold
  unfold alu results
  dsimp only
  rw [e, begun_cycle]
  have e2 : execLanes (used f s) { s.warp with nextIssue := b, opbuf := c } = execLanes (used f s) s.warp := rfl
  rw [e2]
  have : (fun l => g { s.warp with nextIssue := b, opbuf := c } l) = fun l => g s.warp l := funext fun l => hg _ b c l
  congr 4

theorem computes_of {op delay : Nat} {mk : Fields → Instr} {g : Fields → Warp → Nat → List Write}
    (ex : Fields → State → Host.Outcome State Fault Refusal) (he : ∀ f s, exec (mk f) s = ex f s)
    {body : Fields → State → Act} (hx : ∀ f s, ex f s = issueX op f s body) (hb : ∀ f s, body f s = alu op f s (g f))
    (hn : (match form op with | some F => F.lat.cycles | none => 4) = delay) (hg : ∀ f, Steady (g f)) : computes op mk delay g := by
  intro f s hr
  rw [he, hx, lands]
  exact issueX_next op f s _ body hr (by rw [hb, alu_begun op f s _ (hg _) ((ready_iff op f s).1 hr).2.1, hn])

theorem computesShort_of {sop delay : Nat} {mk : Short → Instr} {g : Fields → Warp → Nat → List Write}
    (ex : Short → State → Host.Outcome State Fault Refusal) (he : ∀ k s, exec (mk k) s = ex k s)
    {body : Fields → State → Act} (hx : ∀ k s, ex k s = issueK sop k s body) {op : Nat} (ho : ∀ k, (Short.ext sop k).1 = op)
    (hb : ∀ f s, body f s = alu op f s (g f)) (hn : (match form op with | some F => F.lat.cycles | none => 4) = delay)
    (hg : ∀ f, Steady (g f)) : computesShort sop mk delay g := by
  intro k s hr
  rw [he, hx, landsShort]
  refine issueK_next sop k s _ body hr ?_
  rw [hb, ho k, alu_begun op _ s _ (hg _) ((ready_iff (k.ext sop).1 (k.ext sop).2 s).1 hr).2.1, hn]

end Sys2Proof.Machine
end

