-- ==== Sys2Proof/Laws/PerInstr.lean ====
section
/-! SUPPORT. Facts stated per instruction: the first word of an instruction announces how many words it takes (03_encoding R57, R58), and
an event of the part has none. -/

namespace Sys2Proof.Laws

theorem ext_words (op : Nat) (f : Fields) : (encodeExt op f).length = wordCount ((encodeExt op f).headD 0) := by
  cases h : f.lit with
  | none =>
    have e : f.word0 op % 4 = 1 := by unfold Fields.word0; rw [h]; simp only [Option.isSome, Bool.false_eq_true, if_false]; omega
    simp [encodeExt, litWords, wordCount, h, e]
  | some x =>
    have e : f.word0 op % 4 = 3 := by unfold Fields.word0; rw [h]; simp only [Option.isSome, if_true]; omega
    simp [encodeExt, litWords, wordCount, h, e]

theorem short_words (sop : Nat) (k : Short) : [k.word sop].length = wordCount ([k.word sop].headD 0) := by
  have e : k.word sop % 4 = 0 := by unfold Short.word; omega
  simp [wordCount, e]

end Sys2Proof.Laws

/-- The words of an instruction are as many as its first word says, and an instruction that is well formed has some. -/
def Sys2Proof.Laws.Words.Statement (i : Sys2Proof.Instr) : Prop :=
  (Sys2Proof.encode i = [] ∨ (Sys2Proof.encode i).length = Sys2Proof.wordCount ((Sys2Proof.encode i).headD 0)) ∧
    (i.wellFormed = true → Sys2Proof.encode i ≠ [])

namespace Sys2Proof.Laws.Words

theorem of_ext (i : Instr) (op : Nat) (f : Fields) (h : encode i = encodeExt op f) : Statement i := by
  refine ⟨.inr ?_, fun _ => ?_⟩
  · rw [h]; exact ext_words op f
  · rw [h]; simp [encodeExt]

theorem of_short (i : Instr) (sop : Nat) (k : Short) (h : encode i = [k.word sop]) : Statement i := by
  refine ⟨.inr ?_, fun _ => ?_⟩
  · rw [h]; exact short_words sop k
  · rw [h]; simp

theorem of_event (i : Instr) (h : encode i = []) (g : i.wellFormed = false) : Statement i :=
  ⟨.inl h, fun w => by rw [g] at w; exact absurd w (by decide)⟩

theorem iadd (f : Fields) : Statement (.iadd f) := of_ext _ _ f rfl
theorem isub (f : Fields) : Statement (.isub f) := of_ext _ _ f rfl
theorem imul (f : Fields) : Statement (.imul f) := of_ext _ _ f rfl
theorem imulh (f : Fields) : Statement (.imulh f) := of_ext _ _ f rfl
theorem imad (f : Fields) : Statement (.imad f) := of_ext _ _ f rfl
theorem imadw (f : Fields) : Statement (.imadw f) := of_ext _ _ f rfl
theorem idiv (f : Fields) : Statement (.idiv f) := of_ext _ _ f rfl
theorem irem (f : Fields) : Statement (.irem f) := of_ext _ _ f rfl
theorem iabs (f : Fields) : Statement (.iabs f) := of_ext _ _ f rfl
theorem imin (f : Fields) : Statement (.imin f) := of_ext _ _ f rfl
theorem imax (f : Fields) : Statement (.imax f) := of_ext _ _ f rfl
theorem iaddc (f : Fields) : Statement (.iaddc f) := of_ext _ _ f rfl
theorem isubb (f : Fields) : Statement (.isubb f) := of_ext _ _ f rfl
theorem lea (f : Fields) : Statement (.lea f) := of_ext _ _ f rfl
theorem isetp (f : Fields) : Statement (.isetp f) := of_ext _ _ f rfl
theorem isel (f : Fields) : Statement (.isel f) := of_ext _ _ f rfl
theorem and (f : Fields) : Statement (.and f) := of_ext _ _ f rfl
theorem or (f : Fields) : Statement (.or f) := of_ext _ _ f rfl
theorem xor (f : Fields) : Statement (.xor f) := of_ext _ _ f rfl
theorem andn (f : Fields) : Statement (.andn f) := of_ext _ _ f rfl
theorem not (f : Fields) : Statement (.not f) := of_ext _ _ f rfl
theorem shl (f : Fields) : Statement (.shl f) := of_ext _ _ f rfl
theorem shr (f : Fields) : Statement (.shr f) := of_ext _ _ f rfl
theorem sar (f : Fields) : Statement (.sar f) := of_ext _ _ f rfl
theorem rotl (f : Fields) : Statement (.rotl f) := of_ext _ _ f rfl
theorem fshf (f : Fields) : Statement (.fshf f) := of_ext _ _ f rfl
theorem bfx (f : Fields) : Statement (.bfx f) := of_ext _ _ f rfl
theorem bfi (f : Fields) : Statement (.bfi f) := of_ext _ _ f rfl
theorem popc (f : Fields) : Statement (.popc f) := of_ext _ _ f rfl
theorem clz (f : Fields) : Statement (.clz f) := of_ext _ _ f rfl
theorem ctz (f : Fields) : Statement (.ctz f) := of_ext _ _ f rfl
theorem brev (f : Fields) : Statement (.brev f) := of_ext _ _ f rfl
theorem prmb (f : Fields) : Statement (.prmb f) := of_ext _ _ f rfl
theorem lut3 (f : Fields) : Statement (.lut3 f) := of_ext _ _ f rfl
theorem idot4 (f : Fields) : Statement (.idot4 f) := of_ext _ _ f rfl
theorem idot2 (f : Fields) : Statement (.idot2 f) := of_ext _ _ f rfl
theorem pset (f : Fields) : Statement (.pset f) := of_ext _ _ f rfl
theorem fadd (f : Fields) : Statement (.fadd f) := of_ext _ _ f rfl
theorem fsub (f : Fields) : Statement (.fsub f) := of_ext _ _ f rfl
theorem fmul (f : Fields) : Statement (.fmul f) := of_ext _ _ f rfl
theorem ffma (f : Fields) : Statement (.ffma f) := of_ext _ _ f rfl
theorem fmin (f : Fields) : Statement (.fmin f) := of_ext _ _ f rfl
theorem fmax (f : Fields) : Statement (.fmax f) := of_ext _ _ f rfl
theorem fsetp (f : Fields) : Statement (.fsetp f) := of_ext _ _ f rfl
theorem fclass (f : Fields) : Statement (.fclass f) := of_ext _ _ f rfl
theorem frcp (f : Fields) : Statement (.frcp f) := of_ext _ _ f rfl
theorem frsq (f : Fields) : Statement (.frsq f) := of_ext _ _ f rfl
theorem fsqrt (f : Fields) : Statement (.fsqrt f) := of_ext _ _ f rfl
theorem fexp2 (f : Fields) : Statement (.fexp2 f) := of_ext _ _ f rfl
theorem flog2 (f : Fields) : Statement (.flog2 f) := of_ext _ _ f rfl
theorem fsin (f : Fields) : Statement (.fsin f) := of_ext _ _ f rfl
theorem fcos (f : Fields) : Statement (.fcos f) := of_ext _ _ f rfl
theorem ftanh (f : Fields) : Statement (.ftanh f) := of_ext _ _ f rfl
theorem fscale (f : Fields) : Statement (.fscale f) := of_ext _ _ f rfl
theorem frnd (f : Fields) : Statement (.frnd f) := of_ext _ _ f rfl
theorem fcvt (f : Fields) : Statement (.fcvt f) := of_ext _ _ f rfl
theorem i2f (f : Fields) : Statement (.i2f f) := of_ext _ _ f rfl
theorem f2i (f : Fields) : Statement (.f2i f) := of_ext _ _ f rfl
theorem hadd2 (f : Fields) : Statement (.hadd2 f) := of_ext _ _ f rfl
theorem hmul2 (f : Fields) : Statement (.hmul2 f) := of_ext _ _ f rfl
theorem hfma2 (f : Fields) : Statement (.hfma2 f) := of_ext _ _ f rfl
theorem fdot2 (f : Fields) : Statement (.fdot2 f) := of_ext _ _ f rfl
theorem mov (f : Fields) : Statement (.mov f) := of_ext _ _ f rfl
theorem movk (f : Fields) : Statement (.movk f) := of_ext _ _ f rfl
theorem movi (f : Fields) : Statement (.movi f) := of_ext _ _ f rfl
theorem movx (f : Fields) : Statement (.movx f) := of_ext _ _ f rfl
theorem s2v (f : Fields) : Statement (.s2v f) := of_ext _ _ f rfl
theorem v2s (f : Fields) : Statement (.v2s f) := of_ext _ _ f rfl
theorem rds (f : Fields) : Statement (.rds f) := of_ext _ _ f rfl
theorem perm (f : Fields) : Statement (.perm f) := of_ext _ _ f rfl
theorem shfl (f : Fields) : Statement (.shfl f) := of_ext _ _ f rfl
theorem qswap (f : Fields) : Statement (.qswap f) := of_ext _ _ f rfl
theorem qbcast (f : Fields) : Statement (.qbcast f) := of_ext _ _ f rfl
theorem lut16 (f : Fields) : Statement (.lut16 f) := of_ext _ _ f rfl
theorem vote (f : Fields) : Statement (.vote f) := of_ext _ _ f rfl
theorem redux (f : Fields) : Statement (.redux f) := of_ext _ _ f rfl
theorem scanx (f : Fields) : Statement (.scanx f) := of_ext _ _ f rfl
theorem p2v (f : Fields) : Statement (.p2v f) := of_ext _ _ f rfl
theorem v2p (f : Fields) : Statement (.v2p f) := of_ext _ _ f rfl
theorem bra (f : Fields) : Statement (.bra f) := of_ext _ _ f rfl
theorem brx (f : Fields) : Statement (.brx f) := of_ext _ _ f rfl
theorem call (f : Fields) : Statement (.call f) := of_ext _ _ f rfl
theorem callx (f : Fields) : Statement (.callx f) := of_ext _ _ f rfl
theorem ret (f : Fields) : Statement (.ret f) := of_ext _ _ f rfl
theorem split (f : Fields) : Statement (.split f) := of_ext _ _ f rfl
theorem join (f : Fields) : Statement (.join f) := of_ext _ _ f rfl
theorem exit (f : Fields) : Statement (.exit f) := of_ext _ _ f rfl
theorem yield (f : Fields) : Statement (.yield f) := of_ext _ _ f rfl
theorem nop (f : Fields) : Statement (.nop f) := of_ext _ _ f rfl
theorem sleep (f : Fields) : Statement (.sleep f) := of_ext _ _ f rfl
theorem tcall (f : Fields) : Statement (.tcall f) := of_ext _ _ f rfl
theorem tret (f : Fields) : Statement (.tret f) := of_ext _ _ f rfl
theorem safept (f : Fields) : Statement (.safept f) := of_ext _ _ f rfl
theorem idemb (f : Fields) : Statement (.idemb f) := of_ext _ _ f rfl
theorem ideme (f : Fields) : Statement (.ideme f) := of_ext _ _ f rfl
theorem solo (f : Fields) : Statement (.solo f) := of_ext _ _ f rfl
theorem soloe (f : Fields) : Statement (.soloe f) := of_ext _ _ f rfl
theorem ld (f : Fields) : Statement (.ld f) := of_ext _ _ f rfl
theorem st (f : Fields) : Statement (.st f) := of_ext _ _ f rfl
theorem ldx (f : Fields) : Statement (.ldx f) := of_ext _ _ f rfl
theorem stx (f : Fields) : Statement (.stx f) := of_ext _ _ f rfl
theorem pref (f : Fields) : Statement (.pref f) := of_ext _ _ f rfl
theorem cflush (f : Fields) : Statement (.cflush f) := of_ext _ _ f rfl
theorem cinv (f : Fields) : Statement (.cinv f) := of_ext _ _ f rfl
theorem cwb (f : Fields) : Statement (.cwb f) := of_ext _ _ f rfl
theorem fence (f : Fields) : Statement (.fence f) := of_ext _ _ f rfl
theorem probe (f : Fields) : Statement (.probe f) := of_ext _ _ f rfl
theorem atom (f : Fields) : Statement (.atom f) := of_ext _ _ f rfl
theorem acas (f : Fields) : Statement (.acas f) := of_ext _ _ f rfl
theorem red (f : Fields) : Statement (.red f) := of_ext _ _ f rfl
theorem mcas (f : Fields) : Statement (.mcas f) := of_ext _ _ f rfl
theorem waitc (f : Fields) : Statement (.waitc f) := of_ext _ _ f rfl
theorem acas2 (f : Fields) : Statement (.acas2 f) := of_ext _ _ f rfl
theorem bar (f : Fields) : Statement (.bar f) := of_ext _ _ f rfl
theorem tbar (f : Fields) : Statement (.tbar f) := of_ext _ _ f rfl
theorem gbar (f : Fields) : Statement (.gbar f) := of_ext _ _ f rfl
theorem wbinit (f : Fields) : Statement (.wbinit f) := of_ext _ _ f rfl
theorem wbexpect (f : Fields) : Statement (.wbexpect f) := of_ext _ _ f rfl
theorem wbarrive (f : Fields) : Statement (.wbarrive f) := of_ext _ _ f rfl
theorem wbwait (f : Fields) : Statement (.wbwait f) := of_ext _ _ f rfl
theorem wbtest (f : Fields) : Statement (.wbtest f) := of_ext _ _ f rfl
theorem macq (f : Fields) : Statement (.macq f) := of_ext _ _ f rfl
theorem mrel (f : Fields) : Statement (.mrel f) := of_ext _ _ f rfl
theorem mzero (f : Fields) : Statement (.mzero f) := of_ext _ _ f rfl
theorem mloop (f : Fields) : Statement (.mloop f) := of_ext _ _ f rfl
theorem mstep (f : Fields) : Statement (.mstep f) := of_ext _ _ f rfl
theorem mrd (f : Fields) : Statement (.mrd f) := of_ext _ _ f rfl
theorem mst (f : Fields) : Statement (.mst f) := of_ext _ _ f rfl
theorem mldacc (f : Fields) : Statement (.mldacc f) := of_ext _ _ f rfl
theorem tcopy (f : Fields) : Statement (.tcopy f) := of_ext _ _ f rfl
theorem tmcast (f : Fields) : Statement (.tmcast f) := of_ext _ _ f rfl
theorem tcancel (f : Fields) : Statement (.tcancel f) := of_ext _ _ f rfl
theorem tstat (f : Fields) : Statement (.tstat f) := of_ext _ _ f rfl
theorem spawn (f : Fields) : Statement (.spawn f) := of_ext _ _ f rfl
theorem spawnj (f : Fields) : Statement (.spawnj f) := of_ext _ _ f rfl
theorem depsig (f : Fields) : Statement (.depsig f) := of_ext _ _ f rfl
theorem alloc (f : Fields) : Statement (.alloc f) := of_ext _ _ f rfl
theorem free (f : Fields) : Statement (.free f) := of_ext _ _ f rfl
theorem syscall (f : Fields) : Statement (.syscall f) := of_ext _ _ f rfl
theorem svpop (f : Fields) : Statement (.svpop f) := of_ext _ _ f rfl
theorem svdone (f : Fields) : Statement (.svdone f) := of_ext _ _ f rfl
theorem trap (f : Fields) : Statement (.trap f) := of_ext _ _ f rfl
theorem eret (f : Fields) : Statement (.eret f) := of_ext _ _ f rfl
theorem eretHeader (f : Fields) : Statement (.eretHeader f) := of_ext _ _ f rfl
theorem eretStep (f : Fields) : Statement (.eretStep f) := of_ext _ _ f rfl
theorem crd (f : Fields) : Statement (.crd f) := of_ext _ _ f rfl
theorem cwr (f : Fields) : Statement (.cwr f) := of_ext _ _ f rfl
theorem xinv (f : Fields) : Statement (.xinv f) := of_ext _ _ f rfl
theorem rmode (f : Fields) : Statement (.rmode f) := of_ext _ _ f rfl
theorem ctxsvArm (f : Fields) : Statement (.ctxsvArm f) := of_ext _ _ f rfl
theorem ctxsvReq (f : Fields) : Statement (.ctxsvReq f) := of_ext _ _ f rfl
theorem ctxsvEnd (f : Fields) : Statement (.ctxsvEnd f) := of_ext _ _ f rfl
theorem ctxld (f : Fields) : Statement (.ctxld f) := of_ext _ _ f rfl
theorem wfi (f : Fields) : Statement (.wfi f) := of_ext _ _ f rfl
theorem ipiWake (f : Fields) : Statement (.ipiWake f) := of_ext _ _ f rfl
theorem ipiStop (f : Fields) : Statement (.ipiStop f) := of_ext _ _ f rfl
theorem ipiSl (f : Fields) : Statement (.ipiSl f) := of_ext _ _ f rfl
theorem bkpt (f : Fields) : Statement (.bkpt f) := of_ext _ _ f rfl
theorem reggrow (f : Fields) : Statement (.reggrow f) := of_ext _ _ f rfl
theorem regshrink (f : Fields) : Statement (.regshrink f) := of_ext _ _ f rfl
theorem lease (f : Fields) : Statement (.lease f) := of_ext _ _ f rfl
theorem nopShort (k : Short) : Statement (.nopShort k) := of_short _ _ k rfl
theorem movShort (k : Short) : Statement (.movShort k) := of_short _ _ k rfl
theorem iaddShort (k : Short) : Statement (.iaddShort k) := of_short _ _ k rfl
theorem isubShort (k : Short) : Statement (.isubShort k) := of_short _ _ k rfl
theorem andShort (k : Short) : Statement (.andShort k) := of_short _ _ k rfl
theorem orShort (k : Short) : Statement (.orShort k) := of_short _ _ k rfl
theorem xorShort (k : Short) : Statement (.xorShort k) := of_short _ _ k rfl
theorem shlShort (k : Short) : Statement (.shlShort k) := of_short _ _ k rfl
theorem shrShort (k : Short) : Statement (.shrShort k) := of_short _ _ k rfl
theorem sarShort (k : Short) : Statement (.sarShort k) := of_short _ _ k rfl
theorem imulShort (k : Short) : Statement (.imulShort k) := of_short _ _ k rfl
theorem iminShort (k : Short) : Statement (.iminShort k) := of_short _ _ k rfl
theorem imaxShort (k : Short) : Statement (.imaxShort k) := of_short _ _ k rfl
theorem faddShort (k : Short) : Statement (.faddShort k) := of_short _ _ k rfl
theorem fmulShort (k : Short) : Statement (.fmulShort k) := of_short _ _ k rfl
theorem fminShort (k : Short) : Statement (.fminShort k) := of_short _ _ k rfl
theorem fmaxShort (k : Short) : Statement (.fmaxShort k) := of_short _ _ k rfl
theorem movkShort (k : ShortLit) : Statement (.movkShort k) := by
  have e : k.word % 4 = 2 := by unfold ShortLit.word; omega
  refine ⟨.inr ?_, fun _ => ?_⟩
  · show (k.word :: litWords (some k.lit)).length = wordCount k.word
    simp [litWords, wordCount, e]
  · show k.word :: litWords (some k.lit) ≠ []
    simp
theorem sbra (k : ShortBranch) : Statement (.sbra k) := by
  have e : k.word % 4 = 0 := by unfold ShortBranch.word; omega
  refine ⟨.inr ?_, fun _ => ?_⟩
  · show [k.word].length = wordCount k.word
    simp [wordCount, e]
  · show [k.word] ≠ []
    simp
theorem retShort (k : Short) : Statement (.retShort k) := of_short _ _ k rfl
theorem exitShort (k : Short) : Statement (.exitShort k) := of_short _ _ k rfl
theorem yieldShort (k : Short) : Statement (.yieldShort k) := of_short _ _ k rfl
theorem joinShort (k : Short) : Statement (.joinShort k) := of_short _ _ k rfl
theorem barShort (k : Short) : Statement (.barShort k) := of_short _ _ k rfl
theorem ldShort (k : Short) : Statement (.ldShort k) := of_short _ _ k rfl
theorem stShort (k : Short) : Statement (.stShort k) := of_short _ _ k rfl
theorem svqbaseWrite (f : Fields) : Statement (.svqbaseWrite f) := of_ext _ _ f rfl
theorem timecmpWrite (f : Fields) : Statement (.timecmpWrite f) := of_ext _ _ f rfl
theorem pmselWrite (f : Fields) : Statement (.pmselWrite f) := of_ext _ _ f rfl
theorem mirrorCounterWrite (f : Fields) : Statement (.mirrorCounterWrite f) := of_event _ rfl rfl
theorem registerWrite (id : Nat) : Statement (.registerWrite id) := of_event _ rfl rfl
theorem timerExpiry (core : Nat) : Statement (.timerExpiry core) := of_event _ rfl rfl
theorem sLaneInterruptEntry (core : Nat) : Statement (.sLaneInterruptEntry core) := of_event _ rfl rfl
theorem wfiWake (core : Nat) : Statement (.wfiWake core) := of_event _ rfl rfl
theorem interruptMessage (source event : Nat) : Statement (.interruptMessage source event) := of_event _ rfl rfl
theorem ipiDelivery (kind core slot sender : Nat) : Statement (.ipiDelivery kind core slot sender) := of_event _ rfl rfl
theorem heldRecordEntry (core : Nat) : Statement (.heldRecordEntry core) := of_event _ rfl rfl
theorem safepointOverrun (core slot : Nat) : Statement (.safepointOverrun core slot) := of_event _ rfl rfl
theorem eviction (core : Nat) : Statement (.eviction core) := of_event _ rfl rfl
theorem reggrowGrant (core : Nat) : Statement (.reggrowGrant core) := of_event _ rfl rfl
theorem loadResponse (id part : Nat) : Statement (.loadResponse id part) := of_event _ rfl rfl
theorem storePerformed (id : Nat) : Statement (.storePerformed id) := of_event _ rfl rfl
theorem requesterCopyInvalidation (slice line : Nat) : Statement (.requesterCopyInvalidation slice line) := of_event _ rfl rfl
theorem leasedSetFill (id part : Nat) : Statement (.leasedSetFill id part) := of_event _ rfl rfl
theorem storeAcknowledgement (id : Nat) : Statement (.storeAcknowledgement id) := of_event _ rfl rfl
theorem lateAcknowledgement (id : Nat) : Statement (.lateAcknowledgement id) := of_event _ rfl rfl
theorem atomicAtHome (id part : Nat) : Statement (.atomicAtHome id part) := of_event _ rfl rfl
theorem mcasLockGrant (id : Nat) : Statement (.mcasLockGrant id) := of_event _ rfl rfl
theorem waitcWake (slice index : Nat) : Statement (.waitcWake slice index) := of_event _ rfl rfl
theorem waitcPoll (id : Nat) : Statement (.waitcPoll id) := of_event _ rfl rfl
theorem retransmissionTimeout (id : Nat) : Statement (.retransmissionTimeout id) := of_event _ rfl rfl
theorem resultStoreEntryFree (slice : Nat) : Statement (.resultStoreEntryFree slice) := of_event _ rfl rfl
theorem sleepWake (core slot : Nat) : Statement (.sleepWake core slot) := of_event _ rfl rfl
theorem savedSyscallWake (core slot lane : Nat) : Statement (.savedSyscallWake core slot lane) := of_event _ rfl rfl
theorem matrixLoopStart (core : Nat) : Statement (.matrixLoopStart core) := of_event _ rfl rfl
theorem matrixLoopCompletion (core : Nat) : Statement (.matrixLoopCompletion core) := of_event _ rfl rfl
theorem benchGate (core bench : Nat) : Statement (.benchGate core bench) := of_event _ rfl rfl
theorem copyEntryGrant (core : Nat) : Statement (.copyEntryGrant core) := of_event _ rfl rfl
theorem copyCompletion (core entry : Nat) : Statement (.copyCompletion core entry) := of_event _ rfl rfl
theorem copyFault (core entry : Nat) : Statement (.copyFault core entry) := of_event _ rfl rfl
theorem leasePreparation (cluster : Nat) : Statement (.leasePreparation cluster) := of_event _ rfl rfl
theorem groupLaunch (cluster : Nat) : Statement (.groupLaunch cluster) := of_event _ rfl rfl
theorem gangReserve (cluster : Nat) : Statement (.gangReserve cluster) := of_event _ rfl rfl
theorem gangCommit (cluster : Nat) : Statement (.gangCommit cluster) := of_event _ rfl rfl
theorem gangRequeue (cluster : Nat) : Statement (.gangRequeue cluster) := of_event _ rfl rfl
theorem groupEnd (context : Nat) : Statement (.groupEnd context) := of_event _ rfl rfl
theorem spill (cluster : Nat) : Statement (.spill cluster) := of_event _ rfl rfl
theorem refill (cluster : Nat) : Statement (.refill cluster) := of_event _ rfl rfl
theorem stealRequest (thief victim : Nat) : Statement (.stealRequest thief victim) := of_event _ rfl rfl
theorem stealRetryTimeout (cluster : Nat) : Statement (.stealRetryTimeout cluster) := of_event _ rfl rfl
theorem exchangeTimeout (cluster cls : Nat) : Statement (.exchangeTimeout cluster cls) := of_event _ rfl rfl
theorem exchangeBatchReceive (owner cls : Nat) (blocks : List Nat) : Statement (.exchangeBatchReceive owner cls blocks) := of_event _ rfl rfl
theorem capturePeriodSample (core : Nat) : Statement (.capturePeriodSample core) := of_event _ rfl rfl
theorem loadAtHomeSlice (id part : Nat) : Statement (.loadAtHomeSlice id part) := of_event _ rfl rfl
theorem resultsLand (core slot : Nat) : Statement (.resultsLand core slot) := of_event _ rfl rfl
theorem instructionWordsArrive (core slot : Nat) : Statement (.instructionWordsArrive core slot) := of_event _ rfl rfl
theorem packageReset : Statement .packageReset := of_event _ rfl rfl
theorem timeAdjustment : Statement .timeAdjustment := of_event _ rfl rfl
theorem clock : Statement .clock := of_event _ rfl rfl
theorem clockStepChange : Statement .clockStepChange := of_event _ rfl rfl
theorem thermalStepDown : Statement .thermalStepDown := of_event _ rfl rfl
theorem diesleepSleep : Statement .diesleepSleep := of_event _ rfl rfl
theorem diesleepWake : Statement .diesleepWake := of_event _ rfl rfl
theorem gateidleCommand : Statement .gateidleCommand := of_event _ rfl rfl
theorem fencePackage : Statement .fencePackage := of_event _ rfl rfl
theorem fencePortLane : Statement .fencePortLane := of_event _ rfl rfl
theorem flash : Statement .flash := of_event _ rfl rfl
theorem statusCommand : Statement .statusCommand := of_event _ rfl rfl
theorem resetCommand : Statement .resetCommand := of_event _ rfl rfl
theorem pkgnum : Statement .pkgnum := of_event _ rfl rfl
theorem extend : Statement .extend := of_event _ rfl rfl
theorem extendComplete : Statement .extendComplete := of_event _ rfl rfl
theorem report : Statement .report := of_event _ rfl rfl
theorem reportComplete : Statement .reportComplete := of_event _ rfl rfl
theorem pcieRetrain : Statement .pcieRetrain := of_event _ rfl rfl
theorem replaysRead : Statement .replaysRead := of_event _ rfl rfl
theorem configRead : Statement .configRead := of_event _ rfl rfl
theorem configWrite : Statement .configWrite := of_event _ rfl rfl
theorem msixSend : Statement .msixSend := of_event _ rfl rfl
theorem inboundPcieWrite : Statement .inboundPcieWrite := of_event _ rfl rfl
theorem inboundPcieRead : Statement .inboundPcieRead := of_event _ rfl rfl
theorem hostDoorbellWrite : Statement .hostDoorbellWrite := of_event _ rfl rfl
theorem hotReset : Statement .hotReset := of_event _ rfl rfl
theorem nvmeSqTailWrite : Statement .nvmeSqTailWrite := of_event _ rfl rfl
theorem nvmeCqHeadWrite : Statement .nvmeCqHeadWrite := of_event _ rfl rfl
theorem ueTailWrite : Statement .ueTailWrite := of_event _ rfl rfl
theorem ueCqHeadWrite : Statement .ueCqHeadWrite := of_event _ rfl rfl
theorem ueSend : Statement .ueSend := of_event _ rfl rfl
theorem ueRemoteWrite : Statement .ueRemoteWrite := of_event _ rfl rfl
theorem ueRemoteRead : Statement .ueRemoteRead := of_event _ rfl rfl
theorem ueMessageReceive : Statement .ueMessageReceive := of_event _ rfl rfl
theorem duselPortFence : Statement .duselPortFence := of_event _ rfl rfl
theorem duselPortReturn : Statement .duselPortReturn := of_event _ rfl rfl
theorem duselFlitReplay : Statement .duselFlitReplay := of_event _ rfl rfl
theorem duselLaneFailure : Statement .duselLaneFailure := of_event _ rfl rfl
theorem packageFenced : Statement .packageFenced := of_event _ rfl rfl
theorem partitionFilterProbe : Statement .partitionFilterProbe := of_event _ rfl rfl
theorem filterEntryClear : Statement .filterEntryClear := of_event _ rfl rfl
theorem errorCounterClear : Statement .errorCounterClear := of_event _ rfl rfl
theorem hbmScrub : Statement .hbmScrub := of_event _ rfl rfl
theorem duselDomainJoin : Statement .duselDomainJoin := of_event _ rfl rfl
theorem linkUp : Statement .linkUp := of_event _ rfl rfl
theorem ueCompletionEntry : Statement .ueCompletionEntry := of_event _ rfl rfl
theorem ueInboundRemoteAccess : Statement .ueInboundRemoteAccess := of_event _ rfl rfl

end Sys2Proof.Laws.Words
end

