-- ==== Sys2Proof/Tests/Slice0.lean ====
section
/-! SUPPORT. Tests of the model: ill-formed terms, words written out from the spec's encodings, single instructions beside the spec's
examples, and for every statement a state and operands that meet its hypotheses. -/

set_option Elab.async false

open Sys2Proof Sys2Proof.Machine

/-! ### Ill-formed terms: one for each check of WellFormed -/

/-- A well-formed term, and terms that each break one check of it: an odd pair, a field in an unused position, a literal source with no
literal word, a literal word that nothing reads, a type, a rounding, a saturate bit, a sign, an order, a scope, a class bit or a
sub-operation that the opcode does not take, an inverted p7, a guard and a keep that it does not take. -/
theorem test_ill_formed_fields :
    (Instr.iadd { d := 2, a := .reg 4, b := .reg 6, ty := .z64 }).wellFormed = true ∧
    (Instr.iadd { d := 3, a := .reg 4, b := .reg 6, ty := .z64 }).wellFormed = false ∧
    (Instr.iadd { d := 2, a := .reg 4, b := .reg 6, c := .reg 1 }).wellFormed = false ∧
    (Instr.iadd { d := 2, a := .reg 4, b := .zero, c := .zero }).wellFormed = false ∧
    (Instr.iadd { d := 2, a := .lo, b := .zero }).wellFormed = false ∧
    (Instr.iadd { d := 2, lit := some 0 }).wellFormed = false ∧
    (Instr.iadd { d := 2, ty := .f32 }).wellFormed = false ∧
    (Instr.iadd { d := 2, rnd := .rtz }).wellFormed = false ∧
    (Instr.imulh { d := 2, sat := true }).wellFormed = false ∧
    (Instr.iadd { d := 2, negA := true }).wellFormed = false ∧
    (Instr.iadd { d := 2, absA := true }).wellFormed = false ∧
    (Instr.fscale { d := 2, negB := true }).wellFormed = false ∧
    (Instr.ld { d := 2, b := .zero, order := .rel }).wellFormed = false ∧
    (Instr.iadd { d := 2, scope := .pkg }).wellFormed = false ∧
    (Instr.iadd { d := 2, cls := 1 }).wellFormed = false ∧
    (Instr.iadd { d := 2, sub := 1 }).wellFormed = false ∧
    (Instr.iadd { d := 2, pneg := true }).wellFormed = false ∧
    (Instr.bar { pred := 0 }).wellFormed = false ∧
    (Instr.mov { d := 2, a := .zero, keep := .a }).wellFormed = false := by decide +kernel

/-- The kinds of operand positions: a register wanted, a pair or its alignment, a predicate above p7, a uniform register above s63, the
literal word's half; and the checks of an instruction's own description. -/
theorem test_ill_formed_operands :
    (Instr.movi { d := 1, a := .zero }).wellFormed = false ∧
    (Instr.isetp { d := 8 }).wellFormed = false ∧
    (Instr.isel { d := 1, c := .lo, lit := some 0 }).wellFormed = false ∧
    (Instr.s2v { d := 1, a := .reg 64 }).wellFormed = false ∧
    (Instr.s2v { d := 2, a := .reg 1, ty := .z64 }).wellFormed = false ∧
    (Instr.bra { b := .hi, lit := some 0 }).wellFormed = false ∧
    (Instr.movk { d := 1, a := .zero }).wellFormed = false ∧
    (Instr.acas2 { d := 2, a := .reg 2, c := .reg 8 }).wellFormed = false ∧
    (Instr.bra { b := .lo, lit := some 2 }).wellFormed = false ∧
    (Instr.isetp { d := 1, cls := 6 }).wellFormed = false ∧
    (Instr.fcvt { d := 1, ty := .f32, cls := 9, sub := 1 }).wellFormed = false ∧
    (Instr.rds { d := 1, sub := 13 }).wellFormed = false ∧
    (Instr.tcall { d := 2, b := .zero, sub := 9 }).wellFormed = false ∧
    (Instr.ld { d := 2, b := .zero, order := .sc }).wellFormed = false ∧
    (Instr.crd { d := 2, cls := 0x3F }).wellFormed = false ∧
    (Instr.cwr { cls := 0x10 }).wellFormed = false ∧
    (Instr.cwr { cls := 0x30 }).wellFormed = false ∧
    (Instr.eret { a := .reg 0 }).wellFormed = false ∧
    (Instr.reggrow {}).wellFormed = false := by decide +kernel

/-- Short forms: an operand of a form that has none, a literal wider than its register, an address pair that is odd; and an event is no
instruction. -/
theorem test_ill_formed_short :
    (Instr.nopShort { d := 1 }).wellFormed = false ∧
    (Instr.retShort { keepA := true }).wellFormed = false ∧
    (Instr.movkShort { d := 1, lit := 0x100000000 }).wellFormed = false ∧
    (Instr.movkShort { d := 1, pair := true }).wellFormed = false ∧
    (Instr.ldShort { d := 1, a := 3 }).wellFormed = false ∧
    (Instr.clock).wellFormed = false := by decide +kernel

/-- R57, R60 to R68: the words of the integer instructions, field by field. -/
theorem test_decode_integer :
  decodeWords [0x00605001, 0x38000004, 0x00004007] = .instr (.iadd { d := 5, a := .reg 3, b := .reg 4, ty := .z32, sat := true }) ∧
  decodeWords [0x01006005, 0x3880000A, 0x00000004] = .instr (.isub { d := 6, a := .reg 8, b := .reg 10, ty := .s64, stall := 2 }) ∧
  decodeWords [0x40001009, 0x38000002, 0x00000000] = .instr (.imul { d := 1, a := .zero, b := .reg 2 }) ∧
  decodeWords [0x00E0100D, 0x38000009, 0x00000006] = .instr (.imulh { d := 1, a := .reg 7, b := .reg 9, ty := .z16 }) ∧
  decodeWords [0x00401013, 0x38200003, 0x00000000, 0x00000007, 0x00000000] = .instr (.imad { d := 1, a := .reg 2, b := .reg 3, c := .lo, lit := some 0x7 }) ∧
  decodeWords [0x00602015, 0x38000C04, 0x00000003] = .instr (.imadw { d := 2, a := .reg 3, b := .reg 4, c := .reg 6, ty := .s32 }) ∧
  decodeWords [0x00401019, 0x10000003, 0x00000000] = .instr (.idiv { d := 1, a := .reg 2, b := .reg 3, pred := 2 }) ∧
  decodeWords [0x0040101D, 0x50000003, 0x00000000] = .instr (.irem { d := 1, a := .reg 2, b := .reg 3, pred := 2, pneg := true }) ∧
  decodeWords [0x00401021, 0x38000000, 0x00000001] = .instr (.iabs { d := 1, a := .reg 2, ty := .s8 }) ∧
  decodeWords [0x005FF025, 0x38000003, 0x00000000] = .instr (.imin { d := 511, a := .reg 2, b := .reg 3 }) ∧
  decodeWords [0x00401029, 0x3C000003, 0x00000000] = .instr (.imax { d := 1, a := .reg 2, b := .reg 3, keep := .b }) ∧
  decodeWords [0x0040102D, 0x38000E03, 0x00180000] = .instr (.iaddc { d := 1, a := .reg 2, b := .reg 3, c := .reg 7, cls := 6 }) ∧
  decodeWords [0x00401031, 0x38100003, 0x00040000] = .instr (.isubb { d := 1, a := .reg 2, b := .reg 3, c := .zero, cls := 1 }) ∧
  decodeWords [0x02014035, 0x38000003, 0x000C0003] = .instr (.lea { d := 20, a := .reg 16, b := .reg 3, ty := .s32, cls := 3 }) ∧
  decodeWords [0x0080203B, 0x38080000, 0x00040007, 0x0000000A, 0x00000000] = .instr (.isetp { d := 2, a := .reg 4, b := .lo, ty := .z32, cls := 1, lit := some 0xA }) ∧
  decodeWords [0x0040103D, 0x38000803, 0x00040000] = .instr (.isel { d := 1, a := .reg 2, b := .reg 3, c := .reg 4, cls := 1 }) ∧
  decodeWords [0x00401041, 0x38000003, 0x00000000] = .instr (.and { d := 1, a := .reg 2, b := .reg 3 }) ∧
  decodeWords [0x00802045, 0x38000006, 0x00000008] = .instr (.or { d := 2, a := .reg 4, b := .reg 6, ty := .z64 }) ∧
  decodeWords [0x00401049, 0x38000003, 0x00000000] = .instr (.xor { d := 1, a := .reg 2, b := .reg 3 }) ∧
  decodeWords [0x0040104D, 0x38000003, 0x00000000] = .instr (.andn { d := 1, a := .reg 2, b := .reg 3 }) ∧
  decodeWords [0x00401051, 0x38000000, 0x00000000] = .instr (.not { d := 1, a := .reg 2 }) ∧
  decodeWords [0x00401055, 0x38000003, 0x00000000] = .instr (.shl { d := 1, a := .reg 2, b := .reg 3 }) ∧
  decodeWords [0x00401059, 0x38000003, 0x00000000] = .instr (.shr { d := 1, a := .reg 2, b := .reg 3 }) ∧
  decodeWords [0x0040105D, 0x38000003, 0x00000000] = .instr (.sar { d := 1, a := .reg 2, b := .reg 3 }) ∧
  decodeWords [0x00401061, 0x38000003, 0x00000000] = .instr (.rotl { d := 1, a := .reg 2, b := .reg 3 }) ∧
  decodeWords [0x00401065, 0x38000803, 0x00040000] = .instr (.fshf { d := 1, a := .reg 2, b := .reg 3, c := .reg 4, cls := 1 }) ∧
  decodeWords [0x00401069, 0x38000003, 0x00000000] = .instr (.bfx { d := 1, a := .reg 2, b := .reg 3 }) ∧
  decodeWords [0x0040106D, 0x38000803, 0x00000000] = .instr (.bfi { d := 1, a := .reg 2, b := .reg 3, c := .reg 4 }) ∧
  decodeWords [0x00401071, 0x38000000, 0x00000000] = .instr (.popc { d := 1, a := .reg 2 }) ∧
  decodeWords [0x00401075, 0x38000000, 0x00000000] = .instr (.clz { d := 1, a := .reg 2 }) ∧
  decodeWords [0x00401079, 0x38000000, 0x00000008] = .instr (.ctz { d := 1, a := .reg 2, ty := .z64 }) ∧
  decodeWords [0x0040107D, 0x38000000, 0x00000000] = .instr (.brev { d := 1, a := .reg 2 }) ∧
  decodeWords [0x00401081, 0x38000803, 0x00000000] = .instr (.prmb { d := 1, a := .reg 2, b := .reg 3, c := .reg 4 }) ∧
  decodeWords [0x00401085, 0x38000803, 0xD8000000] = .instr (.lut3 { d := 1, a := .reg 2, b := .reg 3, c := .reg 4, sub := 216 }) ∧
  decodeWords [0x00401089, 0x38000803, 0x00040000] = .instr (.idot4 { d := 1, a := .reg 2, b := .reg 3, c := .reg 4, cls := 1 }) ∧
  decodeWords [0x0040108D, 0x38000803, 0x00080000] = .instr (.idot2 { d := 1, a := .reg 2, b := .reg 3, c := .reg 4, cls := 2 }) ∧
  decodeWords [0x00203091, 0x38100002, 0x08000000] = .instr (.pset { d := 3, a := .reg 1, b := .reg 2, c := .zero, sub := 8 }) := by decide +kernel

/-- R57, R60 to R68: the words of the floating instructions, field by field. -/
theorem test_decode_floating :
  decodeWords [0x00401101, 0x38000003, 0x00008029] = .instr (.fadd { d := 1, a := .reg 2, b := .reg 3, negA := true, rnd := .rtz, ty := .f32 }) ∧
  decodeWords [0x00401105, 0x38000003, 0x00010000] = .instr (.fsub { d := 1, a := .reg 2, b := .reg 3, negB := true }) ∧
  decodeWords [0x00401109, 0x38000003, 0x00020000] = .instr (.fmul { d := 1, a := .reg 2, b := .reg 3, absA := true }) ∧
  decodeWords [0x0040110D, 0x38000803, 0x00000060] = .instr (.ffma { d := 1, a := .reg 2, b := .reg 3, c := .reg 4, rnd := .rup }) ∧
  decodeWords [0x00401111, 0x38000003, 0x00000000] = .instr (.fmin { d := 1, a := .reg 2, b := .reg 3 }) ∧
  decodeWords [0x00401115, 0x38000003, 0x00000000] = .instr (.fmax { d := 1, a := .reg 2, b := .reg 3 }) ∧
  decodeWords [0x00401119, 0x38000003, 0x0038000B] = .instr (.fsetp { d := 1, a := .reg 2, b := .reg 3, c := .reg 0, cls := 14, ty := .f16 }) ∧
  decodeWords [0x0040111D, 0x38000000, 0x0000000A] = .instr (.fclass { d := 1, a := .reg 2, ty := .bf16 }) ∧
  decodeWords [0x00401121, 0x38000000, 0x00000000] = .instr (.frcp { d := 1, a := .reg 2 }) ∧
  decodeWords [0x00401125, 0x38000000, 0x00000000] = .instr (.frsq { d := 1, a := .reg 2 }) ∧
  decodeWords [0x00401129, 0x38000000, 0x00000000] = .instr (.fsqrt { d := 1, a := .reg 2 }) ∧
  decodeWords [0x0040112D, 0x38000000, 0x00000000] = .instr (.fexp2 { d := 1, a := .reg 2 }) ∧
  decodeWords [0x00401131, 0x38000000, 0x00000000] = .instr (.flog2 { d := 1, a := .reg 2 }) ∧
  decodeWords [0x00401135, 0x38000000, 0x00000000] = .instr (.fsin { d := 1, a := .reg 2 }) ∧
  decodeWords [0x00401139, 0x38000000, 0x00000000] = .instr (.fcos { d := 1, a := .reg 2 }) ∧
  decodeWords [0x0040113D, 0x38000000, 0x00000040] = .instr (.ftanh { d := 1, a := .reg 2, rnd := .rdn }) ∧
  decodeWords [0x00401141, 0x38000003, 0x00000000] = .instr (.fscale { d := 1, a := .reg 2, b := .reg 3 }) ∧
  decodeWords [0x00401145, 0x38000000, 0x00000000] = .instr (.frnd { d := 1, a := .reg 2 }) ∧
  decodeWords [0x00605149, 0x38001200, 0x4224008C] = .instr (.fcvt { d := 5, a := .reg 3, c := .reg 9, ty := .e4m3, rnd := .rsr, cls := 9, sub := 66 }) ∧
  decodeWords [0x0040114D, 0x38000000, 0x000C0000] = .instr (.i2f { d := 1, a := .reg 2, cls := 3 }) ∧
  decodeWords [0x00401151, 0x38000000, 0x00240001] = .instr (.f2i { d := 1, a := .reg 2, ty := .s8, cls := 9 }) ∧
  decodeWords [0x00401155, 0x38000003, 0x00000000] = .instr (.hadd2 { d := 1, a := .reg 2, b := .reg 3 }) ∧
  decodeWords [0x00401159, 0x38000003, 0x0000000A] = .instr (.hmul2 { d := 1, a := .reg 2, b := .reg 3, ty := .bf16 }) ∧
  decodeWords [0x0040115D, 0x38000803, 0x00000000] = .instr (.hfma2 { d := 1, a := .reg 2, b := .reg 3, c := .reg 4 }) ∧
  decodeWords [0x00401161, 0x38000803, 0x00000000] = .instr (.fdot2 { d := 1, a := .reg 2, b := .reg 3, c := .reg 4 }) := by decide +kernel

/-- R57, R60 to R68: the words of the lanes instructions, field by field. -/
theorem test_decode_lanes :
  decodeWords [0x00401201, 0xB8000000, 0x00000000] = .instr (.mov { d := 1, a := .reg 2, one := true }) ∧
  decodeWords [0xC0001207, 0x38000000, 0x00000000, 0x00000009, 0x12345678] = .instr (.movk { d := 1, a := .hi, lit := some 0x1234567800000009 }) ∧
  decodeWords [0x00401209, 0x38000003, 0x00000000] = .instr (.movi { d := 1, a := .reg 2, b := .reg 3 }) ∧
  decodeWords [0x0040020F, 0x38080800, 0x00000000, 0x00000001, 0x00000000] = .instr (.movx { a := .reg 2, b := .lo, c := .reg 4, lit := some 0x1 }) ∧
  decodeWords [0x07C04211, 0x38000000, 0x00000008] = .instr (.s2v { d := 4, a := .reg 62, ty := .z64 }) ∧
  decodeWords [0x00403215, 0x38000000, 0x1F000000] = .instr (.v2s { d := 3, a := .reg 2, sub := 31 }) ∧
  decodeWords [0x00004219, 0x38000000, 0x09000000] = .instr (.rds { d := 4, sub := 9 }) ∧
  decodeWords [0x0040121D, 0x38000003, 0x00000000] = .instr (.perm { d := 1, a := .reg 2, b := .reg 3 }) ∧
  decodeWords [0x00401221, 0x38000003, 0x0D0C0000] = .instr (.shfl { d := 1, a := .reg 2, b := .reg 3, cls := 3, sub := 13 }) ∧
  decodeWords [0x00401225, 0x38000000, 0x03000000] = .instr (.qswap { d := 1, a := .reg 2, sub := 3 }) ∧
  decodeWords [0x00401229, 0x38000000, 0x02000000] = .instr (.qbcast { d := 1, a := .reg 2, sub := 2 }) ∧
  decodeWords [0x0040122D, 0x38000003, 0x00000000] = .instr (.lut16 { d := 1, a := .reg 2, b := .reg 3 }) ∧
  decodeWords [0x00E05231, 0x38000000, 0x03000000] = .instr (.vote { d := 5, a := .reg 7, sub := 3 }) ∧
  decodeWords [0x00401235, 0x38000000, 0x06000009] = .instr (.redux { d := 1, a := .reg 2, ty := .f32, sub := 6 }) ∧
  decodeWords [0x00403239, 0x38000000, 0x10000003] = .instr (.scanx { d := 3, a := .reg 2, ty := .s32, sub := 16 }) ∧
  decodeWords [0x0000123D, 0x38000000, 0x00000000] = .instr (.p2v { d := 1 }) ∧
  decodeWords [0x00200241, 0x38000000, 0x7F000000] = .instr (.v2p { a := .reg 1, sub := 127 }) := by decide +kernel

/-- R57, R60 to R68: the words of the control instructions, field by field. -/
theorem test_decode_control :
  decodeWords [0x00000303, 0x00080000, 0x00000000, 0xFFFFFFF8, 0x00000000] = .instr (.bra { b := .lo, lit := some 0xFFFFFFF8, pred := 0 }) ∧
  decodeWords [0x00400305, 0x38040000, 0x00000000] = .instr (.brx { a := .reg 2, b := .zero }) ∧
  decodeWords [0x0000030B, 0x38080000, 0x00000000, 0x00000040, 0x00000000] = .instr (.call { b := .lo, lit := some 0x40 }) ∧
  decodeWords [0x0040030D, 0x38000005, 0x00000000] = .instr (.callx { a := .reg 2, b := .reg 5 }) ∧
  decodeWords [0x00000311, 0x38000000, 0x00000000] = .instr (.ret {}) ∧
  decodeWords [0x00200317, 0x38380000, 0x00000000, 0x00000010, 0x00000040] = .instr (.split { a := .reg 1, b := .lo, c := .hi, lit := some 0x4000000010 }) ∧
  decodeWords [0x00000319, 0x38000000, 0x00000000] = .instr (.join {}) ∧
  decodeWords [0x0000031D, 0x58000000, 0x00000000] = .instr (.exit { pred := 3, pneg := true }) ∧
  decodeWords [0x00000321, 0x38000000, 0x00000000] = .instr (.yield {}) ∧
  decodeWords [0x00000325, 0x39C00000, 0x00000000] = .instr (.nop { stall := 7 }) ∧
  decodeWords [0x8000032B, 0x38000000, 0x00000000, 0x00000064, 0x00000000] = .instr (.sleep { a := .lo, lit := some 0x64 }) ∧
  decodeWords [0x0040832D, 0x38040000, 0x03040000] = .instr (.tcall { d := 8, a := .reg 2, b := .zero, cls := 1, sub := 3 }) ∧
  decodeWords [0x00800331, 0x38000000, 0x00000000] = .instr (.tret { a := .reg 4 }) ∧
  decodeWords [0x00000337, 0x38000000, 0x00000000, 0x000000FF, 0x00000003] = .instr (.safept { lit := some 0x3000000FF }) ∧
  decodeWords [0x00000339, 0x38000000, 0x00000000] = .instr (.idemb {}) ∧
  decodeWords [0x0000033D, 0x38000000, 0x00000000] = .instr (.ideme {}) ∧
  decodeWords [0x00000341, 0x38000000, 0x00000000] = .instr (.solo {}) ∧
  decodeWords [0x00000345, 0x38000000, 0x00000000] = .instr (.soloe {}) := by decide +kernel

/-- R57, R60 to R68: the words of the memory instructions, field by field. -/
theorem test_decode_memory :
  decodeWords [0x00408401, 0x38040000, 0x00000C07] = .instr (.ld { d := 8, a := .reg 2, b := .zero, order := .acq, scope := .cluster, ty := .z32 }) ∧
  decodeWords [0x00400405, 0x38001005, 0x01000008] = .instr (.st { c := .reg 8, a := .reg 2, b := .reg 5, ty := .z64, sub := 1 }) ∧
  decodeWords [0x00404409, 0x38040000, 0x02040009] = .instr (.ldx { d := 4, a := .reg 2, b := .zero, ty := .f32, sub := 2, cls := 1 }) ∧
  decodeWords [0x0040040D, 0x38040800, 0x02000000] = .instr (.stx { c := .reg 4, a := .reg 2, b := .zero, sub := 2 }) ∧
  decodeWords [0x00400411, 0x38040000, 0x00040000] = .instr (.pref { a := .reg 2, b := .zero, cls := 1 }) ∧
  decodeWords [0x00000415, 0x38000000, 0x00040000] = .instr (.cflush { cls := 1 }) ∧
  decodeWords [0x00400419, 0x38040000, 0x00000000] = .instr (.cinv { a := .reg 2, b := .zero }) ∧
  decodeWords [0x0040041D, 0x38040000, 0x00000000] = .instr (.cwb { a := .reg 2, b := .zero }) ∧
  decodeWords [0x00000421, 0x38000000, 0x00002600] = .instr (.fence { order := .sc, scope := .pkg }) ∧
  decodeWords [0x00404425, 0x38040000, 0x01000000] = .instr (.probe { d := 4, a := .reg 2, b := .zero, sub := 1 }) := by decide +kernel

/-- R57, R60 to R68: the words of the atomics instructions, field by field. -/
theorem test_decode_atomics :
  decodeWords [0x00401501, 0x38040600, 0x00001F00] = .instr (.atom { d := 1, a := .reg 2, b := .zero, c := .reg 3, sub := 0, order := .ar, scope := .sys }) ∧
  decodeWords [0x00401505, 0x38040800, 0x000C0000] = .instr (.acas { d := 1, a := .reg 2, b := .zero, c := .reg 4, cls := 3 }) ∧
  decodeWords [0x00400509, 0x38040600, 0x09000009] = .instr (.red { a := .reg 2, b := .zero, c := .reg 3, sub := 9, ty := .f32 }) ∧
  decodeWords [0x0040150D, 0x38040000, 0x00000000] = .instr (.mcas { d := 1, a := .reg 2, b := .zero }) ∧
  decodeWords [0x00401511, 0x38040800, 0x04000B00] = .instr (.waitc { d := 1, a := .reg 2, b := .zero, c := .reg 4, sub := 4, order := .acq, scope := .group }) ∧
  decodeWords [0x00404515, 0x38041000, 0x001C0000] = .instr (.acas2 { d := 4, a := .reg 2, b := .zero, c := .reg 8, cls := 7 }) ∧
  decodeWords [0x00000581, 0x38000000, 0x00000000] = .instr (.bar {}) ∧
  decodeWords [0x00000585, 0x38000000, 0x00000000] = .instr (.tbar {}) ∧
  decodeWords [0x00000589, 0x38000000, 0x00000000] = .instr (.gbar {}) ∧
  decodeWords [0x0040058F, 0x38240000, 0x00000000, 0x00000001, 0x00000000] = .instr (.wbinit { a := .reg 2, b := .zero, c := .lo, lit := some 0x1 }) ∧
  decodeWords [0x00400591, 0x38040A00, 0x00001600] = .instr (.wbexpect { a := .reg 2, b := .zero, c := .reg 5, order := .rel, scope := .pkg }) ∧
  decodeWords [0x00401595, 0x38040A00, 0x00000000] = .instr (.wbarrive { d := 1, a := .reg 2, b := .zero, c := .reg 5 }) ∧
  decodeWords [0x00400599, 0x38140000, 0x00000000] = .instr (.wbwait { a := .reg 2, b := .zero, c := .zero }) ∧
  decodeWords [0x0040459D, 0x38140000, 0x00000000] = .instr (.wbtest { d := 4, a := .reg 2, b := .zero, c := .zero }) := by decide +kernel

/-- R57, R60 to R68: the words of the matrix instructions, field by field. -/
theorem test_decode_matrix :
  decodeWords [0x00000601, 0x38000000, 0x000C0000] = .instr (.macq { cls := 3 }) ∧
  decodeWords [0x00000605, 0x38000000, 0x000C0000] = .instr (.mrel { cls := 3 }) ∧
  decodeWords [0x00000609, 0x38000000, 0x00040013] = .instr (.mzero { cls := 1, ty := .rn30 }) ∧
  decodeWords [0x0100060D, 0x38000602, 0x00480000] = .instr (.mloop { a := .reg 8, b := .reg 2, c := .reg 3, cls := 18 }) ∧
  decodeWords [0x01000611, 0x38100002, 0x00080000] = .instr (.mstep { a := .reg 8, b := .reg 2, c := .zero, cls := 2 }) ∧
  decodeWords [0x00008617, 0x38080000, 0x00040009, 0x000000FD, 0x00000000] = .instr (.mrd { d := 8, b := .lo, lit := some 0xFD, cls := 1, ty := .f32 }) ∧
  decodeWords [0x00400619, 0x38040A00, 0x0004400C] = .instr (.mst { a := .reg 2, b := .zero, c := .reg 5, cls := 1, ty := .e4m3, sat := true }) ∧
  decodeWords [0x0800061D, 0x38000000, 0x00040000] = .instr (.mldacc { a := .reg 64, cls := 1 }) ∧
  decodeWords [0x02001621, 0x38100000, 0x00000000] = .instr (.tcopy { d := 1, a := .reg 16, c := .zero }) ∧
  decodeWords [0x02001625, 0x38000803, 0x00000000] = .instr (.tmcast { d := 1, a := .reg 16, b := .reg 3, c := .reg 4 }) ∧
  decodeWords [0x00401629, 0x38000000, 0x00000000] = .instr (.tcancel { d := 1, a := .reg 2 }) ∧
  decodeWords [0x0040162D, 0x38000000, 0x00000000] = .instr (.tstat { d := 1, a := .reg 2 }) := by decide +kernel

/-- R57, R60 to R68: the words of the tasks instructions, field by field. -/
theorem test_decode_tasks :
  decodeWords [0x00401701, 0x38040000, 0x00001600] = .instr (.spawn { d := 1, a := .reg 2, b := .zero, order := .rel, scope := .pkg }) ∧
  decodeWords [0x00401705, 0x38040000, 0x00000000] = .instr (.spawnj { d := 1, a := .reg 2, b := .zero }) ∧
  decodeWords [0x00401709, 0x38040000, 0x00000000] = .instr (.depsig { d := 1, a := .reg 2, b := .zero }) ∧
  decodeWords [0x0000270D, 0x38000000, 0x0C0C0000] = .instr (.alloc { d := 2, cls := 3, sub := 12 }) ∧
  decodeWords [0x00400711, 0x38040000, 0x0C000000] = .instr (.free { a := .reg 2, b := .zero, sub := 12 }) := by decide +kernel

/-- R57, R60 to R68: the words of the system instructions, field by field. -/
theorem test_decode_system :
  decodeWords [0x00802783, 0x38080000, 0x00000000, 0x00000005, 0x00000000] = .instr (.syscall { d := 2, a := .reg 4, b := .lo, lit := some 0x5 }) ∧
  decodeWords [0x00010785, 0x38000000, 0x00000000] = .instr (.svpop { d := 16 }) ∧
  decodeWords [0x00800789, 0x38040400, 0x00000000] = .instr (.svdone { a := .reg 4, b := .zero, c := .reg 2 }) ∧
  decodeWords [0x8000078F, 0x38000000, 0x00000000, 0x00000009, 0x00000000] = .instr (.trap { a := .lo, lit := some 0x9 }) ∧
  decodeWords [0x40000791, 0x38040000, 0x00000000] = .instr (.eret { a := .zero, b := .zero }) ∧
  decodeWords [0x00801791, 0x38040000, 0x00000000] = .instr (.eretHeader { d := 1, a := .reg 4, b := .zero }) ∧
  decodeWords [0x00801791, 0x38040000, 0x00040000] = .instr (.eretStep { d := 1, a := .reg 4, b := .zero, cls := 1 }) ∧
  decodeWords [0x00002795, 0x38000000, 0x00400000] = .instr (.crd { d := 2, cls := 16 }) ∧
  decodeWords [0x00400799, 0x38000000, 0x00C40000] = .instr (.cwr { a := .reg 2, cls := 49 }) ∧
  decodeWords [0x00400799, 0x38000000, 0x00C00000] = .instr (.svqbaseWrite { a := .reg 2, cls := 48 }) ∧
  decodeWords [0x00400799, 0x38000000, 0x01000000] = .instr (.timecmpWrite { a := .reg 2, sub := 1 }) ∧
  decodeWords [0x00400799, 0x38000000, 0x04000000] = .instr (.pmselWrite { a := .reg 2, sub := 4 }) ∧
  decodeWords [0x0040079D, 0x38040000, 0x00000000] = .instr (.xinv { a := .reg 2, b := .zero }) ∧
  decodeWords [0x004017A1, 0x38040600, 0x02000000] = .instr (.rmode { d := 1, a := .reg 2, b := .zero, c := .reg 3, sub := 2 }) ∧
  decodeWords [0x004007A5, 0x38040600, 0x00000000] = .instr (.ctxsvArm { a := .reg 2, b := .zero, c := .reg 3 }) ∧
  decodeWords [0x004017A5, 0x38040600, 0x00040000] = .instr (.ctxsvReq { d := 1, a := .reg 2, b := .zero, c := .reg 3, cls := 1 }) ∧
  decodeWords [0x004017A5, 0x38040600, 0x04080000] = .instr (.ctxsvEnd { d := 1, a := .reg 2, b := .zero, c := .reg 3, cls := 2, sub := 4 }) ∧
  decodeWords [0x004017A9, 0x38040000, 0x00000000] = .instr (.ctxld { d := 1, a := .reg 2, b := .zero }) ∧
  decodeWords [0x000007AD, 0x38000000, 0x00000000] = .instr (.wfi {}) ∧
  decodeWords [0x002007B1, 0x38000000, 0x00000000] = .instr (.ipiWake { a := .reg 1 }) ∧
  decodeWords [0x002007B1, 0x38000000, 0x00040000] = .instr (.ipiStop { a := .reg 1, cls := 1 }) ∧
  decodeWords [0x002007B1, 0x38000000, 0x00080000] = .instr (.ipiSl { a := .reg 1, cls := 2 }) ∧
  decodeWords [0x000007B5, 0x38000000, 0x00000000] = .instr (.bkpt {}) ∧
  decodeWords [0x000007B9, 0x38000000, 0x40000000] = .instr (.reggrow { sub := 64 }) ∧
  decodeWords [0x000007BD, 0x38000000, 0x01000000] = .instr (.regshrink { sub := 1 }) ∧
  decodeWords [0x004017C1, 0x38040000, 0xFF000000] = .instr (.lease { d := 1, a := .reg 2, b := .zero, sub := 255 }) := by decide +kernel

/-- R60 to R62: the words of the short forms. -/
theorem test_decode_short :
  decodeWords [0x00000000] = .instr (.nopShort {}) ∧
  decodeWords [0x44080604] = .instr (.movShort { d := 6, a := 4, stall := 1, one := true }) ∧
  decodeWords [0x480A0708] = .instr (.iaddShort { d := 7, a := 5, stall := 2, one := true }) ∧
  decodeWords [0x4C0C080C] = .instr (.isubShort { d := 8, a := 6, stall := 3, one := true }) ∧
  decodeWords [0x300E0910] = .instr (.andShort { d := 9, a := 7, stall := 4, keepA := true }) ∧
  decodeWords [0x14100A14] = .instr (.orShort { d := 10, a := 8, stall := 5 }) ∧
  decodeWords [0x18120B18] = .instr (.xorShort { d := 11, a := 9, stall := 6 }) ∧
  decodeWords [0x1C140C1C] = .instr (.shlShort { d := 12, a := 10, stall := 7 }) ∧
  decodeWords [0x00160D20] = .instr (.shrShort { d := 13, a := 11 }) ∧
  decodeWords [0x04180E24] = .instr (.sarShort { d := 14, a := 12, stall := 1 }) ∧
  decodeWords [0x481A0F28] = .instr (.imulShort { d := 15, a := 13, stall := 2, one := true }) ∧
  decodeWords [0x0C1C102C] = .instr (.iminShort { d := 16, a := 14, stall := 3 }) ∧
  decodeWords [0x101E1130] = .instr (.imaxShort { d := 17, a := 15, stall := 4 }) ∧
  decodeWords [0x34201234] = .instr (.faddShort { d := 18, a := 16, stall := 5, keepA := true }) ∧
  decodeWords [0x18221338] = .instr (.fmulShort { d := 19, a := 17, stall := 6 }) ∧
  decodeWords [0x1C24143C] = .instr (.fminShort { d := 20, a := 18, stall := 7 }) ∧
  decodeWords [0x00261540] = .instr (.fmaxShort { d := 21, a := 19 }) ∧
  decodeWords [0x0C00004C] = .instr (.retShort { stall := 3 }) ∧
  decodeWords [0x10000050] = .instr (.exitShort { stall := 4 }) ∧
  decodeWords [0x14000054] = .instr (.yieldShort { stall := 5 }) ∧
  decodeWords [0x18000058] = .instr (.joinShort { stall := 6 }) ∧
  decodeWords [0x1C00005C] = .instr (.barShort { stall := 7 }) ∧
  decodeWords [0x20381D60] = .instr (.ldShort { d := 29, a := 28, keepA := true }) ∧
  decodeWords [0x043C1E64] = .instr (.stShort { d := 30, a := 30, stall := 1 }) ∧
  decodeWords [0x00020846, 0x89ABCDEF, 0x01234567] = .instr (.movkShort { pair := true, d := 8, lit := 0x0123456789ABCDEF }) ∧
  decodeWords [0x03FFFF48] = .instr (.sbra { off := 0x3FFFF }) := by decide +kernel
/-! ### Single instructions beside the spec's examples -/

/-- Slot 0 of core 0 with a supervisor warp whose current front has the lanes of `m` and whose lane registers are `rs`: lane, register,
value. -/
def testState (m : Mask) (rs : List (Nat × Nat × Word)) (g : Warp → Warp := id) : State :=
  let s := State.reset.withFetchWord 32 0
  let w := (s.select 0 0).warp
  let w := { w with fronts := [{ lanes := m }], threads := (lanesOf m).map fun l => (l, (w.thread l)) }
  (s.select 0 0).setWarp (g (rs.foldl (fun w r => w.setReg r.2.1 r.1 r.2.2) w))

/-- One lane. -/
def testOne (rs : List (Nat × Word)) : State := testState 1 (rs.map fun r => (0, r.1, r.2))

/-- A result that is not a helper thread's (R29). -/
def testLive (s : State) : Write → Bool
  | .reg _ l _ | .pred _ l _ => s.warp.live l
  | .sreg _ _ => true

/-- The results that an instruction leaves on their way, with their distance in cycles. -/
def testLanding (i : Instr) (s : State) : List (Nat × List Write) :=
  match exec i s with
  | .next t => t.warp.pend.map fun p => (p.due - s.cycle, p.writes.filter (testLive s))
  | _ => []

/-- The step answers a next state with a property. -/
def testNext (o : Host.Outcome State Fault Refusal) (p : State → Bool) : Bool := match o with | .next t => p t | _ => false

/-- R118: the worked pair of `IMADW.S32`. -/
theorem test_imadw : testLanding (.imadw { d := 2, a := .reg 3, b := .reg 4, c := .lo, ty := .s32, lit := some 4 })
    (testOne [(3, 0xFFFFFFFE), (4, 3)]) = [(6, [.reg 2 0 0xFFFFFFFE, .reg 3 0 0xFFFFFFFF])] := by decide +kernel

/-- R119: rows of the table of branches. -/
theorem test_irem_sign : testLanding (.irem { d := 1, a := .reg 2, b := .reg 3, ty := .s32 }) (testOne [(2, 0xFFFFFFF9), (3, 2)]) =
    [(26, [.reg 1 0 0xFFFFFFFF])] := by decide +kernel
theorem test_idiv_zero : testLanding (.idiv { d := 1, a := .reg 2, b := .reg 3, ty := .s32 }) (testOne [(2, 5)]) =
    [(26, [.reg 1 0 0xFFFFFFFF])] := by decide +kernel

/-- R121: the worked `LEA.S32`. -/
theorem test_lea : testLanding (.lea { d := 20, a := .reg 16, b := .reg 3, ty := .s32, cls := 3 })
    (testOne [(16, 0x1000), (17, 2), (3, 0xFFFFFFFC)]) = [(4, [.reg 20 0 0xFE0, .reg 21 0 2])] := by decide +kernel

/-- R123: `SAR.S32` of −9 by 2, and of a count above the width. -/
theorem test_sar : testLanding (.sar { d := 1, a := .reg 2, b := .reg 3 }) (testOne [(2, 0xFFFFFFF7), (3, 2)]) =
    [(4, [.reg 1 0 0xFFFFFFFD])] := by decide +kernel
theorem test_sar_wide : testLanding (.sar { d := 1, a := .reg 2, b := .reg 3 }) (testOne [(2, 0xFFFFFFF7), (3, 33)]) =
    [(4, [.reg 1 0 0xFFFFFFFF])] := by decide +kernel

/-- R124: the worked `FSHF.Z32.R`. -/
theorem test_fshf : testLanding (.fshf { d := 1, a := .reg 2, b := .reg 3, c := .reg 4 })
    (testOne [(2, 0x12345678), (3, 0x9ABCDEF0), (4, 8)]) = [(4, [.reg 1 0 0x789ABCDE])] := by decide +kernel

/-- R127: the worked `PRMB`. -/
theorem test_prmb : testLanding (.prmb { d := 1, a := .reg 2, b := .reg 3, c := .reg 4 })
    (testOne [(2, 0x1122), (3, 0x3344), (4, 0x05010400)]) = [(4, [.reg 1 0 0x33114422])] := by decide +kernel
theorem test_prmb_fill : testLanding (.prmb { d := 1, a := .reg 2, b := .reg 3, c := .reg 4 })
    (testOne [(2, 0x80), (4, 0x30303030)]) = [(4, [.reg 1 0 0xFFFFFFFF])] := by decide +kernel

/-- R128: table 0xD8 selects b where a is 1 and c where a is 0. -/
theorem test_lut3 : testLanding (.lut3 { d := 1, a := .reg 2, b := .reg 3, c := .reg 4, sub := 0xD8 })
    (testOne [(2, 0xFF00FF00), (3, 0x12345678), (4, 0x9ABCDEF0)]) = [(4, [.reg 1 0 0x12BC56F0])] := by decide +kernel

/-- R129: the worked `IDOT4.S32.SU`. -/
theorem test_idot4 : testLanding (.idot4 { d := 1, a := .reg 2, b := .reg 3, c := .reg 4, ty := .s32, cls := 1 })
    (testOne [(2, 0xFF020304), (3, 0x01020304), (4, 10)]) = [(6, [.reg 1 0 38])] := by decide +kernel

/-- R132: `PSET p3, p1, p2, #0, #0x02` sets p3 to p1 AND NOT p2. -/
theorem test_pset : testLanding (.pset { d := 3, a := .reg 1, b := .reg 2, c := .zero, sub := 2 })
    (testState 1 [] fun w => w.setPred 1 0 true) = [(4, [.pred 3 0 true])] := by decide +kernel

/-- R64: a predicate result for p7 is discarded. -/
theorem test_p7 : testLanding (.isetp { d := 7, a := .reg 2, b := .reg 3 }) (testOne []) = [] := by decide +kernel

/-- R139: `FMIN` of +0 and −0, and `FMAX` of NaN and −3.0. -/
theorem test_fmin : testLanding (.fmin { d := 1, a := .reg 2, b := .reg 3 }) (testOne [(3, 0x80000000)]) =
    [(4, [.reg 1 0 0x80000000])] := by decide +kernel
theorem test_fmax : testLanding (.fmax { d := 1, a := .reg 2, b := .reg 3 }) (testOne [(2, 0x7FC00001), (3, 0xC0400000)]) =
    [(4, [.reg 1 0 0xC0400000])] := by decide +kernel

/-- R141: `FCLASS.F16` of 0x7E00. -/
theorem test_fclass : testLanding (.fclass { d := 1, a := .reg 2, ty := .f16 }) (testOne [(2, 0x7E00)]) =
    [(4, [.reg 1 0 0x200])] := by decide +kernel

/-- R142: `FSCALE` of 1.5 by −140, and by −149 towards zero. -/
theorem test_fscale : testLanding (.fscale { d := 1, a := .reg 2, b := .reg 3 }) (testOne [(2, 0x3FC00000), (3, 0xFFFFFF74)]) =
    [(4, [.reg 1 0 0x300])] := by decide +kernel
theorem test_fscale_tie : testLanding (.fscale { d := 1, a := .reg 2, b := .reg 3, rnd := .rtz })
    (testOne [(2, 0x3FC00000), (3, 0xFFFFFF6B)]) = [(4, [.reg 1 0 1])] := by decide +kernel

/-- R142: `FRND.RDN` of −0.5. -/
theorem test_frnd : testLanding (.frnd { d := 1, a := .reg 2, rnd := .rdn }) (testOne [(2, 0xBF000000)]) =
    [(4, [.reg 1 0 0xBF800000])] := by decide +kernel

/-- R145: the worked `HADD2.F16`. -/
theorem test_hadd2 : testLanding (.hadd2 { d := 1, a := .reg 2, b := .reg 3, ty := .f16 })
    (testOne [(2, 0x3C003C00), (3, 0xBC003C00)]) = [(4, [.reg 1 0 0x4000])] := by decide +kernel

/-- R147: the worked `FCVT.E4M3.F32.RSR.MRG`, with both seeds. -/
theorem test_fcvt : testLanding (.fcvt { d := 5, a := .reg 3, c := .reg 9, ty := .e4m3, rnd := .rsr, cls := 9, sub := 0x42 })
    (testOne [(3, 0x3F8CCCCD), (9, 0x1234), (5, 0xAABBCCDD)]) = [(6, [.reg 5 0 0xAA39CCDD])] := by decide +kernel
theorem test_fcvt_down : testLanding (.fcvt { d := 5, a := .reg 3, c := .reg 9, ty := .e4m3, rnd := .rsr, cls := 9, sub := 0x42 })
    (testOne [(3, 0x3F8CCCCD), (9, 0xD000), (5, 0xAABBCCDD)]) = [(6, [.reg 5 0 0xAA38CCDD])] := by decide +kernel

/-- R147: `F2I.S8.F32.RNE` of 2.5. -/
theorem test_f2i : testLanding (.f2i { d := 1, a := .reg 2, ty := .s8, cls := 9 }) (testOne [(2, 0x40200000)]) =
    [(6, [.reg 1 0 2])] := by decide +kernel

/-- R158: the worked `LUT16`. -/
theorem test_lut16 : testLanding (.lut16 { d := 1, a := .reg 2, b := .reg 4 }) (testOne [(2, 0xFEDC), (4, 0x321)]) =
    [(6, [.reg 1 0 0xCCCCCFED])] := by decide +kernel

/-- R156: in `SHFL.ROTF` the lane after the last of a segment is the first; a lane whose guard is false is no source, and the lane that
names it keeps its own value and clears the predicate. -/
theorem test_shfl : testLanding (.shfl { d := 8, a := .reg 8, b := .lo, cls := 3, sub := 0x09, lit := some 1, pred := 1 })
    (testState 0xF [(0, 8, 10), (1, 8, 11), (2, 8, 12), (3, 8, 13)] fun w =>
      ((w.setPred 1 1 true).setPred 1 2 true).setPred 1 3 true) =
    [(6, [.reg 8 1 12, .pred 3 1 true, .reg 8 2 13, .pred 3 2 true, .reg 8 3 13, .pred 3 3 false])] := by decide +kernel

/-- R161: the worked `SCANX.S32.ADD`, without its false guard: lanes 0 to 3. -/
theorem test_scanx : testLanding (.scanx { d := 3, a := .reg 2, ty := .s32 })
    (testState 0xF [(0, 2, 1), (1, 2, 2), (2, 2, 3), (3, 2, 4)]) =
    [(10, [.reg 3 0 1, .reg 3 1 3, .reg 3 2 6, .reg 3 3 10])] := by decide +kernel

/-- R72: `.one` gives one result to the uniform registers. -/
theorem test_one : testLanding (.mov { d := 1, a := .lo, one := true, lit := some 9 }) (testOne []) = [(4, [.sreg 1 9])] := by decide +kernel

/-- R143: √2, rounded to nearest, and 1/−0. -/
theorem test_fsqrt : testLanding (.fsqrt { d := 1, a := .reg 2 }) (testOne [(2, 0x40000000)]) = [(18, [.reg 1 0 0x3FB504F3])] := by
  decide +kernel
theorem test_frcp : testLanding (.frcp { d := 1, a := .reg 2 }) (testOne [(2, 0x80000000)]) = [(18, [.reg 1 0 0xFF800000])] := by
  decide +kernel

/-- R167: `SPLIT` sends the takers to the first address and the others to the next instruction, 20 bytes on. -/
theorem test_split : testNext (exec (.split { a := .reg 1, b := .lo, c := .hi, lit := some 0x0000004000000020 })
    (testState 0x3 [] fun w => w.setPred 1 0 true)) (fun t => (t.warp.thread 0).pc.toNat == placedAt + 32 &&
      (t.warp.thread 1).pc.toNat == placedAt + 20 && (Sparse.get? t.warp.entries 0).map (·.join.toNat) == some (placedAt + 64)) = true := by
  decide +kernel

/-- R177: the two worked teams. -/
theorem test_shares : shares 10 false [5, 3, 1] = [6, 3, 1] ∧ shares 3 false [6, 1, 1] = [2, 1, 0] := by decide +kernel

/-- R335, R88: a written control register of the warp reads back. -/
theorem test_crd : testLanding (.crd { d := 2, cls := 0x31 }) (testOne []) = [(6, [.reg 2 0 1024])] := by decide +kernel

/-- R322, R358: a clock step is asked for at the next multiple of 4 096 cycles. -/
theorem test_clock : testNext (exec .clock { State.reset with cycle := 5000, input := { a := 2 } }) (fun t => t.clockCmd == [2] &&
    (t.agenda.getLast?.map (·.at_)) == some 8192) = true := by decide +kernel

/-- Log entry 1: the instruction placed is the one that the next step runs. -/
theorem test_placed : testNext (step (State.reset.withFetchWord 96 0x000000073800000400605001)) (fun t => t.issued &&
    (t.warp.pend.map (·.due)) == [4]) = true := by decide +kernel

/-! ### States and operands that meet the hypotheses of the statements -/

/-- The integer instructions may issue: what the statements about them ask for first. -/
theorem witness_ready_integer :
    ([(0x000, { d := 5, a := .reg 3, b := .reg 4, ty := .z32, sat := true }),
      (0x001, { d := 6, a := .reg 8, b := .reg 10, ty := .s64, stall := 2 }),
      (0x002, { d := 1, a := .zero, b := .reg 2 }),
      (0x003, { d := 1, a := .reg 7, b := .reg 9, ty := .z16 }),
      (0x004, { d := 1, a := .reg 2, b := .reg 3, c := .lo, lit := some 0x7 }),
      (0x005, { d := 2, a := .reg 3, b := .reg 4, c := .reg 6, ty := .s32 }),
      (0x006, { d := 1, a := .reg 2, b := .reg 3, pred := 2 }),
      (0x007, { d := 1, a := .reg 2, b := .reg 3, pred := 2, pneg := true }),
      (0x008, { d := 1, a := .reg 2, ty := .s8 }),
      (0x009, { d := 511, a := .reg 2, b := .reg 3 }),
      (0x00A, { d := 1, a := .reg 2, b := .reg 3, keep := .b }),
      (0x00B, { d := 1, a := .reg 2, b := .reg 3, c := .reg 7, cls := 6 }),
      (0x00C, { d := 1, a := .reg 2, b := .reg 3, c := .zero, cls := 1 }),
      (0x00D, { d := 20, a := .reg 16, b := .reg 3, ty := .s32, cls := 3 }),
      (0x00E, { d := 2, a := .reg 4, b := .lo, ty := .z32, cls := 1, lit := some 0xA }),
      (0x00F, { d := 1, a := .reg 2, b := .reg 3, c := .reg 4, cls := 1 }),
      (0x010, { d := 1, a := .reg 2, b := .reg 3 }),
      (0x011, { d := 2, a := .reg 4, b := .reg 6, ty := .z64 }),
      (0x012, { d := 1, a := .reg 2, b := .reg 3 }),
      (0x013, { d := 1, a := .reg 2, b := .reg 3 }),
      (0x014, { d := 1, a := .reg 2 }),
      (0x015, { d := 1, a := .reg 2, b := .reg 3 }),
      (0x016, { d := 1, a := .reg 2, b := .reg 3 }),
      (0x017, { d := 1, a := .reg 2, b := .reg 3 }),
      (0x018, { d := 1, a := .reg 2, b := .reg 3 }),
      (0x019, { d := 1, a := .reg 2, b := .reg 3, c := .reg 4, cls := 1 }),
      (0x01A, { d := 1, a := .reg 2, b := .reg 3 }),
      (0x01B, { d := 1, a := .reg 2, b := .reg 3, c := .reg 4 }),
      (0x01C, { d := 1, a := .reg 2 }),
      (0x01D, { d := 1, a := .reg 2 }),
      (0x01E, { d := 1, a := .reg 2, ty := .z64 }),
      (0x01F, { d := 1, a := .reg 2 }),
      (0x020, { d := 1, a := .reg 2, b := .reg 3, c := .reg 4 }),
      (0x021, { d := 1, a := .reg 2, b := .reg 3, c := .reg 4, sub := 216 }),
      (0x022, { d := 1, a := .reg 2, b := .reg 3, c := .reg 4, cls := 1 }),
      (0x023, { d := 1, a := .reg 2, b := .reg 3, c := .reg 4, cls := 2 }),
      (0x024, { d := 3, a := .reg 1, b := .reg 2, c := .zero, sub := 8 })] : List (Nat × Fields)).all (fun p => ready p.1 p.2 (testState 0xFFFFFFFF [])) = true := by decide +kernel

/-- The floating instructions may issue: what the statements about them ask for first. -/
theorem witness_ready_floating :
    ([(0x040, { d := 1, a := .reg 2, b := .reg 3, negA := true, rnd := .rtz, ty := .f32 }),
      (0x041, { d := 1, a := .reg 2, b := .reg 3, negB := true }),
      (0x042, { d := 1, a := .reg 2, b := .reg 3, absA := true }),
      (0x043, { d := 1, a := .reg 2, b := .reg 3, c := .reg 4, rnd := .rup }),
      (0x044, { d := 1, a := .reg 2, b := .reg 3 }),
      (0x045, { d := 1, a := .reg 2, b := .reg 3 }),
      (0x046, { d := 1, a := .reg 2, b := .reg 3, c := .reg 0, cls := 14, ty := .f16 }),
      (0x047, { d := 1, a := .reg 2, ty := .bf16 }),
      (0x048, { d := 1, a := .reg 2 }),
      (0x049, { d := 1, a := .reg 2 }),
      (0x04A, { d := 1, a := .reg 2 }),
      (0x04B, { d := 1, a := .reg 2 }),
      (0x04C, { d := 1, a := .reg 2 }),
      (0x04D, { d := 1, a := .reg 2 }),
      (0x04E, { d := 1, a := .reg 2 }),
      (0x04F, { d := 1, a := .reg 2, rnd := .rdn }),
      (0x050, { d := 1, a := .reg 2, b := .reg 3 }),
      (0x051, { d := 1, a := .reg 2 }),
      (0x052, { d := 5, a := .reg 3, c := .reg 9, ty := .e4m3, rnd := .rsr, cls := 9, sub := 66 }),
      (0x053, { d := 1, a := .reg 2, cls := 3 }),
      (0x054, { d := 1, a := .reg 2, ty := .s8, cls := 9 }),
      (0x055, { d := 1, a := .reg 2, b := .reg 3 }),
      (0x056, { d := 1, a := .reg 2, b := .reg 3, ty := .bf16 }),
      (0x057, { d := 1, a := .reg 2, b := .reg 3, c := .reg 4 }),
      (0x058, { d := 1, a := .reg 2, b := .reg 3, c := .reg 4 })] : List (Nat × Fields)).all (fun p => ready p.1 p.2 (testState 0xFFFFFFFF [])) = true := by decide +kernel

/-- The lanes instructions may issue: what the statements about them ask for first. -/
theorem witness_ready_lanes :
    ([(0x080, { d := 1, a := .reg 2, one := true }),
      (0x081, { d := 1, a := .hi, lit := some 0x1234567800000009 }),
      (0x082, { d := 1, a := .reg 2, b := .reg 3 }),
      (0x083, { a := .reg 2, b := .lo, c := .reg 4, lit := some 0x1 }),
      (0x084, { d := 4, a := .reg 62, ty := .z64 }),
      (0x085, { d := 3, a := .reg 2, sub := 31 }),
      (0x086, { d := 4, sub := 9 }),
      (0x087, { d := 1, a := .reg 2, b := .reg 3 }),
      (0x088, { d := 1, a := .reg 2, b := .reg 3, cls := 3, sub := 13 }),
      (0x089, { d := 1, a := .reg 2, sub := 3 }),
      (0x08A, { d := 1, a := .reg 2, sub := 2 }),
      (0x08B, { d := 1, a := .reg 2, b := .reg 3 }),
      (0x08C, { d := 5, a := .reg 7, sub := 3 }),
      (0x08D, { d := 1, a := .reg 2, ty := .f32, sub := 6 }),
      (0x08E, { d := 3, a := .reg 2, ty := .s32, sub := 16 }),
      (0x08F, { d := 1 }),
      (0x090, { a := .reg 1, sub := 127 })] : List (Nat × Fields)).all (fun p => ready p.1 p.2 (testState 0xFFFFFFFF [])) = true := by decide +kernel

/-- The control instructions may issue: what the statements about them ask for first. -/
theorem witness_ready_control :
    ([(0x0C0, { b := .lo, lit := some 0xFFFFFFF8, pred := 0 }),
      (0x0C1, { a := .reg 2, b := .zero }),
      (0x0C2, { b := .lo, lit := some 0x40 }),
      (0x0C3, { a := .reg 2, b := .reg 5 }),
      (0x0C4, {}),
      (0x0C5, { a := .reg 1, b := .lo, c := .hi, lit := some 0x4000000010 }),
      (0x0C6, {}),
      (0x0C7, { pred := 3, pneg := true }),
      (0x0C8, {}),
      (0x0C9, { stall := 7 }),
      (0x0CA, { a := .lo, lit := some 0x64 }),
      (0x0CB, { d := 8, a := .reg 2, b := .zero, cls := 1, sub := 3 }),
      (0x0CC, { a := .reg 4 }),
      (0x0CD, { lit := some 0x3000000FF }),
      (0x0CE, {}),
      (0x0CF, {}),
      (0x0D0, {}),
      (0x0D1, {})] : List (Nat × Fields)).all (fun p => ready p.1 p.2 (testState 0xFFFFFFFF [])) = true := by decide +kernel

/-- The memory instructions may issue: what the statements about them ask for first. -/
theorem witness_ready_memory :
    ([(0x100, { d := 8, a := .reg 2, b := .zero, order := .acq, scope := .cluster, ty := .z32 }),
      (0x101, { c := .reg 8, a := .reg 2, b := .reg 5, ty := .z64, sub := 1 }),
      (0x102, { d := 4, a := .reg 2, b := .zero, ty := .f32, sub := 2, cls := 1 }),
      (0x103, { c := .reg 4, a := .reg 2, b := .zero, sub := 2 }),
      (0x104, { a := .reg 2, b := .zero, cls := 1 }),
      (0x105, { cls := 1 }),
      (0x106, { a := .reg 2, b := .zero }),
      (0x107, { a := .reg 2, b := .zero }),
      (0x108, { order := .sc, scope := .pkg }),
      (0x109, { d := 4, a := .reg 2, b := .zero, sub := 1 })] : List (Nat × Fields)).all (fun p => ready p.1 p.2 (testState 0xFFFFFFFF [])) = true := by decide +kernel

/-- The atomics instructions may issue: what the statements about them ask for first. -/
theorem witness_ready_atomics :
    ([(0x140, { d := 1, a := .reg 2, b := .zero, c := .reg 3, sub := 0, order := .ar, scope := .sys }),
      (0x141, { d := 1, a := .reg 2, b := .zero, c := .reg 4, cls := 3 }),
      (0x142, { a := .reg 2, b := .zero, c := .reg 3, sub := 9, ty := .f32 }),
      (0x143, { d := 1, a := .reg 2, b := .zero }),
      (0x144, { d := 1, a := .reg 2, b := .zero, c := .reg 4, sub := 4, order := .acq, scope := .group }),
      (0x145, { d := 4, a := .reg 2, b := .zero, c := .reg 8, cls := 7 }),
      (0x160, {}),
      (0x161, {}),
      (0x162, {}),
      (0x163, { a := .reg 2, b := .zero, c := .lo, lit := some 0x1 }),
      (0x164, { a := .reg 2, b := .zero, c := .reg 5, order := .rel, scope := .pkg }),
      (0x165, { d := 1, a := .reg 2, b := .zero, c := .reg 5 }),
      (0x166, { a := .reg 2, b := .zero, c := .zero }),
      (0x167, { d := 4, a := .reg 2, b := .zero, c := .zero })] : List (Nat × Fields)).all (fun p => ready p.1 p.2 (testState 0xFFFFFFFF [])) = true := by decide +kernel

/-- The matrix instructions may issue: what the statements about them ask for first. -/
theorem witness_ready_matrix :
    ([(0x180, { cls := 3 }),
      (0x181, { cls := 3 }),
      (0x182, { cls := 1, ty := .rn30 }),
      (0x183, { a := .reg 8, b := .reg 2, c := .reg 3, cls := 18 }),
      (0x184, { a := .reg 8, b := .reg 2, c := .zero, cls := 2 }),
      (0x185, { d := 8, b := .lo, lit := some 0xFD, cls := 1, ty := .f32 }),
      (0x186, { a := .reg 2, b := .zero, c := .reg 5, cls := 1, ty := .e4m3, sat := true }),
      (0x187, { a := .reg 64, cls := 1 }),
      (0x188, { d := 1, a := .reg 16, c := .zero }),
      (0x189, { d := 1, a := .reg 16, b := .reg 3, c := .reg 4 }),
      (0x18A, { d := 1, a := .reg 2 }),
      (0x18B, { d := 1, a := .reg 2 })] : List (Nat × Fields)).all (fun p => ready p.1 p.2 (testState 0xFFFFFFFF [])) = true := by decide +kernel

/-- The tasks instructions may issue: what the statements about them ask for first. -/
theorem witness_ready_tasks :
    ([(0x1C0, { d := 1, a := .reg 2, b := .zero, order := .rel, scope := .pkg }),
      (0x1C1, { d := 1, a := .reg 2, b := .zero }),
      (0x1C2, { d := 1, a := .reg 2, b := .zero }),
      (0x1C3, { d := 2, cls := 3, sub := 12 }),
      (0x1C4, { a := .reg 2, b := .zero, sub := 12 })] : List (Nat × Fields)).all (fun p => ready p.1 p.2 (testState 0xFFFFFFFF [])) = true := by decide +kernel

/-- The system instructions may issue: what the statements about them ask for first. -/
theorem witness_ready_system :
    ([(0x1E0, { d := 2, a := .reg 4, b := .lo, lit := some 0x5 }),
      (0x1E1, { d := 16 }),
      (0x1E2, { a := .reg 4, b := .zero, c := .reg 2 }),
      (0x1E3, { a := .lo, lit := some 0x9 }),
      (0x1E4, { a := .zero, b := .zero }),
      (0x1E4, { d := 1, a := .reg 4, b := .zero }),
      (0x1E4, { d := 1, a := .reg 4, b := .zero, cls := 1 }),
      (0x1E5, { d := 2, cls := 16 }),
      (0x1E6, { a := .reg 2, cls := 49 }),
      (0x1E6, { a := .reg 2, cls := 48 }),
      (0x1E6, { a := .reg 2, sub := 1 }),
      (0x1E6, { a := .reg 2, sub := 4 }),
      (0x1E7, { a := .reg 2, b := .zero }),
      (0x1E8, { d := 1, a := .reg 2, b := .zero, c := .reg 3, sub := 2 }),
      (0x1E9, { a := .reg 2, b := .zero, c := .reg 3 }),
      (0x1E9, { d := 1, a := .reg 2, b := .zero, c := .reg 3, cls := 1 }),
      (0x1E9, { d := 1, a := .reg 2, b := .zero, c := .reg 3, cls := 2, sub := 4 }),
      (0x1EA, { d := 1, a := .reg 2, b := .zero }),
      (0x1EC, { a := .reg 1 }),
      (0x1EC, { a := .reg 1, cls := 1 }),
      (0x1EC, { a := .reg 1, cls := 2 }),
      (0x1ED, {}),
      (0x1EE, { sub := 64 }),
      (0x1EF, { sub := 1 }),
      (0x1F0, { d := 1, a := .reg 2, b := .zero, sub := 255 })] : List (Nat × Fields)).all (fun p => ready p.1 p.2 (testState 0xFFFFFFFF [])) = true := by decide +kernel

/-- The short forms may issue. -/
theorem witness_ready_short :
    ([(0x00, { d := 0, a := 0 }), (0x01, { d := 6, a := 4 }), (0x02, { d := 6, a := 4 }), (0x03, { d := 6, a := 4 }), (0x04, { d := 6, a := 4 }), (0x05, { d := 6, a := 4 }), (0x06, { d := 6, a := 4 }), (0x07, { d := 6, a := 4 }), (0x08, { d := 6, a := 4 }), (0x09, { d := 6, a := 4 }), (0x0A, { d := 6, a := 4 }), (0x0B, { d := 6, a := 4 }), (0x0C, { d := 6, a := 4 }), (0x0D, { d := 6, a := 4 }), (0x0E, { d := 6, a := 4 }), (0x0F, { d := 6, a := 4 }), (0x10, { d := 6, a := 4 }), (0x13, { d := 0, a := 0 }), (0x14, { d := 0, a := 0 }), (0x15, { d := 0, a := 0 }), (0x16, { d := 0, a := 0 }), (0x17, { d := 0, a := 0 }), (0x18, { d := 6, a := 4 }), (0x19, { d := 6, a := 4 })] : List (Nat × Short)).all (fun p => readyShort p.1 p.2 (testState 0xFFFFFFFF [])) = true ∧
    ready 0x081 (ShortLit.ext { d := 8, pair := true, lit := 5 }).2 (testOne []) = true ∧ ready 0x0C0 (ShortBranch.ext { off := 5 }).2 (testOne []) = true := by decide +kernel
/-- What an `Except` holds when it is no error. -/
def testOk {ε α : Type} (x : Except ε α) : Option α := match x with | .ok a => some a | .error _ => none

/-- What a state answers after an instruction, or itself. -/
def testAfter (i : Instr) (s : State) : State := match exec i s with | .next t => t | _ => s

/-- A front whose lanes have different guards, for the branches: p1 is true in lane 0. -/
def testHalf (g : Warp → Warp := id) : State := testState 0x3 [] fun w => g (w.setPred 1 0 true)

/-- `SharedUnitResults`, `MoveResults`: the units are free and nothing is on its way; at the boundary a unit becomes free in this cycle. -/
theorem witness_units : (quarterNow (testOne [])).divNext ≤ (testOne []).cycle ∧ (quarterNow (testOne [])).fnNext ≤ (testOne []).cycle ∧
    quiet (testOne []).warp = true := by decide +kernel

/-- `MoveResults`: register 511 is held, and 512 is not. -/
theorem witness_indexed :
    (let f : Fields := { d := 1, a := .reg 2, b := .lo, lit := some 511 }
     ready 0x082 f (testOne []) = true ∧ (testOne []).warp.holdsReg 511 = true) ∧
    (let f : Fields := { a := .reg 2, b := .lo, c := .reg 4, lit := some 512 }
     ready 0x083 f (testOne []) = true ∧ 511 < (src32 (used f (testOne [])) (testOne []).warp 0 f.a +
       src32 (used f (testOne [])) (testOne []).warp 0 f.b).toNat) := by decide +kernel

/-- `CrossLaneResults`: lane 0 takes part, and it is the first whose guard is true. -/
theorem witness_participants :
    (execLanes {} (testOne []).warp).filter (testOne []).warp.live ≠ [] ∧
    ((testOne []).warp.active.filter (testOne []).warp.live).find? (guardOf {} (testOne []).warp) = some 0 ∧
    ready 0x085 { d := 63, a := .reg 2, sub := 32 } (testOne []) = true := by decide +kernel

/-- `SplitPushesAnEntry`: an entry is free, and all 32 are in use. -/
def testFull : State := testState 0x3 [] fun w => { w with entries := lanes32.map fun i => (i, { join := 0, mask := 0, team := 0, link := none }) }
theorem witness_split :
    (let f : Fields := { a := .reg 1, b := .lo, c := .hi, lit := some 0x0000004000000010 }
     ready 0x0C5 f testHalf = true ∧ testHalf.warp.freeEntry = some 0 ∧ ready 0x0C5 f testFull = true ∧ testFull.warp.freeEntry = none) := by
  decide +kernel

/-- A warp whose two lanes stand at the join of their entry, and one whose front has no entry. -/
def testJoin : State := testState 0x3 [] fun w =>
  { w with entries := [(3, { join := BitVec.ofNat 72 placedAt, mask := 3, team := 0, link := none })]
           threads := w.threads.map fun t => (t.1, { t.2 with entry := some 3 }) }
theorem witness_join :
    ready 0x0C6 {} testJoin = true ∧ readyShort 0x16 {} testJoin = true ∧ releaseAt testJoin .warp = .go ∧
    (match testJoin.warp.entry.bind fun i => Sparse.get? testJoin.warp.entries i with
     | some e => e.join == testJoin.warp.pc && e.team == testJoin.warp.team
     | none => false) = true ∧
    ready 0x0C6 {} testHalf = true ∧ testHalf.warp.entry = none := by decide +kernel

/-- `JoinMerges`: every member is parked at the `JOIN`. -/
def testParked : Warp := parkFront testJoin.warp 0 .join
theorem witness_join_merges :
    Sparse.sorted testParked.entries = true ∧
    Sparse.get? testParked.entries 3 = some { join := BitVec.ofNat 72 placedAt, mask := 3, team := 0, link := none } ∧
    testParked.memberLanes { join := BitVec.ofNat 72 placedAt, mask := 3, team := 0, link := none } ≠ [] ∧
    ∀ l ∈ testParked.memberLanes { join := BitVec.ofNat 72 placedAt, mask := 3, team := 0, link := none },
      (testParked.thread l).entry = some 3 ∧ hasLane (testParked.parkedFor .join) l = true := by decide +kernel

/-- `SoloSections`: outside a section and inside one; at its end with its entry and with another. -/
def testSolo (e : Option Nat) : State := testState 0x1 [] fun w =>
  { w with solos := [(0, { members := 3, entry := e })], threads := w.threads.map fun t => (t.1, { t.2 with solo := some 0 }) }
theorem witness_solo :
    ready 0x0D0 {} testHalf = true ∧ testHalf.warp.inSolo = false ∧ ready 0x0D0 {} (testSolo none) = true ∧
    (testSolo none).warp.inSolo = true ∧ ready 0x0D1 {} (testSolo none) = true ∧
    ((testSolo none).warp.thread (Warp.lowest (testSolo none).warp.frontMask)).solo = some 0 ∧
    Sparse.get? (testSolo none).warp.solos 0 = some { members := 3, entry := none } ∧ (testSolo none).warp.entry = none ∧
    ready 0x0D1 {} (testSolo (some 1)) = true ∧
    Sparse.get? (testSolo (some 1)).warp.solos 0 = some { members := 3, entry := some 1 } ∧ (testSolo (some 1)).warp.entry ≠ some 1 := by
  decide +kernel

/-- `ExitEndsThreads`: no thread, some, and all of the warp, whose release is made. -/
theorem witness_exit :
    ready 0x0C7 { pred := 2 } testHalf = true ∧ testHalf.warp.frontLanes.filter (guardOf { pred := 2 } testHalf.warp) = [] ∧
    testHalf.warp.frontLanes.filter (guardOf { pred := 1 } testHalf.warp) = [0] ∧ testHalf.warp.liveLanes = [0, 1] ∧
    testHalf.warp.frontLanes.filter (guardOf {} testHalf.warp) = [0, 1] ∧ releaseAt testHalf .sys = .go := by decide +kernel

/-- `NopYieldAndSleep`: some thread's guard is true, and none's; an operand that is not 0. -/
theorem witness_sleep :
    ready 0x0CA { a := .lo, lit := some 1, pred := 1 } testHalf = true ∧
    testHalf.warp.frontLanes.filter (guardOf { pred := 1 } testHalf.warp) ≠ [] ∧
    testHalf.warp.frontLanes.filter (guardOf { pred := 2 } testHalf.warp) = [] ∧
    src32 { a := .lo, lit := some 1 } testHalf.warp 0 .lo ≠ 0 ∧ testHalf.selfSlot < 64 := by decide +kernel

/-- `Barriers`: outside a section with the release made, inside one; a group whose threads all wait. -/
def testBarredBy (why : Park) : State := testHalf.setWarp (parkFront testHalf.warp 0 why)
def testBarred : State := testBarredBy .bar
theorem witness_barriers :
    ([0x160, 0x161, 0x162].all fun op => ready op {} testHalf) = true ∧ readyShort 0x17 {} testHalf = true ∧ testHalf.warp.inSolo = false ∧
    releaseAt testHalf .group = .go ∧ releaseAt testHalf .pkg = .go ∧
    ([0x160, 0x161].all fun op => ready op {} (testSolo none)) = true ∧ readyShort 0x17 {} (testSolo none) = true ∧ (testSolo none).warp.inSolo = true ∧
    awayThreads testBarred 0 = [] ∧ ((awayThreads (testBarredBy .tbar) 0).any fun t => t.team == 0) = false ∧
    ([Park.bar, .tbar, .gbar].all fun why => (residents (testBarredBy why) 0 0).length == 2 && (residents (testBarredBy why) 0 0).all fun m =>
      isParked (testBarredBy why) 0 m.1 m.2.1 why && m.2.2.waitPc == BitVec.ofNat 72 placedAt && m.2.2.team == 0) = true := by
  decide +kernel
/-- Tables of warps are in order; a gang of one group, all present at a `GBAR`, and one whose threads wait nowhere. -/
theorem witness_barrier_tables : ∀ c, Sparse.sorted (testBarred.core c).warps = true := by
  intro c
  rcases c with _ | c
  · decide +kernel
  · rfl
theorem witness_gang :
    (let s := { testBarredBy .gbar with gangs := [(4, { size := 1, cls := 0, members := [(0, 0)] })] }
     Sparse.get? s.gangs 4 = some { size := 1, cls := 0, members := [(0, 0)] } ∧ (s.group? 0).any (fun g => g.core == 0 && g.evicted == 0 && g.saved == 0) = true ∧
     gbarPresent s 0 ≠ [] ∧ awayThreads s 0 = []) ∧ gbarPresent testHalf 0 = [] := by decide +kernel
/-- And a group in which one thread does not wait, at whatever address the others do. -/
theorem witness_barrier_open : ∀ pc : Va, ((residents testHalf 0 0).all fun m =>
    if isParked testHalf 0 m.1 m.2.1 .bar then m.2.2.waitPc == pc else isParked testHalf 0 m.1 m.2.1 .tret) = false := by
  intro pc
  have h : ((residents testHalf 0 0).all fun m => isParked testHalf 0 m.1 m.2.1 .bar || isParked testHalf 0 m.1 m.2.1 .tret) = false := by
    decide +kernel
  rw [← Bool.not_eq_true] at h ⊢
  refine fun a => h ?_
  rw [List.all_eq_true] at a ⊢
  intro m hm
  have := a m hm
  revert this
  cases isParked testHalf 0 m.1 m.2.1 .bar <;> simp

/-- `TeamSharesAndReturns`: weights that add up to more than 0. -/
theorem witness_shares : 0 < [0, 1].foldl (· + ·) 0 ∧ 0 < [65535].foldl (· + ·) 0 := by decide

/-- `TeamCallReadsItsTable`: a team of two lanes at a table of two entries. -/
theorem witness_tcall :
    (let s := testState 0x3 [(0, 2, 0x4010000), (1, 2, 0x4010000)]
     let f : Fields := { d := 8, a := .reg 2, b := .zero, sub := 2 }
     let b := begun 0x0CB f s
     let ms := (teamMembers b b.warp.team).getD []
     ready 0x0CB f s = true ∧ s.warp.inSolo = false ∧
     (b.warp.liveLanes.filter fun l => (b.warp.thread l).team == b.warp.team && !hasLane b.warp.frontMask l) = [] ∧
     releaseAt b .group = .go ∧ teamMembers b b.warp.team = some ms ∧ (ms.headD (s.selfSlot, 0, {})).1 = s.selfSlot ∧
     (∀ m ∈ ms, m.1 = s.selfSlot) ∧ vaOf (used f s) b.warp (ms.headD (s.selfSlot, 0, {})).2.1 % 16 = 0 ∧
     ∀ i < f.sub.toNat, ((testOk (translateFor b b.warp .read
       ((vaOf (used f s) b.warp (ms.headD (s.selfSlot, 0, {})).2.1 + 16 * i) % 2 ^ 72))).any fun ia => place b ia != .io) = true) ∧
    ready 0x0CB { d := 8, a := .reg 2, b := .zero, sub := 2 } (testSolo none) = true := by decide +kernel

/-- `TeamSharesAndReturns`: a callee whose entry is the one at its call, and one whose entry is another; the root team. -/
def testCallee (e : Option Nat) : State :=
  let s := testState 0x3 [] fun w => { w with threads := w.threads.map fun t => (t.1, { t.2 with team := teamId 1 0, entry := e }) }
  s.setGroup 0 { placedGroup with frames := [(1, { pframe := none, pteam := 0, ret := 0, n := 2, entered := 1, outst := 1, wentry := [(0, some 5)], d := 8 })] }
theorem witness_tret :
    ready 0x0CC { a := .zero } (testCallee (some 5)) = true ∧ (testCallee (some 5)).warp.inSolo = false ∧
    (testCallee (some 5)).warp.team ≠ 0 ∧ releaseAt (testCallee (some 5)) .group = .go ∧
    ((testCallee (some 5)).group? (testCallee (some 5)).warp.ctx).bind (fun g =>
      (Sparse.get? g.frames ((testCallee (some 5)).warp.team.toNat / 8 % 16)).map fun x => Sparse.get none x.wentry (testCallee (some 5)).warp.wix) =
      some (some 5) ∧
    (testCallee (some 5)).warp.entry = some 5 ∧ (testCallee none).warp.entry ≠ some 5 ∧ ready 0x0CC { a := .zero } testHalf = true ∧
    testHalf.warp.team = 0 := by decide +kernel

/-- `SafepointsAndRegions`: the whole warp in one front of the root team without an entry, and a front with one. -/
theorem witness_region :
    ready 0x0CD { lit := some 1 } testHalf = true ∧ ready 0x0CE {} testHalf = true ∧
    (testHalf.warp.liveLanes.all fun l => hasLane testHalf.warp.frontMask l) = true ∧ testHalf.warp.team = 0 ∧ testHalf.warp.entry = none ∧
    ready 0x0CE {} testJoin = true ∧ testJoin.warp.entry ≠ none ∧ ready 0x0CF {} testHalf = true := by decide +kernel

/-- A readable and writable page, and an address in it whose line its slice holds. -/
def testPte : Pte := { present := true, writable := true, user := true }
def testIa : Nat := 0xFF00000004010000
/-- The four lanes of a quad with neighbouring words as their operands, and the line at its home. -/
def testQuad (g : Warp → Warp := id) : State :=
  { testState 0xF [(0, 2, 0x4010000), (1, 2, 0x4010020), (2, 2, 0x4010040), (3, 2, 0x4010060)] g with
    slices := [(iaSlice testIa, { lines := [(lineOf testIa, { pte := testPte, valid := 0xFFFF })] })] }
/-- What the addresses of a `ld`, a `st` and the like come to. -/
def testXs (f : Fields) (s : State) (a : Access) (align : Nat) (io : Bool) : List (Nat × Nat × Option Nat) :=
  (testOk (operandCheck s s.warp a align io (addresses f s))).getD []
def testF : Fields := { d := 8, a := .reg 2, b := .zero, c := .reg 8 }
/-- Lane 0 is live and does not execute; lane 1 is a helper that does, at an address that is not aligned. -/
def testHelped : State := testState 0x1 [(1, 2, 0x4010003)] fun w => { w with
  threads := [(0, { life := .live, pc := BitVec.ofNat 72 placedAt }), (1, { life := .exited, pc := BitVec.ofNat 72 placedAt, preds := 1 })] }

theorem witness_loads :
    (let s := testQuad
     let vas := (execLanes testF s.warp).map fun l => (l, vaOf testF s.warp l)
     let xs := (testOk (operandCheck s s.warp .read 4 true vas)).getD []
     ready 0x100 testF s = true ∧ xs.length = 4 ∧ (testOk (operandCheck s s.warp .read 4 true vas)).isSome = true ∧
     (∃ x ∈ xs, x.2.2.isSome = true) ∧ (∀ x ∈ xs, redAhead s (mkLane 4 x) = false ∧ ioAhead s (mkLane 4 x) = false) ∧ scOut s = false) ∧
    (let s := testQuad
     let f : Fields := { testF with sub := 3 }
     let vas := (execLanes f s.warp).map fun l => (l, vaOf f s.warp l)
     ready 0x100 f s = true ∧ (testOk (operandCheck s s.warp .read 32 false vas)).isSome = true) ∧
    ready 0x102 testF testQuad = true ∧ readyShort 0x18 { d := 8, a := 2 } testQuad = true ∧
    (let s := testHelped
     let f : Fields := { testF with pred := 0 }
     let vas := (execLanes f s.warp).map fun l => (l, vaOf f s.warp l)
     let xs := (testOk (operandCheck s s.warp .read 4 true vas)).getD []
     ready 0x100 f s = true ∧ xs = [(1, 0x4010003, none)]) := by decide +kernel

/-- An operation of the warp in slot 0 of core 0, its one lane at the line that is held. -/
def testOp (kind : OpKind) (s : State) : MemOp :=
  { kind, core := 0, slot := 0, gen := s.warp.gen, ctx := 0, wix := 0, user := false, tenant := 0, pc := placedAt, f := testF
    lanes := [{ lane := 0, va := 0x4010000, ia := testIa, size := 4, args := [1, 2, 3, 255] }] }
/-- The quad with an operation numbered 7. -/
def testWith (o : MemOp) (g : Warp → Warp := id) : State := { testQuad g with ops := [(7, o)] }
def testLoad : MemOp :=
  { testOp .load testQuad with parts := [{ ia := testIa, lanes := [0], l1 := true, seen := true }], left := 1 }
theorem witness_loaded :
    (let s := testWith testLoad fun w => { w with loads := [7] }
     s.op? 7 = some testLoad ∧ here s testLoad = true ∧ testLoad.left = 1 ∧ (testLoad.part 0).l1 = true ∧ (testLoad.part 0).seen = true ∧
     (∀ x ∈ testLoad.lanes, x.ok = true ∧ x.fwd = []) ∧ testLoad.undo = none ∧ (s.warpAt 0 0).loads = [7]) := by decide +kernel
theorem witness_loaded_unmerged : ∀ q ∈ (testWith testLoad).ops, ∀ j, (q.2.part j).merged ≠ some (7, 0) := by
  intro q hq j
  have : q = (7, testLoad) := by simpa [testWith] using hq
  subst this
  cases j <;> simp [testLoad, MemOp.part]

theorem witness_stores :
    (let s := testQuad
     let xs := testXs testF s .write 4 true
     ready 0x101 testF s = true ∧ (testOk (operandCheck s s.warp .write 4 true (addresses testF s))).isSome = true ∧ xs.length = 4 ∧
     bufferFull s = false ∧ (∀ x ∈ xs, (classOf s s.selfCore (x.2.2.getD 0)).cls ≠ 3 ∧ x.2.2.getD 0 % 512 + 4 ≤ 512)) ∧
    (let s := testState 0x1 [(0, 2, 0x40101E0)]
     let f : Fields := { testF with sub := 3, order := .rel, scope := .sys }
     ready 0x101 f s = true ∧ (testXs f s .write 32 false).length = 1 ∧ releaseAt s .sys = .go ∧
     ∀ x ∈ testXs f s .write 32 false, x.2.2.getD 0 % 512 + 32 ≤ 512) ∧
    readyShort 0x19 { d := 8, a := 2 } testQuad = true := by decide +kernel

theorem witness_home_write : (testQuad.hbm.wf && testQuad.l2.wf && testQuad.flash.wf) = true ∧
    (sline? testQuad testIa).isSome = true ∧ iaLocal testIa % 512 + 512 ≤ 512 ∧ (sline? testQuad (testIa + 511)).isSome = true := by
  decide +kernel

/-- A store that is performed, one that a lock blocks, and one whose page it may not write. -/
def testStore : MemOp := testOp .store testQuad
def testPage (p : Pte) (lock : Option Nat) (s : State) : State :=
  { s with slices := [(iaSlice testIa, { lines := [(lineOf testIa, { pte := p, valid := 0xFFFF, lock })] })] }
theorem witness_store_performed :
    (let s := testWith testStore
     let x : Lane := { lane := 0, va := 0x4010000, ia := testIa, size := 4, args := [1, 2, 3, 255] }
     s.input.flag = false ∧ s.op? 7 = some testStore ∧ testStore.lanes = [x] ∧ place s x.ia = .here ∧ x.size = x.args.length ∧ iaLocal x.ia % 512 + x.size ≤ 512 ∧
     blocked s (x.ia, x.size) 7 0 = false ∧
     (testOk (openLine s (x.ia, x.size) 7 testStore.who true true)).any (fun p => p.2.2.hbm.wf && p.2.2.l2.wf && p.2.2.flash.wf) = true) ∧
    (let s := testPage testPte (some 9) (testWith testStore)
     blocked s (testIa, 4) 7 0 = true) ∧
    (let s := testPage { testPte with writable := false } none (testWith testStore)
     blocked s (testIa, 4) 7 0 = false ∧
     (match openLine s (testIa, 4) 7 testStore.who true true with | .error (some c) => c == 0x0B | _ => false) = true) := by decide +kernel
theorem witness_acknowledged :
    (let s := testWith testStore fun w => { w with unack := w.unack.set (targetOf testQuad 0 testIa) 1 }
     Sparse.sorted s.ops = true ∧ s.op? 7 = some testStore ∧ testStore.counted = true ∧ here s testStore = true ∧
     (s.warpAt 0 0).storeBuf = []) := by decide +kernel

theorem witness_other_accesses :
    (let s := testQuad
     ready 0x103 testF s = true ∧ (testOk (operandCheck s s.warp .write 1 false (addresses testF s))).isSome = true ∧
     testXs testF s .write 1 false ≠ [] ∧ bufferFull s = false) ∧
    ready 0x104 { testF with d := 0, c := .reg 0 } testQuad = true ∧ ready 0x109 { testF with c := .reg 0 } testQuad = true ∧
    ready 0x109 { testF with c := .reg 0, sub := 1 } testQuad = true := by decide +kernel
/-- And the lanes whose lines `PREF` asks for, those that `PROBE.WALK` sends, and a walk that is answered. -/
theorem witness_prefetch :
    (let s := testQuad
     let ias := (execLanes (used testF s) s.warp).filterMap fun l => testOk (translateFor s s.warp .read (vaOf (used testF s) s.warp l))
     ias.length = 4 ∧ (ias.all fun ia => place s ia == .here && !l1Hit s s.selfCore ⟨!s.warp.priv, s.warp.tenant.toNat⟩ ia 1) = true ∧
     (legsOf (ias.map fun ia => ({ lane := 0, va := 0, ia, size := 1 } : Lane)) []).length = 1) ∧
    (execLanes (used { testF with pred := 2 } testQuad) testQuad.warp) = [] ∧
    ((execLanes (used testF testQuad) testQuad.warp).all fun l => ((probeRange testQuad.warp (vaOf testF testQuad.warp l)).2).any fun ia =>
      place testQuad ia == .here && decide (iaDie ia < Config.dieCount testQuad.part)) = true ∧
    (let o := testOp .probe testQuad
     let o := { o with left := 1 }
     (testWith o).op? 7 = some o ∧ o.kind = .probe ∧ here (testWith o) o = true) := by decide +kernel

theorem witness_cache :
    (let s := testState 0x1 [(0, 2, 0x4010000)]
     let f : Fields := { a := .reg 2, b := .zero }
     ready 0x105 f s = true ∧ ready 0x106 f s = true ∧ ready 0x107 f s = true ∧ f.cls ≠ 1 ∧
     (execLanes (used f s) s.warp).filter s.warp.live = [0] ∧ s.warp.priv = true ∧ bufferFull s = false ∧
     (testOk (operandCheck s s.warp .read 1 false [(0, vaOf (used f s) s.warp 0)])) = some [(0, vaOf (used f s) s.warp 0, some testIa)] ∧
     (l1? s s.selfCore testIa).all (fun y => y.errs == 0) = true ∧
     Sparse.sorted (s.core s.selfCore).l1 = true) := by decide +kernel

/-- A fence whose release and acquire are done, and one with a store still on the way. -/
theorem witness_fence :
    (let f : Fields := { order := .sc, scope := .sys }
     ready 0x108 f testQuad = true ∧ execLanes (used f testQuad) testQuad.warp ≠ [] ∧ releaseAt testQuad .sys = .go ∧
     testQuad.warp.loads = [] ∧ atomicOut testQuad = false ∧
     (let s := testQuad fun w => { w with unack := w.unack.set (targetOf testQuad 0 testIa) 1 }
      ready 0x108 f s = true ∧ releaseAt s .sys = .wait)) := by decide +kernel

theorem witness_misaligned :
    (let s := testState 0x3 [(0, 2, 0x4010000), (1, 2, 0x4010003)]
     let named (ls : List Nat) : List (Nat × Nat) := ls.map fun l => (l, vaOf (used testF s) s.warp l)
     let n := testF.count * ((testF.tyOf 0x100).width / 8)
     ready 0x100 testF s = true ∧ execLanes (used testF s) s.warp = [0] ++ 1 :: [2, 3] ∧ s.warp.live 1 = true ∧
     (testOk (operandCheck s s.warp .read n true (named [0]))).isSome = true ∧ vaOf (used testF s) s.warp 1 % n ≠ 0 ∧
     ready 0x101 testF s = true ∧ (execLanes (used testF s) s.warp).filter s.warp.live = [0] ++ 1 :: [] ∧
     (testOk (operandCheck s s.warp .write n true (named [0]))).isSome = true) := by decide +kernel

/-- `SliceEvents`: a load that comes to its home, with a page that it may read and one that it may not; an expired copy and a leased one. -/
def testCopyAt (until_ : Nat) : State :=
  { testWith testLoad with slices := [(60, { copies := [(lineOf testIa, { pte := testPte, valid := 1, lease := [(0, until_)] })] })] }
theorem witness_slices :
    (let s := testWith { testLoad with parts := [{ ia := testIa, lanes := [0] }] }
     s.input.flag = false ∧ place s testIa = .here ∧ lockedFor s testIa 7 = false ∧ lineOf testIa < 2 ^ 31 ∧ (testOk (openLine s (testIa, 4) 7 testLoad.who false false)).isSome = true) ∧
    (let s := testPage { testPte with present := false } none (testWith { testLoad with parts := [{ ia := testIa, lanes := [0] }] })
     (match openLine s ((testLoad.spans 0).headD (testIa, 1)) 7 testLoad.who false false with | .error (some c) => c == 0x0A | _ => false) = true) ∧
    (Sparse.get? ((testCopyAt 0).slice 60).copies (lineOf testIa)).isSome = true ∧ Sparse.sorted ((testCopyAt 0).slice 60).copies = true ∧ blocked (testCopyAt 0) (testLoad.left + 0x40, 0x50) 7 0 = false ∧ Sparse.sorted (testCopyAt 0).ops = true ∧
    ((Sparse.get? ((testCopyAt 0).slice 60).copies (lineOf testIa)).any fun y =>
      decide (Sparse.get 0 y.lease (testCopyAt 0).input.a ≤ (testCopyAt 0).now) && unitMask y.pte.cls 0 % 2 == 1) = true ∧
    ((Sparse.get? ((testCopyAt 1).slice 60).copies (lineOf testIa)).any fun y =>
      decide ((testCopyAt 1).now < Sparse.get 0 y.lease (testCopyAt 1).input.a)) = true ∧
    Sparse.sorted (testCopyAt 1).ops = true := by decide +kernel

/-- `AtomicsIssue`, `WaitsAndReductionsIssue`: the addresses of the quad pass the checks for each width, and no store of its own is out. -/
def testG : Fields := { d := 4, a := .reg 2, b := .zero, c := .reg 8 }
theorem witness_atomics :
    ([0x140, 0x141, 0x142, 0x143, 0x144, 0x145, 0x163, 0x164, 0x165, 0x166, 0x167].all fun op =>
      ready op { testG with d := if op = 0x142 ∨ op = 0x163 ∨ op = 0x164 ∨ op = 0x166 then 0 else 4
                            c := if op = 0x143 then .reg 0 else .reg 8 } testQuad) = true ∧
    ([4, 8, 16, 32].all fun n => (testXs testG testQuad .both n false).length == 4 && (testXs testG testQuad .both n false).all fun x =>
      !ownStoreOut testQuad (mkLane n x) && !redAhead testQuad (mkLane n x)) = true ∧
    (testXs testG testQuad .read 16 false).length = 4 ∧ scOut testQuad = false ∧ bufferFull testQuad = false ∧
    releaseAt testQuad .sys = .go := by decide +kernel
theorem witness_counter_room : ∀ t, counterRoom testQuad.warp t 4 = true := by
  intro t
  cases t <;> decide +kernel

/-- `WaitsAndReductionsIssue`: a `WAITC` whose guard is true in lane 0 only; the other lanes of the front go on (R69, R248). -/
theorem witness_waitc :
    (let s := testQuad fun w => w.setPred 1 0 true
     let f : Fields := { testG with pred := 1 }
     ready 0x144 f s = true ∧ (testXs f s .read 4 false).map (·.1) = [0] ∧ hasLane s.warp.frontMask 1 = true ∧
     testNext (exec (.waitc f) s) (fun t => hasLane (t.warp.parkedFor .waitc) 0 && (t.warp.thread 0).pc.toNat == placedAt &&
       (t.warp.thread 1).pc.toNat == placedAt + 4 * wordsX f) = true) := by decide +kernel

/-- An atomic that has come to its home. -/
def testAtom : MemOp :=
  { testOp .atom testQuad with
    op := 0x140, visit := 1, lanes := [{ lane := 0, va := 0x4010000, ia := testIa, size := 4, args := [5] }]
    parts := [{ ia := testIa, lanes := [0] }] }
theorem witness_atom_home :
    (let s := testWith testAtom
     let x : Lane := { lane := 0, va := 0x4010000, ia := testIa, size := 4, args := [5] }
     let p := testAtom.part 0
     s.input.flag = false ∧ s.op? 7 = some testAtom ∧ testAtom.lanes = [x] ∧ x.ok = true ∧ p.lanes = [x.lane] ∧ p.ia = x.ia / 512 * 512 ∧ place s p.ia = .here ∧
     iaLocal x.ia % 512 + x.size ≤ 512 ∧ resultRoom s testAtom p.ia 7 = true ∧ lockedFor s x.ia 7 = false ∧
     blocked s (x.ia, x.size) 7 0 = false ∧
     (testOk (openLine s (x.ia, x.size) 7 testAtom.who true false)).any (fun q => homeErrs q.2.2 x.ia == 0 && !markWaits q.2.2 x.ia 7 true &&
       (testOk (openLine (markPage (unpend q.2.2 p.ia 7 0) x.ia true) (x.ia, x.size) 7 ⟨false, 0⟩ false false)).any fun r =>
         r.2.2.hbm.wf && r.2.2.l2.wf && r.2.2.flash.wf) = true) := by
  decide +kernel

/-- A block compare-and-swap of one thread at the line of its block, which is free or held by operation 9. -/
def testMcas : MemOp :=
  { testOp .mcas testQuad with stage := 2, parts := [{ ia := testIa, lanes := [0] }], lanes := [{ lane := 0, va := 0x4010000, ia := testIa, size := 8, args := [0, 0] }] }
theorem witness_lock :
    (let s := testWith testMcas
     s.input.flag = false ∧ s.input.a = 0 ∧ (testMcas.part 0).ia = testIa ∧ place s testIa = .here ∧ (sline? s testIa).isSome = true ∧
     (sline? s testIa).any (fun l => l.lock.isNone && l.lockQ.isEmpty && l.held == 0 && l.errs == 0 && (pteCheck l.pte testMcas.who true).isNone) = true ∧
     resultRoom s testMcas testIa 7 = true ∧ s.hbmErrs = [] ∧ (∀ x ∈ testMcas.lanes, x.ok = true) ∧
     ∀ x ∈ testMcas.lanes, x.lane ∈ (testMcas.part 0).lanes ∧ l1Key s x.ia = l1Key s testIa ∧ writeAhead s (homeClass s x.ia) (x.ia, 8) 7 0 = false ∧ blocked s (x.ia, 8) 7 0 = false) ∧
    (let s := testPage testPte (some 9) (testWith testMcas)
     (sline? s testIa).any (fun l => l.lock == some 9) = true) := by decide +kernel

/-- A waiting entry whose word meets its condition, and one whose word does not; a request that has gone unanswered for 16 384 cycles. -/
def testWait : WaitEnt :=
  { ia := testIa, width := 32, signed := true, cmp := 2, value := 0xFFFFFFFF, mask := 0, lanes := 1, core := 0, slot := 0, ctx := 0
    acq := false, scope := 0, op := 7 }
theorem witness_wait :
    waitCond .s32 2 0 testWait.value 0 = true ∧ waitCond .s32 2 0x80000000 testWait.value 0 = false ∧ testWait.width ≠ 8 ∧
    (let o := { testAtom with kind := .waitc }
     let s : State := { testWith o with slices := [(5, { waits := [(2, testWait)] })] }
     s.op? testWait.op = some o ∧ Sparse.sorted (s.slice 5).waits = true ∧ Sparse.get? (s.slice 5).waits 2 = some testWait ∧ here s o = true ∧
     (List.range o.parts.length).find? (fun k => (o.part k).lanes == lanesOf testWait.lanes) = some 0) ∧
    (let o := { testAtom with lanes := testAtom.lanes.map fun x => { x with ia := x.ia + 2 ^ 38 } }
     let s : State := { testWith o with cycle := 16384 }
     here s o = true ∧ (o.asked 0).any (fun q => q.sent == s.input.b && decide (q.tries < 8) && decide (q.sent + 16384 * (q.tries + 1) ≤ s.cycle) &&
       place s q.ia == .here) = true ∧
     (let s : State := { s with input := { a := 0, flag := true }, slices := [(iaSlice testIa, { results := [(7, 0)] })] }
      s.input.flag = true ∧ (o.asked 0).any (fun q => q.sent == s.input.b && place s q.ia == .here &&
        (s.slice (iaSlice q.ia)).results.contains (7, if o.kind = .mcas ∧ o.stage = 3 then 16 + 0 else 0)) = true)) ∧
    (let o := { testAtom with lanes := testAtom.lanes.map fun x => { x with ia := testIa % 2 ^ 56 + 5 * 2 ^ 56 }, parts := [{ ia := testIa % 2 ^ 56 + 5 * 2 ^ 56, lanes := [0] }] }
     let s : State := { testWith o with now := 250000 }
     (o.asked 0).any (fun q => (match place s q.ia with | .other _ => true | _ => false) && decide (q.tick + 250000 * (q.tries + 1) ≤ s.now)) = true) := by
  decide +kernel

/-- `WeighbridgesCount`: a bridge of 8 bytes expected and none armed, at the flip and above it; one still armed once and twice. -/
def testBridge (arms arrived : Nat) : Bridge := ⟨8, arrived, arms, 1, false, false⟩
def testBits (b : Bridge) : Nat :=
  b.expected + 2 ^ 32 * b.arrived + 2 ^ 64 * b.arms + 2 ^ 80 * b.armInit + 2 ^ 96 * (b.phase.toNat + 2 * b.overrun.toNat)
theorem witness_bridges :
    Bridge.ofNat (testBits (testBridge 0 0)) = testBridge 0 0 ∧ Bridge.ofNat (testBits (testBridge 1 8)) = testBridge 1 8 ∧
    Bridge.ofNat (testBits (testBridge 2 0)) = testBridge 2 0 ∧ (testBridge 0 0).arrived + 8 = (testBridge 0 0).expected ∧
    (testBridge 0 0).expected < (testBridge 0 0).arrived + 9 ∧ (testBridge 1 8).arrived = (testBridge 1 8).expected + 0 ∧
    0 < 65535 ∧ 65535 ≤ 65535 := by decide +kernel

/-- A group with two accumulator slots, the first owned by the warp in slot 0. -/
def testAcc (g : Warp → Warp := id) : State :=
  let s := (testState 0xFFFFFFFF [] g).setGroup 0 { placedGroup with sett := { placedGroup.sett with accs := 2 }, slots := [(0, 4), (1, 5)] }
  s.setCore 0 { s.core 0 with accs := [(4, { group := some 0, owner := some 0 }), (5, { group := some 0 })] }
theorem witness_slots :
    ([0x181, 0x182].all fun op => ready op {} testAcc && ready op { cls := 1 } testAcc) = true ∧
    ownedSlot testAcc (accName {}) = some 4 ∧ ownedSlot testAcc (accName { cls := 1 }) = none ∧ slotHeld testAcc 4 = false ∧
    (testAcc.acc 0 4).stopped = none ∧ (testAcc.acc 0 4).errs = [] ∧ residueAbsent testAcc 4 = false ∧ testAcc.warp.active ≠ [] ∧
    ready 0x180 { cls := 1 } testAcc = true ∧ testAcc.onSl = false ∧ (testAcc.group? testAcc.warp.ctx).any (fun g =>
      g.sett.accs == 2 && g.slotsSaved.isEmpty && Sparse.get? g.slots 1 == some 5 && (waiters testAcc g 1).isEmpty && g.core == 0) = true ∧
    (testAcc.acc 0 5).owner = none ∧ Sparse.get? (testAcc.core 0).warps testAcc.selfSlot = some testAcc.warp ∧
    ready 0x180 { cls := 2 } testAcc = true ∧ ready 0x180 {} testAcc = true ∧
    ready 0x185 { d := 8, b := .zero, ty := .f32 } testAcc = true ∧
    missingReg testAcc.warp ((List.range (2 * Forms.mrdBits .f32)).map (8 + ·)) = none ∧
    ready 0x187 { a := .reg 64 } testAcc = true ∧ missingReg testAcc.warp ((List.range 64).map (64 + ·)) = none ∧
    errRegs testAcc.warp lanes32 ((List.range 64).map (64 + ·)) = none := by decide +kernel
theorem witness_mst :
    (let s := testAcc fun w => w.setReg 2 0 0x4010000
     let f : Fields := { a := .reg 2, b := .zero, c := .zero, ty := .f32, pred := 7 }
     ready 0x186 f s = true ∧ (testOk (operandCheck s s.warp .write 1 false (addresses f s))).isSome = true ∧
     testXs f s .write 1 false ≠ [] ∧ bufferFull s = false ∧ ownedSlot s (accName f) = some 4 ∧ slotHeld s 4 = false ∧
     (s.acc 0 4).stopped = none ∧ (s.acc 0 4).errs = [] ∧ residueAbsent s 4 = false) := by decide +kernel

/-- A loop of one step over one bench whose A rows are tagged E4M3 and whose bank holds E4M3 tiles. -/
def testLoopF : Fields := { a := .reg 8, b := .zero, c := .lo, cls := 0, lit := some 1 }
def testLoopS (bank : Bool) : State :=
  let s := testAcc fun w => { w with tags := (List.range 64).map fun b => (b, 4) }
  s.setCore 0 { s.core 0 with tileTags := if bank then (List.range 256).map fun b => (b, 4) else [] }
theorem witness_loops :
    (let s := testLoopS true
     let x := loopArgs 0x183 (used testLoopF s) s.warp
     ready 0x183 testLoopF s = true ∧ ownedSlot s (accName testLoopF) = some 4 ∧
     scoreboard s.warp (loopUses (x.regs s.warp)) = false ∧ slotHeld s 4 = false ∧ (∀ k < x.steps, missingReg s.warp (x.regsOf s.warp k) = none) ∧
     earlyUse s.warp s.cycle (loopUses (x.regs s.warp)) .locked = false ∧ x.limit s s.warp = none ∧
     ((List.range x.steps).map (x.fmtsAt s s.selfCore s.warp (s.acc s.selfCore 4).residue)).any Option.isNone = false ∧
     (s.core s.selfCore).loopq.length < 8 ∧ residueAbsent s 4 = false ∧ (s.acc s.selfCore 4).stopped = none ∧
     errRegs s.warp lanes32 (x.regs s.warp) = none) ∧
    ready 0x184 { testLoopF with c := .zero, lit := none } (testLoopS true) = true ∧
    (let s := testLoopS false
     let x := loopArgs 0x183 testLoopF s.warp
     x.limit s s.warp = none ∧
     ((List.range x.steps).map (x.fmtsAt s s.selfCore s.warp (s.acc s.selfCore 4).residue)).any Option.isNone = true) ∧
    (let s := testLoopS true
     let f : Fields := { testLoopF with c := .zero, lit := none }
     ready 0x183 f s = true ∧ (loopArgs 0x183 f s.warp).limit s s.warp = some (2 ^ 17)) := by decide +kernel

/-- A loop at the head of the queue, waiting for its start, four cycles after its issue. -/
def testLoop : Loop :=
  { slot := 0, gen := (testLoopS true).warp.gen, ctx := 0, user := false, acc := 4, va := 8, off := 0, bankCore := 0, steps := 1, incA := 0
    incB := 0, nb := 1, fmts := [(4, 4)], id := 3, issued := 0, lead := 100 }
def testQueue (cycle : Nat) : State :=
  let s := testLoopS true
  { s.setCore 0 { s.core 0 with loopq := [testLoop, { testLoop with id := 4 }], gateidle := 5 } with cycle }
theorem witness_loop_events :
    (let s := testQueue 4
     (s.core 0).loopq = [testLoop, { testLoop with id := 4 }] ∧ testLoop.start = none ∧ testLoop.bankCore = 0 ∧
     testLoop.startAt s 0 ≤ s.cycle ∧ testLoop.step < testLoop.steps ∧ (∀ b < testLoop.nb, (s.bench 0 b).gated = false) ∧
     (s.warpAt 0 testLoop.slot).gen = testLoop.gen ∧ (s.acc 0 testLoop.acc).group = some testLoop.ctx ∧
     (s.core 0).bankErrs = [] ∧ (s.acc 0 testLoop.acc).errs = []) ∧
    (testQueue 3).cycle < testLoop.startAt (testQueue 3) 0 ∧
    benchIdle { testLoopS true with cycle := 5 } 0 1 = false ∧
    (let s := { testLoopS true with cycle := 5 }
     benchIdle (s.setCore 0 { s.core 0 with gateidle := 5 }) 0 1 = true) := by decide +kernel

/-- A copy of `len` bytes from one place of memory to another (KIND 0), its descriptor in v16 to v31. -/
def testCopyS (len : Word) : State :=
  { testState 0x1 [(0, 16, 0x4010000), (0, 18, 0x100), (0, 19, len), (0, 29, 0x4020000)] with slices := testQuad.slices }
theorem witness_copies :
    (let s := testCopyS 64
     let f : Fields := { d := 1, a := .reg 16, c := .zero }
     let d := regBytes s.warp ((soleLane s.warp).getD 0) (srcNum f.a) 16
     ready 0x188 f s = true ∧ descKind d = 0 ∧ descBad s s.warp d none f.ty = none ∧ missingReg s.warp [] = none ∧
     Config.residue s.part = true ∧ copyMiss s s.warp d f.ty none = none ∧ scoreboard s.warp { writeR := copyHold [] } = false ∧
     (s.core s.selfCore).copies.length < copySlots) ∧
    (let s := testCopyS 0
     let f : Fields := { d := 1, a := .reg 16, c := .zero }
     ready 0x188 f s = true ∧ descBad s s.warp (regBytes s.warp 0 16 16) none f.ty = some (4, 12)) ∧
    (let s := (testCopyS 64).setWarp ((testCopyS 64).warp.setReg 18 0 0x20100)
     let s := s.setWarp (s.warp.setReg 29 0 0)
     let f : Fields := { d := 1, a := .reg 16, b := .lo, c := .zero, lit := some 15 }
     let d := regBytes s.warp 0 16 16
     ready 0x189 f s = true ∧ descKind d = 2 ∧ descBad s s.warp d (some 15) f.ty = none ∧ bankLimit d (firstFmt s s.warp d) = none) := by
  decide +kernel

theorem witness_copy_room : ∀ t, counterRoom (testCopyS 64).warp t 1 = true := by
  intro t
  cases t <;> decide +kernel

/-- A copy in entry 5 with the ticket of its generation, and one that waits for an entry. -/
def testEntry : Copy :=
  { id := 7, ticket := 2, dest := 1, vals := [0], lane := 0, ranges := [], lmask := 0, desc := List.replicate 64 1, mask := 0
    wb := some (0x4010000, testIa), conv := .dflt, target := none, startAt := 0, fail := some (0x0A, 0x4010000) }
def testTable (e : Nat) : State :=
  let s := testWith (testOp .copy testQuad)
  let s := { s with slices := [] }
  let s := s.setWarp { s.warp with fronts := [{ lanes := 1 }], regs := [(2 * 32, 2 * 1024 + 5)] }
  s.setCore 0 { s.core 0 with copies := [(e, testEntry)] }
theorem witness_tickets :
    ready 0x18B { d := 1, a := .reg 2 } (testTable 5) = true ∧ ready 0x18A { d := 1, a := .reg 2 } (testTable 5) = true ∧
    (testTable 5).warp.active = [0] ∧
    (ticketOf (testTable 5) ((testTable 5).warp.reg 2 0).toNat).any (fun p => p.1 == 5 && p.2 == testEntry) = true ∧
    ticketOf (testTable 4) ((testTable 4).warp.reg 2 0).toNat = none ∧
    (testTable 5).op? 7 = some (testOp .copy testQuad) ∧ Sparse.sorted (testTable 5).ops = true ∧
    Sparse.sorted ((testTable 5).core 0).copies = true ∧ here (testTable 5) (testOp .copy testQuad) = true ∧
    ((testTable 5).warpAt 0 0).storeBuf = [] ∧ areaDeferred (testTable 5) ((testTable 5).warpAt 0 0) = none ∧ testEntry.vals ≠ [] ∧
    (testOp .copy testQuad).stage ≠ 1 ∧ ({ testEntry with wb := none } : Copy).wb = none ∧
    Sparse.get? ((testTable copySlots).core 0).copies copySlots = some testEntry ∧
    (List.range copySlots).find? (fun e => (Sparse.get? ((testTable copySlots).core 0).copies e).isNone) = some 0 := by decide +kernel

/-- The arrival of that copy at its weighbridge, which expects 8 bytes more. -/
def testArrive : MemOp :=
  { testOp .copy testQuad with stage := 1, lanes := [{ lane := 0, va := 0x4010000, ia := testIa, size := 16, args := [8] }] }
theorem witness_arrival :
    (let s := testWith testArrive
     let s := s.setCore 0 { s.core 0 with copies := [(5, testEntry)] }
     let s := { s with l2 := Memory.writeAll [] (iaLocal testIa) (toBytes 16 (testBits (testBridge 0 0))) }
     s.input.flag = false ∧ s.op? testEntry.id = some testArrive ∧ here s testArrive = true ∧ (s.warpAt 0 0).storeBuf = [] ∧
     place s testIa = .here ∧ testIa % 16 = 0 ∧ (s.core 0).copies.find? (fun q => q.2.id == 7) = some (5, testEntry) ∧
     Sparse.sorted (s.core 0).copies = true ∧ blocked s (testIa, 16) 7 0 = false ∧
     (testOk (openLine s (testIa, 16) 7 testArrive.who true true)).any (fun p => p.2.2.hbm.wf && p.2.2.l2.wf && p.2.2.flash.wf &&
       homeErrs p.2.2 testIa == 0 && !badBridge (homeNat p.2.2 testIa 16)) = true) := by decide +kernel
/-- `TaskInstructions`: the sett addresses of a quad pass the checks; a block of the warp's own cluster, and one of the next. -/
def testTask : State := testState 0xF [(0, 2, 0x4010000), (1, 2, 0x4010040), (2, 2, 0x4010080), (3, 2, 0x40100C0)]
def testFree (va : Word) : State :=
  let s := testState 0x1 [(0, 2, va)]
  s.setCluster 0 { s.cluster 0 with desc := some { tipLog := 10, ashift := 16, tipIa := 0, winIa := testIa, winVa := 0x4010000 }, carve := 0 }
theorem witness_tasks :
    (let f : Fields := { d := 1, a := .reg 2, b := .zero }
     ([0x1C0, 0x1C1, 0x1C2].all fun op => ready op f testTask) = true ∧ (testXs f testTask .read 64 false).length = 4 ∧
     (testXs f testTask .both 64 false).length = 4 ∧ releaseAt testTask .thread = .go ∧ scOut testTask = false ∧
     (∀ x ∈ testXs f testTask .read 64 false, ownStoreOut testTask (mkLane 64 x) = false ∧
       ownStoreOut testTask { mkLane 64 x with ia := x.2.2.getD 0 + 32 } = false) ∧
     ∀ x ∈ testXs f testTask .both 64 false, ownStoreOut testTask { mkLane 4 x with ia := (mkLane 4 x).ia + 36 } = false) ∧
    (let f : Fields := { d := 2, sub := 12 }
     ready 0x1C3 f (testFree 0) = true ∧ execLanes (used f (testFree 0)) (testFree 0).warp ≠ [] ∧
     ((allocSpan f (testFree 0)).all fun ia => !hwReadWaits (testFree 0) ia 8) = true ∧
     (allocLanes (testFree 0) 0 12 ((execLanes (used f (testFree 0)) (testFree 0).warp).filter (testFree 0).warp.live) []).isSome = true) ∧
    (let f : Fields := { a := .reg 2, b := .zero }
     (∀ va ∈ [0x4010000, 0x4020010, 0x400FFF0], let s := testFree (BitVec.ofNat 32 va)
       ready 0x1C4 f s = true ∧ addresses f s = [(0, va)] ∧ bufferFull s = false ∧ (s.cluster 0).desc.isSome = true ∧
       (testOk (operandCheck s s.warp .write (blockSize 0) false [(0, va)])).any (fun xs => xs.length == 1 && xs.all fun x =>
         (classOf s s.selfCore (x.2.2.getD 0)).cls != 3 && decide (x.2.2.getD 0 % 512 + 8 ≤ 512)) = true) ∧
     (0x4010000 - 0x4010000) / 2 ^ 16 = 0 ∧ (0x4020010 - 0x4010000) / 2 ^ 16 = 1 ∧ ¬ (0x4010000 ≤ 0x400FFF0) ∧
     Sparse.get? ((testFree 0).cluster 0).exch 0 = none) := by decide +kernel

/-- A sett for one warp of four threads with one range, whose page is present. -/
def testSett : Sett := { lmask := 1, threads := 4, entry := placedAt, tenant := 1 }
def testEnt : Entry := { sett := testSett, card := false, ranges := [placedRange], doneIa := 0, src := testIa, stamp := 0, cluster := 0 }
/-- Cluster 0 with a bank, its cores in use. -/
def testCluster (x : Cluster) : State :=
  let s : State := { State.reset with nextId := 5 }
  let k : Core := { svqbase := 1 }
  (((((s.setCore 0 k).setCore 1 k).setCore 2 k).setCore 3 k).setCluster 0 x)
theorem witness_launch :
    (let e := { testEnt with ranges := [], sett := { testSett with lmask := 0 } }
     let s := testCluster { bank := [e] }
     let y := cutHead (s.cluster 0)
     y.bank = [e] ∧ e.chunk = false ∧ e.card = false ∧ leaseRoom s (e.leaseSet s s.nextId) = true ∧ rangesWait s e.ranges e.sett.lmask = false ∧
     (testOk (checkRanges (addLeases ({ s with nextId := s.nextId + 1 }.setCluster 0 y) (e.leaseSet s s.nextId)) e.who e.ranges e.sett.lmask)).isSome = true ∧
     coreIn (s.setCluster 0 y) e.sett 0 = some 0 ∧
     (reserve ((s.setCluster 0 y).setCluster 0 { (dropHead y) with placing := some e, reserved := [] }) 0 e.sett e.sett.gang).isSome = true ∧
     ((testCluster { placing := some e, reserved := [0] }).cluster 0).placing = some e) := by decide +kernel
theorem witness_banks :
    (let s := testHalf
     (s.group? 0).isSome = true ∧ Sparse.sorted s.groups = true) ∧
    (let x : Cluster := { bank := List.replicate 449 testEnt, desc := some { tipLog := 10, ashift := 16, tipIa := 0, winIa := 0, winVa := 0 } }
     x.desc.isSome = true ∧ x.used - 448 ≤ x.bank.length ∧ x.tips.length + (x.used - 448) ≤ 2 ^ 10) ∧
    (let x : Cluster := { bank := List.replicate 127 testEnt, tips := [testEnt] }
     min (128 - x.bank.length) (448 - x.used) ≤ x.tips.length) ∧
    (let s : State := { clusters := [(0, {}), (1, { bank := [testEnt, testEnt], running := true })] }
     (s.cluster 0).arriving = [] ∧ (s.cluster 0).used + (donate (s.cluster 1)).1.length ≤ 512 ∧ (donate (s.cluster 1)).1 ≠ []) ∧
    (let x : Cluster := { exch := [(3, { owner := 2, blocks := [0x4010000], last := 0 })] }
     (Sparse.get? x.exch 3).isSome = true ∧ Sparse.sorted x.exch = true ∧ (0 + 4096 ≤ 4096 ∧ 4095 < 0 + 4096)) ∧
    (let d : Desc := { tipLog := 10, ashift := 16, tipIa := 0, winIa := testIa, winVa := 0x4010000 }
     blockIa d 0x4010000 = testIa ∧ hwBlocked testQuad testIa 8 = false ∧
     hwBlocked { testQuad with slices := [(iaSlice testIa, { lines := [(lineOf testIa, { pte := testPte, valid := 0xFFFF, lease := [(0, 9)] })] })] } testIa 8 = true) := by
  decide +kernel

/-- A push that has come back with a sett of one thread that passes its checks. -/
def testSettBits : Nat := placedAt + 2 ^ 80 + 2 ^ 96 + 2 ^ 104 * 8 + 2 ^ 128
def testPush : MemOp :=
  { testOp .push testQuad with
    op := 0x1C0, left := 1, lanes := [{ lane := 0, va := 0x4010000, ia := testIa, size := 64, got := testSettBits }], todo := [(0, 0x4010000)] }
theorem witness_push :
    (let s := testWith testPush
     s.op? 7 = some testPush ∧ here s testPush = true ∧ (settOf testSettBits).depcnt = 0 ∧ (settOf testSettBits).rlist = 0 ∧ testPush.core / 4 = 0 ∧
     (testOk (settCheck s (s.warpAt 0 0) testSettBits false)).isSome = true ∧ (s.cluster 0).used < 512) := by decide +kernel


/-! ### Control registers, traps, the supervisor's instructions -/

/-- The S-lane of core 0 as the executing warp: its registers, and what else its core holds. -/
def testSl (rs : List (Nat × Word)) (g : Core → Core := id) (h : Warp → Warp := id) : State :=
  let s := testState 1 []
  let w : Warp := { single := true, priv := true, fronts := [{ lanes := 1 }], cur := some 0, ranges := [(0, placedRange)],
                    threads := [(0, { life := .live, pc := BitVec.ofNat 72 placedAt })] }
  let s := s.setWarpAt 0 64 (h (rs.foldl (fun w r => w.setReg r.1 0 r.2) w))
  let k := s.core 0
  (s.setCore 0 (g { k with sl := { k.sl with started := true } })).select 0 64
/-- The state with something else in core 0. -/
def testCore (g : Core → Core) (s : State) : State := s.setCore 0 (g (s.core 0))

/-- `ControlRegisters`: a register of the warp (TRAPPC), one of the core (POLLINT), legal and illegal values at the ends of their ranges;
a user warp. -/
def testCw (i : Nat) : Fields := { a := .reg 2, cls := BitVec.ofNat 6 (i % 64), sub := BitVec.ofNat 8 (i / 64) }
theorem witness_control :
    (let s := testOne [(2, 65535)]
     (∀ i ∈ [0x023, 0x031, 0x001, 0x030, 0x040, 0x100, 0x110], ready 0x1E6 (testCw i) s = true ∧ (testCw i).idx = i) ∧ s.onSl = false ∧
     actor (used (testCw 0x031) s) s.warp = some 0 ∧ ctrlBad s 0x031 65535 = false ∧ ctrlBad s 0x031 1 = false ∧ ctrlWarp s 0x031 1 = none ∧
     ctrlBad s 0x031 0 = true ∧ ctrlBad s 0x031 65536 = true ∧ ctrlBad s 0x001 3 = false ∧ ctrlBad s 0x001 4 = true ∧
     (ctrlWarp (begun 0x1E6 (testCw 0x023) s) 0x023 65535).isSome = true ∧ (ctrlWarp s 0x023 65535).isSome = true ∧
     ready 0x1E5 { d := 2, cls := 16 } s = true ∧ s.warp.single = s.onSl ∧
     (∀ j ∈ [0x001, 0x031, 0x040, 0x041, 0x020, 0x021, 0x110, 0x11F], ctrlBad s j 1 = false)) ∧
    (let s := testSl [(2, 5)]
     s.onSl = true ∧ ready 0x1E6 (testCw 0x020) s = true ∧ warpOnly 0x020 = false ∧ (ctrlWarp s 0x020 5).isSome = true ∧
     s.warp.single = s.onSl ∧ ready 0x1E5 { d := 2, cls := 16 } s = true) ∧
    (let s := testState 1 [] fun w => { w with priv := false }
     s.warp.priv = false ∧ (∀ op ∈ [0x1E6, 0x1E1, 0x1E2, 0x1E4, 0x1E7, 0x1E8, 0x1E9, 0x1EA, 0x1EB, 0x1EC, 0x1F0], mayIssue s s.warp op = true) ∧
     (used {} s).one = false) := by decide +kernel

/-- `TrapsAndReturns`: a warp with a handler, one without, and one already in its handler; the S-lane with a handler and without; a lease
violation; a ring whose head line is in its slice. -/
def testRing (g : Core → Core := id) (s : State) : State :=
  { testCore (fun k => g { k with svqbase := BitVec.ofNat 64 (0xFF00000004010000 + 1) }) s with
    slices := [(iaSlice testIa, { lines := [(lineOf testIa, { pte := { testPte with acc := true, dirty := true }, valid := 0xFFFF })] })] }
/-- R330: of two faults in a cycle the record of the lower slot stands first. -/
theorem test_fault_order :
    let r (x : Nat) : Record := mkRecord 2 false 0 0 x x 0 []
    let s := pushTrap (pushTrap (testRing id testHalf) 0 5 (r 5)) 0 3 (r 3)
    let ia := areaOf (s.core 0)
    (s.core 0).count = 2 ∧ homeByte s (ia + 6) = 3 ∧ homeByte s (ia + 64 + 6) = 5 := by decide +kernel
theorem witness_traps :
    (let s := testCore (fun k => { k with trapvec := 0x4000100 }) testHalf
     s.onSl = false ∧ s.warp.priv = true ∧ (s.core s.selfCore).trapvec ≠ 0 ∧ s.warp.inHandler = false) ∧
    (let s := testRing id testHalf
     let k := s.core s.selfCore
     let ia := areaOf k + 64 * k.tail.toNat
     k.trapvec = 0 ∧ s.warp.front?.isSome = true ∧ (s.hbm.wf && s.l2.wf && s.flash.wf) = true ∧ ringOpen s s.selfCore = true ∧ k.held = [] ∧
     place s ia = .here ∧ iaDie ia < Config.dieCount s.part ∧ (sline? s ia).isSome = true ∧
     pteCheck (attrs s ia).1 ⟨false, 0⟩ true = none ∧ markPage s ia true = s ∧ freshOf s s.selfCore = [] ∧
     trapReady s s.selfCore s.selfSlot = true ∧ k.awaiting = []) ∧
    (let s := testQuad fun w => { w with unack := w.unack.set (targetOf testQuad 0 testIa) 1 }
     s.onSl = false ∧ s.warp.front?.isSome = true ∧ trapReady s s.selfCore s.selfSlot = false) ∧
    (testSl []).onSl = true ∧ ((testSl []).core (testSl []).selfCore).sl.trapvec = 0 ∧
    (((testSl [] fun k => { k with sl := { k.sl with trapvec := 4 } }).core 0).sl.trapvec ≠ 0) ∧
    (testHalf.group? testHalf.warp.ctx).isSome = true ∧
    (ready 0x1E3 { a := .zero } testHalf = true ∧ testHalf.warp.active.find? (guardOf (used { a := .zero } testHalf) testHalf.warp) = some 0) ∧
    (ready 0x1ED {} (testSl []) = true ∧ (testSl []).warp.frontLanes.any (guardOf (used {} (testSl [])) (testSl []).warp) = true) ∧
    (ready 0x1ED {} testHalf = true ∧ (testHalf.warp.frontLanes.any (guardOf (used {} testHalf) testHalf.warp)) = true ∧
     testHalf.warp.single = false ∧ testHalf.warp.liveLanes ≠ [] ∧ testHalf.warp.loads = [] ∧
     ((opsOf testHalf testHalf.selfCore testHalf.warp.gen).any fun p => p.2.kind.isAtomic || p.2.kind == .depsig || p.2.kind == .red) = false) := by
  decide +kernel

/-- The four returns: of the S-lane, of a warp in its handler and of one that is not; of a front that a header names, of none, and of a
header of another kind. -/
def testHdr (kind : Nat) (g : Warp → Warp := id) : State :=
  let s := testState 1 [(0, 4, BitVec.ofNat 32 kind), (0, 5, 0)] g
  s.setWarpAt 0 3 { (s.warpAt 0 0) with
    wix := 0, ctx := 0, fronts := [{ lanes := 1, wait := some .fault }], cur := none }
/-- As `testHdr`: the caller is in another slot, as warp 1 of the group. -/
def testHdr1 (kind : Nat) : State :=
  let s := testState 1 [(0, 4, BitVec.ofNat 32 kind), (0, 5, 0x00010000)]
  s.setWarpAt 0 3 { (s.warpAt 0 0) with wix := 1, gen := 9, fronts := [{ lanes := 3, wait := some .fault }], cur := none }
theorem witness_returns :
    let f : Fields := { d := 1, a := .reg 4, b := .zero }
    ready 0x1E4 { a := .zero, b := .zero } (testSl []) = true ∧
    (let s := testHalf fun w => { w with inHandler := true, trap := { w.trap with pc := 0x4000010 } }
     ready 0x1E4 { a := .zero, b := .zero } s = true ∧ s.warp.inHandler = true) ∧
    ready 0x1E4 { a := .zero, b := .zero } testHalf = true ∧ testHalf.warp.inHandler = false ∧
    (let s := testHdr1 1
     ready 0x1E4 f s = true ∧ s.warp.frontLanes = [0] ∧ (headerOf s.warp (srcNum f.a) 0).1 ∉ [0, 2, 3]) ∧
    (∀ k ∈ [2, 3], let s := testHdr1 k
      let h := headerOf s.warp (srcNum f.a) 0
      h.1 = k ∧ stoppedFront s s.selfCore h.2.2.2 h.2.1 h.2.2.1 = some (3, 3, false) ∧ 3 ≠ s.selfSlot ∧ releaseAt s .pkg = .go) ∧
    (let s := testOne [(4, 2), (5, 0x00050000)]
     let h := headerOf s.warp (srcNum f.a) 0
     ready 0x1E4 f s = true ∧ h.1 ∈ [2, 3] ∧ stoppedFront s s.selfCore h.2.2.2 h.2.1 h.2.2.1 = none) := by decide +kernel

/-- `SupervisorInstructions`: calls of a core in use and of one that is not; the ring with room, empty, and with a record. -/
theorem witness_syscalls :
    (let f : Fields := { d := 4, a := .reg 8, b := .zero }
     (∀ s ∈ [testHalf, testRing id testHalf], ready 0x1E0 f s = true) ∧ coreOn testHalf 0 = false ∧
     (let s := testRing id testHalf
      coreOn s 0 = true ∧ (s.warp.active.filter (guardOf (used f s) s.warp)).filter s.warp.live = [0, 1] ∧ releaseAt s .cluster = .go ∧
      ringRoom s 0 2 = true ∧ ((ringSpan (s.core 0) s.warp.frontLanes.length).all fun ia => !hwBlocked s ia 64) = true)) ∧
    (let f : Fields := { d := 16 }
     let s := testRing (fun k => { k with count := 1 }) testHalf
     ready 0x1E1 f testHalf = true ∧ (testHalf.core 0).count = 0 ∧ (testHalf.core 0).ipiPend.getLsbD testHalf.selfSlot = false ∧
     ready 0x1E1 f s = true ∧ min (s.core 0).count s.warp.frontLanes.length = 1) ∧
    (let f : Fields := { a := .reg 4, b := .zero, c := .reg 10 }
     let s := testHdr1 1
     let s := s.setWarpAt 0 3 (let w := s.warpAt 0 3
       { w with fronts := [{ lanes := 1, wait := some .syscall }], threads := [(0, { (w.thread 0) with inCall := true })] })
     let h := headerOf s.warp (srcNum f.a) 0
     ready 0x1E2 f s = true ∧ (s.warp.active.filter (guardOf (used f s) s.warp)).filter s.warp.live = [0] ∧ h.1 = 1 ∧ (∀ r, f.b ≠ .reg r) ∧
     releaseAt s .cluster = .go ∧ callerSlot s 0 h.2.2.2 h.2.1 = some 3 ∧ isParked s 0 3 h.2.2.1 .syscall = true ∧
     ((s.warpAt 0 3).thread h.2.2.1).inCall = true ∧ ready 0x1E2 f (testHdr1 2) = true ∧
     (headerOf (testHdr1 2).warp (srcNum f.a) 0).1 ∉ [1, 6]) := by decide +kernel

/-- Save areas are at 64-KB boundaries; the group of slot 0 is the placed one, and slot 1 holds none. -/
def testSave (c : Word) : State := testOne [(2, 0x4010000), (3, 0), (6, c)]
def testSaveF (sub cls : Nat) : Fields := { d := 1, a := .reg 2, b := .zero, c := .reg 6, sub := BitVec.ofNat 8 sub, cls := BitVec.ofNat 6 cls }
theorem witness_saves :
    (let f := { testSaveF 0 0 with d := 0 }
     ready 0x1E9 f (testSave 0) = true ∧ testOk (armOperands (used f (testSave 0)) (testSave 0)) = some [(0, testIa, 0)] ∧
     ((testSave 0).group? 0).isSome = true ∧ hasLane (testSave 0).warp.frontMask 0 = true ∧ ready 0x1E9 (testSaveF 0 1) (testSave 0) = true) ∧
    (let f := testSaveF 4 2
     let s := testSl [(2, 0x4010000), (6, 0)]
     (∀ x ∈ [testSave 1, testSave 63, s], ready 0x1E9 f x = true ∧ soleLane x.warp = some 0 ∧ releaseAt x .sys = .go) ∧
     (src32 (used f (testSave 63)) (testSave 63).warp 0 f.c).toNat = 63 ∧ slotGroup (testSave 63) 63 = none ∧
     (testSave 1).warp.active ≠ [] ∧ slotGroup s 0 = some 0 ∧ s.onSl = true ∧ ((s.group? 0).any fun h => h.ending.isNone) = true ∧
     ready 0x1E9 (testSaveF 0 2) (testSave 1) = true) := by decide +kernel

/-- A save area in the pages 1025 to 1027 of die 0, the first 16 of its lines in their slices: the bits of its header and its slots. -/
def testIn (i : Nat) : Nat × Slice := (16 + i, { lines := [(131200 + i, { pte := testPte, valid := 0xFFFF })] })
def testArea (b accs : Nat) (on : Bool) : State :=
  let put (m : Memory) (q : Nat) : Memory := Memory.writeAll m (16 * q) (toBytes 16 (bootPte q))
  let at_ (o v : Nat) : Memory := if v = 0 then [] else [(iaLocal testIa + o, BitVec.ofNat 8 v)]
  { testCore (fun k => { k with svqbase := if on then 1 else 0 }) (testOne [(2, 0x4010000)]) with
    slices := [testIn 0, testIn 1, testIn 2, testIn 3, testIn 4, testIn 5, testIn 6, testIn 7, testIn 8, testIn 9, testIn 10, testIn 11, testIn 12,
               testIn 13, testIn 14, testIn 15]
    hbm := [1025, 1026, 1027].foldl put [], l2 := at_ 0 77 ++ at_ 18 accs ++ at_ 72 b }
def testX (s : State) : Nat := homeNat s testIa 512
theorem witness_loading :
    ([testArea 0 0 true, testArea 0 17 true, testArea 1 0 true, testArea 2 0 true, testArea 0 0 false].all fun s =>
      ready 0x1EA { d := 1, a := .reg 2, b := .zero } s && s.warp.frontLanes == [0] &&
      testOk (operandCheck s s.warp .both 65536 false [(0, vaOf { d := 1, a := .reg 2, b := .zero } s.warp 0)]) == some [(0, 0x4010000, some testIa)] &&
      !areaWaits s testIa && areaCheck s testIa == none && !areaBad s testIa (testX s)) = true ∧
    (headerEnded (testX (testArea 2 0 true)) && headerResident (testX (testArea 1 0 true)) && !headerResident (testX (testArea 0 0 true)) &&
      !headerEnded (testX (testArea 0 0 true)) && coreOn (testArea 0 0 true) 0 && !coreOn (testArea 0 0 false) 0 &&
      (testArea 0 0 true).warp.ctx != headerCtx (testX (testArea 0 0 true)) &&
      ((testArea 1 0 true).group? (headerCtx (testX (testArea 1 0 true)))).isNone) = true := by decide +kernel
/-- And the core has room for the saved group, or not. -/
def testRoom (s : State) : Bool := roomSaved ((areaSpans s testIa).foldl (fun u p => hwSeen u p.1 p.2) s) 0 testIa (headerSett (testX s)).accs (headerMask (testX s))
theorem witness_room : testRoom (testArea 0 0 true) = true ∧ testRoom (testArea 0 17 true) = false := by decide +kernel

theorem witness_waiting :
    (ready 0x1EB {} (testSl []) = true ∧ (pendingSource (testSl []) 0).isSome = false ∧
     (pendingSource (testSl [] fun k => { k with timecmp := 0 }) 0).isSome = true ∧ ready 0x1EB {} (testSl [] fun k => { k with timecmp := 0 }) = true) ∧
    (let f : Fields := { a := .reg 2 }
     ([0, 191, 192, 255, 0x100].all fun v => ready 0x1EC f (testOne [(2, v)])) = true ∧
     actor (used f (testOne [(2, 191)])) (testOne [(2, 191)]).warp = some 0 ∧ Config.cores (testOne []).part = 192) := by decide +kernel

/-! ### Blocks, tables, and what happens by itself in a core -/

/-- `BlocksAndTables`: 64 blocks are the most; a core with free blocks and one without; half of the blocks given up, and all. -/
def testBlocks (n other : Nat) : State :=
  let s := testState 1 [] fun w => { w with blocks := n }
  if other = 0 then s else s.setWarpAt 0 3 { (s.warpAt 0 0) with gen := 9, blocks := other }
theorem witness_blocks :
    (let f : Fields := { sub := 4 }
     (∀ s ∈ [testBlocks 61 0, testBlocks 60 0, testBlocks 60 1985], ready 0x1EE f s = true ∧
       (s.warp.frontLanes.any (guardOf (used f s) s.warp)) = true ∧ s.onSl = false ∧ growQueue s 0 = []) ∧
     64 < (testBlocks 61 0).warp.blocks + 4 ∧ (testBlocks 60 0).warp.blocks + 4 ≤ 64 ∧ 4 ≤ freeBlocksOn (testBlocks 60 0) 0 ∧
     Sparse.sorted ((testBlocks 60 0).core 0).warps = true ∧ Sparse.sorted (testBlocks 60 0).warp.regs = true ∧
     freeBlocksOn (testBlocks 60 1985) 0 < 4) ∧
    (let s := testBlocks 8 0
     ready 0x1EF { sub := 8 } s = true ∧ ready 0x1EF { sub := 7 } s = true ∧ s.warp.blocks ≤ 8 ∧ 7 < s.warp.blocks ∧
     blocksBusy s.warp 1 = false ∧ Sparse.sorted s.warp.regs = true) := by decide +kernel
/-- A table page and an address outside the table. -/
theorem witness_tables :
    (let f : Fields := { a := .reg 2, b := .zero }
     (∀ p ∈ [(0x3FFFFFF, true), (0x4000000, false)], let s := testOne [(2, BitVec.ofNat 32 p.1)]
       let xs := testXs f s .both 1 true
       ready 0x1E7 f s = true ∧ (testOk (operandCheck s s.warp .both 1 true (addresses f s))).isSome = true ∧ xs.length = 1 ∧
       (xs.all fun x => (x.2.2.bind (tableLine s)).isSome) = p.2 ∧ releaseAt s .sys = .go)) ∧
    (let f : Fields := { d := 1, a := .reg 2, b := .zero, c := .reg 4, sub := 2 }
     ([(0, 0x4010000), (65536, 0x4010000), (65535, 0x4010008), (1, 0x4010000)].all fun p =>
       ready 0x1E8 f (testOne [(2, BitVec.ofNat 32 p.2), (4, BitVec.ofNat 32 p.1)])) = true ∧
     actor (used f (testOne [])) (testOne []).warp = some 0 ∧
     (let s := { testOne [(2, 0x4010000), (4, 1)] with hbm := Memory.writeAll [] (16 * 1025) (toBytes 16 (bootPte 1025)) }
      ready 0x1E8 f s = true ∧ (testOk (regionPages s s.warp 0x4010000 1)).isSome = true ∧ releaseAt s .sys = .go)) ∧
    (let f : Fields := { a := .reg 2, b := .zero }
     ([0x4010004, 0x4010140].all fun va => ready 0x1F0 f (testOne [(2, va)])) = true ∧
     0x4010004 % 8 ≠ 0 ∧ 0x4010140 % 8 = 0 ∧ 0x4010140 % 512 ≤ 320 ∧
     (let s := testOne [(2, 0x4010140)]
      (testOk (translateFor s s.warp .read 0x4010140)).any (fun ia => place s ia != .io) = true)) := by decide +kernel

/-- `InterruptsArrive`: an S-lane that takes interrupts, one that waits; a message of a route that is on, and one of a route that is off. -/
def testIe (g : Core → Core := id) : State := testSl [] (fun k => g { k with timecmp := 0 }) fun w => { w with ie := true }
theorem witness_interrupts :
    (slReady (testIe) 0 = true ∧ ((testIe).core 0).sl.wfi = false ∧ (pendingSource (testIe) 0) = some (0x20, 0) ∧
     ((testIe).core 0).sl.trapvec = 0 ∧ ((testIe).core 0).timecmp.toNat ≤ (testIe).now) ∧
    (let s := testSl [] fun k => { k with timecmp := 0, sl := { k.sl with wfi := true } }
     (s.core 0).sl.wfi = true ∧ (s.core 0).sl.halted = false ∧ asleep s 0 = false ∧ (s.warpAt 0 64).ie = false ∧
     (pendingSource s 0).isSome = true) ∧
    (let s := setIo State.reset (routeBase + 8 * 5) (2 ^ 63 + 7 * 256 + 9)
     ioReg s (routeBase + 8 * 5) / 2 ^ 63 = 1 ∧ s.io.msgs = [] ∧ ioReg s (routeBase + 8 * 5) / 256 % 256 = 7 ∧ (s.core 7).sl.msgs.length < 8) ∧
    ioReg State.reset (routeBase + 8 * 5) / 2 ^ 63 ≠ 1 ∧ Config.cores State.reset.part ≤ 192 ∧ 191 < Config.cores State.reset.part ∧
    (let s := testHalf
     (Sparse.get? (s.core 0).warps 0).any (fun v => !v.debugStop && !v.single && !v.liveLanes.isEmpty && checked s v &&
       !((opsOf s 0 v.gen).any fun p => p.2.kind.isAtomic || p.2.kind == .depsig || p.2.kind == .red)) = true) ∧
    (let s := testCore (fun k => { k with capts := [(2, { cfg := BitVec.ofNat 64 (2 ^ 63 + 5) })] }) (testSl [])
     (Sparse.get? (s.core 0).capts 2).isSome = true) := by decide +kernel

/-- `CoreEvents`: a ring with room and a record that is held, and a full ring. -/
def testHeld (n : Nat) : State := testRing (fun k => { k with count := n, held := [(3, List.replicate 64 7)] }) testHalf
/-- Two warps of the placed group that wait for blocks that no one has. -/
def testStuck (save : Nat) : State :=
  let s := testState 1 [] fun w => { w with blocks := 60, grow := some (4, 0), fronts := [{ lanes := 1 }] }
  let s := s.setWarpAt 0 3 { (s.warpAt 0 0) with gen := 9, wix := 1, blocks := 1985, prio := 1 }
  s.setGroup 0 { placedGroup with saveArea := save }
theorem witness_core_events :
    ringOpen (testHeld 256) 0 = false ∧
    (let s := testHeld 255
     let x := s.core 0
     let ia := areaOf x + 64 * x.tail.toNat
     ringOpen s 0 = true ∧ x.held = [(3, List.replicate 64 7)] ∧ reportFor s 0 = none ∧ (s.hbm.wf && s.l2.wf && s.flash.wf) = true ∧
     place s ia = .here ∧ iaDie ia < Config.dieCount s.part ∧ (sline? s ia).isSome = true ∧ pteCheck (attrs s ia).1 ⟨false, 0⟩ true = none ∧
     markPage s ia true = s) ∧
    ((Sparse.get? (testHalf.core 0).warps 0).any fun v => v.front?.isSome) = true ∧
    victimSlot testHalf 0 = none ∧ victimSlot (testStuck 0) 0 = some 0 ∧ ((testStuck 0).group? 0).isSome = true ∧
    drained (testStuck testIa) 0 0 = true ∧ Sparse.sorted ((testStuck testIa).core 0).warps = true ∧
    ((testStuck testIa).group? 0).any (fun g => partsOpen (testStuck testIa)
      (saveParts g ((testStuck testIa).warpAt 0 0) (ownedNames (testStuck testIa) g 0))) = true ∧
    growNext testHalf 0 = none ∧
    (let s := testState 1 [] fun w => { w with blocks := 60, grow := some (4, 0) }
     Sparse.sorted (s.core 0).warps = true ∧ Sparse.sorted (s.warpAt 0 0).regs = true ∧ growNext s 0 = some (0, 4)) ∧
    (let s := testHalf.setWarp (parkFront testHalf.warp 0 .saved)
     hasLane ((s.warpAt 0 0).parkedFor .saved) 1 = true ∧ copyHolds s (s.warpAt 0 0) [0, 1] = false ∧
     (let s := { s with ops := [(7, testOp .copy testHalf)] }
      copyHolds s { (s.warpAt 0 0) with marks := [(7, { regs := [1] })] } [0, 1] = true) ∧ Sparse.sorted (s.warpAt 0 0).regs = true) ∧
    (let s := testHalf fun w => { w with pend := [⟨0, true, [.reg 1 0 5]⟩] }
     ((Sparse.get? (s.core 0).warps 0).any fun v => v.pend == [⟨0, true, [.reg 1 0 5]⟩]) = true ∧ 0 ≤ s.cycle) := by decide +kernel
/-- And the words at the PC that arrive. -/
theorem witness_fetch :
    (let o : MemOp := { testOp .fetch testHalf with
       lanes := [{ lane := 0, va := placedAt, ia := testIa, size := 4 }], parts := [{ ia := testIa, lanes := [0] }], left := 1 }
     let s := { testHalf fun w => { w with fetching := some 7 } with ops := [(7, o)], input := { a := 7 } }
     s.op? s.input.a = some o ∧ ((Sparse.get? (s.core 0).warps 0).any fun v => v.gen == o.gen && v.fetching == some 7 && v.front?.isSome &&
       v.pc.toNat == o.pc) = true ∧
     (legBack s 7 s.input.b o).2.any (fun q => q.left == 0 && q.lanes.all (·.ok) && q.lanes.map (·.lane) == [0] &&
       q.lanes.length == wordCount ((q.lanes.map (·.got)).headD 0)) = true) ∧
    testHalf.op? testHalf.input.a = none := by decide +kernel

/-! ### The I/O die, boot and management -/

/-- An access of 8 bytes of I/O space at the I/O die, and what the event is told. -/
def testIo (a : Nat) (args : List Nat) (x : EvData) (regs : List (Nat × Nat)) : State :=
  let o : MemOp := { testOp .store testQuad with
    lanes := [{ lane := 0, va := a, ia := 0xFE * 2 ^ 56 + a, size := 8, args }], parts := [{ ia := 0xFE * 2 ^ 56 + a, lanes := [0] }] }
  regs.foldl (fun s r => setIo s r.1 r.2) { State.reset with ops := [(7, o)], input := { x with a := 7 } }
def testV (v : Nat) : List Nat := (toBytes 8 v).map BitVec.toNat
def testBs (v : Nat) : List Byte := (testV v).map (BitVec.ofNat 8)
theorem witness_io_writes :
    (let s := testIo 0x240 (testV 3) {} []
     (s.op? s.input.a).isSome = true ∧ Sparse.sorted s.io.regs = true ∧
     (storeEvent s 7 0x240 8 (leBytes (testBs 3))).any (fun e => e.1 == (testBs 3).length) = true ∧ reservedStore s 0x240 3 = false ∧
     reservedStore s 0x00200008 (leBytes (testBs (2 ^ 63 + 65536))) = true) ∧
    (∀ p ∈ [(0x00100008, 2 ^ 63 + 7), (0x08001000, 2 ^ 63 + 5), (0x04000008, 1), (0x00200008, 2 ^ 63 + 65536)],
      let s := testIo p.1 (testV p.2) {} []
      storeEvent s 7 p.1 8 (leBytes (testBs p.2)) = none ∧ pciePort p.1 = none ∧ p.1 % 8 = 0 ∧ (testBs p.2).length = 8 ∧
      (writeMask s p.1).isSome = true) ∧
    (pcieBase 1 + 8 = 0x02000008 ∧ Nat.land (leBytes (testBs (2 ^ 16 + 15 * 2 ^ 8))) (2 ^ 16 + 15 * 2 ^ 8 + 1) = leBytes (testBs (2 ^ 16 + 15 * 2 ^ 8))) ∧
    (let s := testIo 0x100000 (testV 5) { b := 0x1001F8, c := 5 } [(0x1001F8, 2 ^ 63 + 9)]
     s.input.c < 2 ^ 63 ∧ s.slices = [] ∧ filterBase ≤ s.input.b ∧ s.input.b < filterBase + 512 ∧
     Nat.land s.input.c (2 ^ 63 + 65535) = s.input.c) ∧
    (let s := { testIo 0x100000 (testV 5) { b := 0x100000 } [(0x100000, 2 ^ 63 + 9)] with slices := [(60, { copies := [(5, { pte := { testPte with tenant := 9 }, valid := 1, lease := [(0, 1)] })] })] }
     ∃ q, Sparse.get? (s.slice 60).copies 5 = some q ∧ q.pte.tenant = ioReg s s.input.b % 65536 ∧ anyLease q.lease s.now = true) := by
  refine ⟨by decide +kernel, by decide +kernel, by decide +kernel, by decide +kernel, ⟨{ pte := { testPte with tenant := 9 }, valid := 1, lease := [(0, 1)] }, ?_⟩⟩
  decide +kernel
/-- The doorbells, `PCTL`, and the two modes of a port. -/
theorem witness_io_doorbells :
    (Nat.land 3 (2 ^ 16 + 15 * 2 ^ 8 + 3) = 3 ∧ 3 / 2 % 2 = 1) ∧
    (let s := testIo 0 [] { b := 1, c := 1, flag := true } []
     endpoint s s.input.b = false ∧ endpoint { s with io := { s.io with pcieMode := 2 } } s.input.b = true ∧ s.input.c < 32 ∧ s.input.b < 24 ∧
     s.input.c < 2 ^ 32) ∧
    (let b := nvmeBase 0 + 0x1000
     let s := testIo 0 [] { b := 0, c := 8 } [(nvmeBase 0, 1), (b + 24, 2 ^ 63), (b + 16, 8 + 65536 * 8)]
     endpoint s 0 = false ∧ ioReg s (nvmeBase 0) % 2 ≠ 0 ∧ ioReg s (b + 24) / 2 ^ 63 ≠ 0 ∧ s.input.c ≤ ioReg s (b + 16) % 4096 ∧
     ioReg s (b + 16) % 4096 < 9) ∧
    (let q := ueQueue 0
     let s := testIo 0 [] { b := 0, c := 1 } [(ueBase, 1), (q, 0xFF00000004010000), (q + 8, 4), (q + 48, 2 ^ 63)]
     let s := { s with slices := testQuad.slices }
     ueAt s 0 = none ∧ ueAt (setIo s (q + 32) 1) 0 = some testIa ∧ hwReadWaits (setIo s (q + 32) 1) testIa 64 = false ∧
     (ueNext (setIo s (q + 32) 1) 0).isSome = true) := by decide +kernel

/-- What is told to an event from outside. -/
def testTold (x : EvData) (regs : List (Nat × Nat)) : State := regs.foldl (fun s r => setIo s r.1 r.2) { State.reset with input := x }
/-- A descriptor: a remote write of 8 bytes in context 0. -/
def testDesc (op fl : Nat) : List Byte := toBytes 1 op ++ toBytes 1 fl ++ toBytes 14 0 ++ toBytes 4 8 ++ toBytes 44 0
theorem witness_io_events :
    (let s := testTold { a := 9 } [(filterBase + 8 * 63, 2 ^ 63 + 9)]
     Sparse.sorted s.io.regs = true ∧ ioReg s (filterBase + 8 * 63) / 2 ^ 63 = 1 ∧ ioReg s (filterBase + 8 * 63) % 65536 = s.input.a ∧
     ∀ i < 64, ioReg (testTold { a := 8 } [(filterBase + 8 * 63, 2 ^ 63 + 9)]) (filterBase + 8 * i) % 65536 ≠ 8) ∧
    (let s := testTold { a := 0, b := 0x5000 } [(pcieBase 0 + 0x900, 0x5001)]
     endpoint s 0 = false ∧ ioReg s (pcieBase 0 + 0x900) % 2 = 1 ∧ s.input.b / 4096 = 0x5001 / 4096) ∧
    (let s := testTold { a := 0, b := 0x7008, c := 8, bytes := [1, 2] }
       [(pcieBase 0 + 0x100, 0x7000), (pcieBase 0 + 0x108, 4096), (pcieBase 0 + 0x110, testIa), (pcieBase 0 + 0x118, 2 ^ 63 + 3)]
     let s := { s with slices := [(iaSlice testIa, { lines := [(lineOf testIa, { pte := testPte, valid := 0xFFFF })] })] }
     ioReg s (pcieBase 0 + 0x900) % 2 = 0 ∧ inboundWindow s 0 s.input.b true = some (testIa + 8, 0) ∧
     inboundWindow s 0 s.input.b false = some (testIa + 8, 0) ∧ s.io.domains = [] ∧ (testIa + 8) % 512 + 2 ≤ 512 ∧ place s (testIa + 8) = .here ∧
     iaDie (testIa + 8) < Config.dieCount s.part ∧ hwCheck s (testIa + 8) 8 ⟨false, 0⟩ false = none ∧
     hwErr s (testIa + 8) 8 = none ∧ hwReadWaits s (testIa + 8) 8 = false ∧
     blocked { s with ops := [(0, { testOp .inbound testQuad with core := 100000, visit := 0 })], nextId := 1 } (testIa + 8, 2) 0 0 = false ∧
     (testOk (openLine s (testIa + 8, 2) 0 ⟨false, 0⟩ true true)).any (fun p => p.2.2.hbm.wf && p.2.2.l2.wf && p.2.2.flash.wf) = true) ∧
    inboundWindow State.reset 0 5 true = none ∧ inboundWindow State.reset 0 5 false = none ∧
    (let s := { State.reset with io := { State.reset.io with pcieMode := 1 } }
     endpoint s 0 = true ∧ endpoint State.reset 0 = false) ∧
    (let s := testTold { a := 3, bytes := testDesc 2 0 } [(ueBase + 0x2008, 1)]
     ueOk s 3 s.input.bytes = true ∧ ioReg s (ueQueue 3 + 48) / 2 ^ 25 % 2 = 0 ∧ s.input.flag = false ∧ ueAt s 3 = none ∧ ueOk s 3 (testDesc 4 0) = false ∧ descAt (testDesc 4 0) 1 1 % 2 = 0) ∧
    (let s := testTold { a := 3, bytes := testDesc 1 0 } [(ueBase + 0x2008, 1), (ueQueue 3 + 48, 2 ^ 63 + 2 ^ 25)]
     ueOk s 3 s.input.bytes = true ∧ ioReg s (ueQueue 3 + 48) / 2 ^ 25 % 2 = 1) ∧
    (let s := { State.reset with io := { State.reset.io with flying := [(3, testDesc 2 0)], posted := [(3, testDesc 1 0)] }, input := { a := 3, b := 0 } }
     (s.io.flying.filter fun q => q.1 == s.input.a)[s.input.b]? = some (3, testDesc 2 0) ∧ descAt (testDesc 2 0) 1 1 % 2 = 0 ∧
     descAt (testDesc 2 0) 0 1 ≠ 3 ∧ (s.io.posted.filter fun q => q.1 == s.input.a) = [(3, testDesc 1 0)] ∧
     (s.io.flying.filter fun q => q.1 == 4).length ≤ 0) := by decide +kernel
/-- A probe of a tenant in a valid entry, without a copy and with a leased one; the writes of a domain that has no other: a message, one
from a peer package, a doorbell. -/
theorem witness_io_domains :
    (let s := testTold { a := 9, b := testIa } [(filterBase, 2 ^ 63 + 9)]
     let ns := (List.range (Config.dieCount s.part)).map (48 * · + iaSliceNo s.input.b)
     ioReg s filterBase / 2 ^ 63 = 1 ∧ ioReg s filterBase % 65536 = s.input.a ∧ (∀ n ∈ ns, Sparse.sorted (s.slice n).copies = true) ∧
     (∀ n ∈ ns, (Sparse.get? (s.slice n).copies (l1Key s s.input.b)).isNone = true) ∧
     (let n := iaSliceNo s.input.b
      let s := s.setSlice n { copies := [(l1Key s s.input.b, { pte := testPte, valid := 1, lease := [(0, 1)] })] }
      n ∈ ns ∧ (Sparse.get? (s.slice n).copies (l1Key s s.input.b)).any (fun y => anyLease y.lease s.now) = true)) ∧
    (State.reset.io.domains = [] ∧ State.reset.op? State.reset.nextId = none) ∧
    (let s := testTold { a := 5, b := testIa, c := 0, flag := true, bytes := [1, 2] } []
     let s := { s with slices := [(iaSlice testIa, { lines := [(lineOf testIa, { pte := testPte, valid := 0xFFFF })] })] }
     2 ≤ s.input.a ∧ Config.dusel s.part = true ∧ s.io.domains = [] ∧ s.op? s.nextId = none ∧ testIa % 512 + 2 ≤ 512 ∧ place s testIa = .here ∧
     blocked { s with ops := [(0, { testOp .inbound testQuad with core := 100000, visit := 0 })], nextId := 1 } (testIa, 2) 0 0 = false ∧
     (testOk (openLine s (testIa, 2) 0 ⟨true, 0⟩ true true)).any (fun p => p.2.2.hbm.wf && p.2.2.l2.wf && p.2.2.flash.wf) = true ∧
     (hwCheck s (testIa + 512) 8 ⟨false, 0⟩ false).isSome = true) := by decide +kernel

/-- A page without A whose entry lies in a line under a lease: what reads it must wait (R302). -/
def testPageWait : State :=
  { State.reset with
    l2 := Memory.writeAll [] (iaLocal (entryIa testIa)) (toBytes 16 (bootPte (iaPage testIa)))
    slices := [(iaSlice (entryIa testIa), { lines := [(lineOf (entryIa testIa), { pte := testPte, valid := 0xFFFF, lease := [(0, 9)] })] })] }
theorem witness_read_waits : hwReadWaits testPageWait testIa 8 = true := by decide +kernel

/-- Regions of peers: a key table in the line that the slice holds. -/
theorem witness_io_regions :
    (let s := testTold { a := 0, b := 8, c := 8 } [(ueBase, 1), (ueBase + 0x2000, testIa - 2 ^ 24)]
     let e := toBytes 8 testIa ++ toBytes 8 16 ++ toBytes 2 1
     let s := { s with
       l2 := Memory.writeAll [] (iaLocal testIa) e
       slices := [(iaSlice testIa, { lines := [(lineOf testIa, { pte := testPte, valid := 0xFFFF })] })] }
     let y := homeNat s testIa 32
     ioReg s ueBase % 2 = 1 ∧ fieldAt y 8 8 = 16 ∧ 8 + 8 ≤ fieldAt y 8 8 ∧ fieldAt y 16 1 % 2 = 1 ∧
     hwReadWaits s testIa 32 = false ∧ testOk (hwRead s testIa 32 ⟨false, 0⟩) = some (homeBytes s testIa 32) ∧
     hwReadWaits (hwSeen s testIa 32) (fieldAt y 0 8 + 8) 8 = false ∧
     (testOk (hwRead (hwSeen s testIa 32) (fieldAt y 0 8 + 8) 8 ⟨false, fieldAt y 18 2⟩)).isSome = true) ∧
    ioReg State.reset ueBase % 2 = 0 ∧ Config.dusel State.reset.part = true ∧
    State.reset.io.fenced.getLsbD 5 = false ∧ ({ State.reset with io := { State.reset.io with fenced := 32 } } : State).io.fenced.getLsbD 5 = true := by
  decide +kernel

/-- A flash with a header that keeps the rules of R343. Its key and signature are what the free values of log entry 15 take or refuse. -/
def testImage : State :=
  let put (m : Memory) (p : Nat × List Byte) : Memory := Memory.writeAll m p.1 p.2
  { State.reset with flash := [(0, toBytes 4 0x4E56455A), (8, [1]), (23, [0xFF]), (24, toBytes 8 0x4000000)].foldl put [] }
theorem witness_boot_header : testImage.boot = .before ∧ testImage.hbm.wf = true ∧ testImage.flash.wf = true ∧
    Sparse.sorted testImage.io.regs = true ∧ headerOk testImage = true ∧ bootFailure State.reset = some 1 := by decide +kernel
theorem witness_boot (hash : shake256 (publicKey testImage) 64 = (List.range 64).map Config.fuseKeyHash)
    (ok : Config.mldsaVerify (publicKey testImage) (signedBytes testImage) (signature testImage) = true) : bootFailure testImage = none := by
  unfold bootFailure
  rw [witness_boot_header.2.2.2.2.1, hash, ok]
  simp

theorem witness_management :
    (let s : State := { State.reset with input := { a := 3, flag := true }, io := { State.reset.io with domain := [0, 1] }, now := 1024, lastAdjust := some 0 }
     s.io.domain ≠ [] ∧ 2 < s.input.a ∧ (∀ t ∈ s.lastAdjust, t + 1024 ≤ s.now) ∧ State.reset.io.domain = []) ∧
    (Sparse.get? [(0, ({ timecmp := 1025 } : Core))] 0).any (fun k => decide (1024 < k.timecmp.toNat ∧ k.timecmp.toNat ≤ 1026)) = true ∧
    ({ State.reset with clockCmd := [2, 3] } : State).clockCmd = 2 :: [3] ∧ State.reset.clockCmd = [] ∧
    (let s := testHalf
     ∃ p ∈ s.cores, p.1 / 48 = 0 ∧ ∃ w ∈ p.2.warps, w.1 ≠ 64) ∧ State.reset.cores = [] ∧
    (let s : State := { State.reset with input := { a := 2 ^ 29 - 2, bytes := [1, 2] } }
     s.input.bytes.length ≤ 4096 ∧ s.input.a + s.input.bytes.length ≤ 2 ^ 29 ∧ s.flash.wf = true) := by decide +kernel

/-! ### Steps, writes and memory -/

/-- `StepRunsDecoded`: the placed instruction, whose words stand at the program counter. -/
theorem witness_step :
    (let i : Instr := .iadd { d := 5, a := .reg 3, b := .reg 4, ty := .z32 }
     let s := State.reset.withFetchWord 96 (0x00605001 + 2 ^ 32 * 0x38000004 + 2 ^ 64 * 7)
     let u := ({ s with units := [] } : State).select 0 0
     s.agenda = [] ∧ s.units = [(0, 0)] ∧ candidates { s with units := [] } 0 0 = [0] ∧ i.wellFormed = true ∧ fetchReady u = true ∧
     u.warp.pc.toNat % 4 = 0 ∧ (encode i).length = 3 ∧
     (∀ j < 3, (match fetchWord u u.warp.pc.toNat ((u.warp.pc.toNat + 4 * j) % 2 ^ 72) with
       | .word y => y == (encode i).getD j 0 | _ => false) = true) ∧
     testNext (exec (resolve i u) u) (fun t => t.issued) = true) := by decide +kernel
/-- `StepTakesEvents`: an event that is due, and a cycle whose units have had their turns. -/
theorem witness_steps : State.reset.agenda = [{ at_ := 0, ev := .packageReset }] ∧ 0 ≤ State.reset.cycle ∧ State.reset.units = [] ∧
    ({ State.reset with agenda := [] } : State).units = [] := by decide +kernel

/-- `WritesAreExact`, `ResultsFrame`, `MemoryStaysCanonical`: tables in order, and all memory in its form. -/
theorem witness_frames : Sparse.sorted (testOne [(3, 1), (4, 2)]).warp.regs = true ∧ Sparse.sorted (testOne []).warp.sregs = true ∧
    Sparse.sorted (testOne []).warp.tags = true ∧ ready 0x000 { d := 5 } (testOne []) = true ∧ readyShort 0x02 { d := 5, a := 3 } (testOne []) = true ∧
    (State.reset.hbm.wf && State.reset.l2.wf && State.reset.flash.wf) = true ∧ (testQuad.hbm.wf && testQuad.l2.wf && testQuad.flash.wf) = true ∧
    testNext (step State.reset) (fun _ => true) = true := by decide +kernel

/-- `DecodeEncode`, `EncodeDecode`: a well-formed instruction and its words, with another word after them. -/
theorem witness_encoding : (Instr.iadd { d := 5, a := .reg 3, b := .reg 4, ty := .z32 }).wellFormed = true ∧
    decodeWords [0x00605001, 0x38000004, 0x00000007, 0xFFFFFFFF] = .instr (.iadd { d := 5, a := .reg 3, b := .reg 4, ty := .z32 }) ∧
    ∀ w ∈ [0x00605001, 0x38000004, 0x00000007, 0xFFFFFFFF], w < 2 ^ 32 := by decide +kernel
end

section
/-! Integer and address instructions (06_integer_instructions): every one of them computes in each executing lane and lands at its
latency. What the shared bodies of the model compute is said once for each; the obligations O1 and O3 are assembled from that. -/

namespace Sys2Proof.Machine

/-- An instruction whose effect is `alu`, at the latency that its form gives. Its values are `Steady` because an operand reads registers,
predicates and the active lanes, none of which the counts of an issue touch. -/
theorem computes_alu {op delay : Nat} {mk : Fields → Instr} {g : Fields → Warp → Nat → List Write}
    (hexec : ∀ f s, exec (mk f) s = issueX op f s fun f s => alu op f s (g f))
    (hlat : (form op).map (fun F => F.lat.cycles) = some delay) (hg : ∀ f, Steady (g f)) : computes op mk delay g := by
  obtain ⟨F, hF, hd⟩ := Option.map_eq_some_iff.1 hlat
  exact computes_of _ hexec (fun _ _ => rfl) (fun _ _ => rfl) (by rw [hF]; exact hd) hg

/-! ### The shared bodies -/

section
variable {op delay : Nat} {mk : Fields → Instr} (hlat : (form op).map (fun F => F.lat.cycles) = some delay)
include hlat

theorem computes_intBody2 {g : Ty → Int → Int → Int} (hexec : ∀ f s, exec (mk f) s = issueX op f s (intBody2 op g)) :
    computes op mk delay (intResult op fun t a b _ => g t a b) :=
  computes_alu hexec hlat fun _ _ _ _ _ => rfl

theorem computes_intBody1 {g : Ty → Int → Int} (hexec : ∀ f s, exec (mk f) s = issueX op f s (intBody1 op g)) :
    computes op mk delay (intResult op fun t a _ _ => g t a) :=
  computes_alu hexec hlat fun _ _ _ _ _ => rfl

theorem computes_carryBody {g : Int → Int → Int → Int} {out : Nat → Int → Bool}
    (hexec : ∀ f s, exec (mk f) s = issueX op f s (carryBody op g out)) :
    computes op mk delay fun f w l =>
      let x := g (srcInt (f.tyOf op) f w l f.a) (srcInt (f.tyOf op) f w l f.b) (srcPred w l f.c).toNat
      putTy (f.tyOf op) f l f.d.toNat (outInt (f.tyOf op) false x) ++
        putPred f w l (f.clsBits 0 3) (out (f.tyOf op).width x) :=
  computes_alu hexec hlat fun _ _ _ _ _ => rfl

theorem computes_logic2 {g : Dword → Dword → Dword} (hexec : ∀ f s, exec (mk f) s = issueX op f s (logic2 op g)) :
    computes op mk delay fun f w l => putTy (f.tyOf op) f l f.d.toNat
      ((g (BitVec.ofNat 64 (srcBits (f.tyOf op) f w l f.a)) (BitVec.ofNat 64 (srcBits (f.tyOf op) f w l f.b))).toNat %
        2 ^ (f.tyOf op).width) :=
  computes_alu hexec hlat fun _ _ _ _ _ => rfl

theorem computes_shiftBody {g : Nat → Nat → Int → Nat → Nat}
    (hexec : ∀ f s, exec (mk f) s = issueX op f s (shiftBody op g)) :
    computes op mk delay fun f w l =>
      let a := srcBits (f.tyOf op) f w l f.a
      putTy (f.tyOf op) f l f.d.toNat (g (f.tyOf op).width a (intOf (f.tyOf op) a) (src32 f w l f.b).toNat) :=
  computes_alu hexec hlat fun _ _ _ _ _ => rfl

theorem computes_countBody {g : Nat → Nat → Nat} (hexec : ∀ f s, exec (mk f) s = issueX op f s (countBody op g)) :
    computes op mk delay fun f w l => put32 f l f.d.toNat
      (BitVec.ofNat 32 (g (f.tyOf op).width (srcBits (f.tyOf op) f w l f.a))) :=
  computes_alu hexec hlat fun _ _ _ _ _ => rfl

theorem computes_dotBody {n k : Nat} (hexec : ∀ f s, exec (mk f) s = issueX op f s (dotBody op n k)) :
    computes op mk delay fun f w l => put32 f l f.d.toNat (BitVec.ofNat 32 (outInt (f.tyOf op) f.sat
      ((List.range n).foldl (fun x i => x + elemInt k i (src32 f w l f.a).toNat (f.clsBits 0 1 == 1) *
        elemInt k i (src32 f w l f.b).toNat (f.clsBits 1 1 == 1)) (srcInt (f.tyOf op) f w l f.c)))) :=
  computes_alu hexec hlat fun _ _ _ _ _ => rfl

end

/-! ### The obligations -/

/-- Settles O1: the sums, products, bounds and absolute value are the shared integer bodies, the carry forms the shared carry body, and
the rest compute by themselves. -/
theorem integerArithmeticResults : Obligations.IntegerArithmeticResults := by
  refine ⟨?iadd, ?isub, ?imul, ?imulh, ?imad, ?imadw, ?iabs, ?imin, ?imax, ?iaddc, ?isubb, ?lea, ?isetp, ?isel⟩
  case iadd | isub | imul | imulh | imin | imax => exact computes_intBody2 rfl fun _ _ => rfl
  case iabs => exact computes_intBody1 rfl fun _ _ => rfl
  case iaddc => exact computes_carryBody rfl (g := fun a b c => a + b + c) (out := carryOut) fun _ _ => rfl
  case isubb => exact computes_carryBody rfl (g := fun a b c => a - b - c) (out := fun _ x => borrowOut x) fun _ _ => rfl
  case imad | imadw | lea | isetp | isel => exact computes_alu (fun _ _ => rfl) rfl fun _ _ _ _ _ => rfl

/-- Settles O3: the bitwise, shift, count and dot-product instructions are their shared bodies, and the rest compute by themselves. -/
theorem bitResults : Obligations.BitResults := by
  refine ⟨?and, ?or, ?xor, ?andn, ?not, ?rotl, ?shl, ?shr, ?sar, ?fshf, ?bfx, ?bfi, ?popc, ?clz, ?ctz, ?brev, ?prmb, ?lut3,
    ?idot4, ?idot2, ?pset⟩
  case and => exact computes_logic2 rfl (g := fun a b => a &&& b) fun _ _ => rfl
  case or => exact computes_logic2 rfl (g := fun a b => a ||| b) fun _ _ => rfl
  case xor => exact computes_logic2 rfl (g := fun a b => a ^^^ b) fun _ _ => rfl
  case andn => exact computes_logic2 rfl (g := fun a b => a &&& ~~~ b) fun _ _ => rfl
  case rotl =>
    exact computes_shiftBody rfl (g := fun w a _ n => a * 2 ^ (n % w) % 2 ^ w + a / 2 ^ (w - n % w)) fun _ _ => rfl
  case shl => exact computes_shiftBody rfl (g := fun w a _ n => if n < w then a * 2 ^ n % 2 ^ w else 0) fun _ _ => rfl
  case shr => exact computes_shiftBody rfl (g := fun w a _ n => if n < w then a / 2 ^ n else 0) fun _ _ => rfl
  case sar =>
    exact computes_shiftBody rfl (g := fun w _ i n => ((if n < w then i / 2 ^ n else if i < 0 then -1 else 0) % 2 ^ w).toNat)
      fun _ _ => rfl
  case popc => exact computes_countBody rfl (g := onesIn) fun _ _ => rfl
  case clz => exact computes_countBody rfl (g := leadingZeros) fun _ _ => rfl
  case ctz => exact computes_countBody rfl (g := trailingZeros) fun _ _ => rfl
  case idot4 | idot2 => exact computes_dotBody rfl fun _ _ => rfl
  case not | fshf | bfx | bfi | brev | prmb | lut3 | pset => exact computes_alu (fun _ _ => rfl) rfl fun _ _ _ _ _ => rfl

end Sys2Proof.Machine
end

section
/-! Moves, gathers and exchanges (07_float_and_lane_instructions R150 to R158): most of them compute in each executing lane; `MOVI` and
`MOVX` check the register numbers that the lanes compute first. The obligation O6 is assembled from that. -/

namespace Sys2Proof.Machine

/-! ### Registers by a computed number (R151) -/

/-- Lane `l` computes a number that names no register of its warp, or no pair of it. -/
def badIndex (op : Nat) (f : Fields) (w : Warp) (l : Nat) : Bool :=
  let n := indirect f w l
  decide (511 < n) || !w.holdsReg n || ((f.tyOf op).width == 64 && n % 2 == 1)

section
variable {op : Nat} {f : Fields} {s : State} (g : Ty → Warp → Nat → Nat → List Write) (hquiet : quiet s.warp = true)
include hquiet

theorem indirectBody_of_bad {l : Nat} (hbad : (execLanes f s.warp).find? (badIndex op f s.warp) = some l) :
    indirectBody op g f s = .trap 0x04 0 (BitVec.ofNat 64 (indirect f s.warp l + 2 ^ 32 * l)) := by
  unfold badIndex at hbad
  simp only [indirectBody, hquiet, hbad, Bool.not_true, Bool.false_eq_true, if_false]

theorem indirectBody_of_good (hgood : (execLanes f s.warp).find? (badIndex op f s.warp) = none)
    (herr : indirectErr op f s.warp = none) :
    indirectBody op g f s = alu op f s fun w l => g (f.tyOf op) w l (indirect f w l) := by
  unfold badIndex at hgood
  simp only [indirectBody, hquiet, hgood, herr, Bool.not_true, Bool.false_eq_true, if_false]

end

/-- What the checks of `MOVI` and `MOVX` read of the warp is not touched by the counts of an issue. -/
theorem indirect_checks_begun (op : Nat) (f : Fields) (s : State) (hold : s.warp.held = false) :
    let w := (begun op f s).warp
    let h := used f s
    quiet w = quiet s.warp ∧ (execLanes h w).find? (badIndex op h w) = (execLanes h s.warp).find? (badIndex op h s.warp) ∧
    indirectErr op h w = indirectErr op h s.warp ∧ indirect h w = indirect h s.warp := by
  obtain ⟨n, o, e⟩ := begun_warp op f s hold
  rw [e]
  exact ⟨rfl, rfl, rfl, rfl⟩

section
variable {op : Nat} {mk : Fields → Instr} {g : Fields → Ty → Warp → Nat → Nat → List Write}
  (hexec : ∀ f s, exec (mk f) s = issueX op f s fun f s => indirectBody op (g f) f s)
  {f : Fields} {s : State} (hready : ready op f s = true) (hquiet : quiet s.warp = true)
include hexec hready hquiet

/-- The lowest executing lane whose number names no register stops the front, and TRAPINFO names the number and the lane. -/
theorem exec_indirect_of_bad {l : Nat}
    (hbad : (execLanes (used f s) s.warp).find? (badIndex op (used f s) s.warp) = some l) :
    exec (mk f) s = .next (faults op f s 0x04 0 (BitVec.ofNat 64 (indirect (used f s) s.warp l + 2 ^ 32 * l))) := by
  obtain ⟨-, hold, -⟩ := (ready_iff op f s).1 hready
  obtain ⟨equiet, ebad, -, eindex⟩ := indirect_checks_begun op f s hold
  rw [hexec, ← eindex]
  exact issueX_trap op f s _ _ _ _ hready (indirectBody_of_bad _ (equiet.trans hquiet) (ebad.trans hbad))

/-- With every number in range and no register in error, the results land when the form of the opcode says. -/
theorem exec_indirect_of_good {delay : Nat} (hlat : (form op).map (fun F => F.lat.cycles) = some delay)
    (hsteady : Steady fun w l => g (used f s) ((used f s).tyOf op) w l (indirect (used f s) w l))
    (hgood : (execLanes (used f s) s.warp).find? (badIndex op (used f s) s.warp) = none)
    (herr : indirectErr op (used f s) s.warp = none) :
    exec (mk f) s = .next (lands op f s (s.cycle + delay) true (results (used f s) s.warp fun w l =>
      g (used f s) ((used f s).tyOf op) w l (indirect (used f s) s.warp l))) := by
  obtain ⟨-, hold, -⟩ := (ready_iff op f s).1 hready
  obtain ⟨equiet, ebad, eerr, -⟩ := indirect_checks_begun op f s hold
  obtain ⟨F, hF, hd⟩ := Option.map_eq_some_iff.1 hlat
  rw [hexec, lands]
  refine issueX_next op f s _ _ hready ?_
  rw [indirectBody_of_good _ (equiet.trans hquiet) (ebad.trans hgood) (eerr.trans herr), alu_begun op f s _ hsteady hold, hF, ← hd]
  rfl

end

/-- Only `MOVI` reads the register that a lane names, so only it can find one in error. -/
theorem indirectErr_eq_none_of_ne {op : Nat} (h : op ≠ 0x082) (f : Fields) (w : Warp) : indirectErr op f w = none :=
  if_pos (Or.inr h)

/-- What `MOVI` writes: the register, or the pair, that lane `l` names. -/
def moviWrites (f : Fields) (t : Ty) (w : Warp) (l n : Nat) : List Write :=
  putTy t f l f.d.toNat (if t.width = 64 then (w.pair n l).toNat else (w.reg n l).toNat)

/-- What `MOVX` writes: its operand, into the register or pair that lane `l` names. -/
def movxWrites (f : Fields) (t : Ty) (w : Warp) (l n : Nat) : List Write := putTy t f l n (srcBits t f w l f.c)

theorem exec_movi (f : Fields) (s : State) :
    exec (.movi f) s = issueX 0x082 f s fun f s => indirectBody 0x082 (moviWrites f) f s := rfl
theorem exec_movx (f : Fields) (s : State) :
    exec (.movx f) s = issueX 0x083 f s fun f s => indirectBody 0x083 (movxWrites f) f s := rfl

/-! ### The obligation -/

/-- Settles O6: the moves, gathers and exchanges compute by themselves; `MOVI` and `MOVX` fault at the first lane with a bad register
number, or land their results. -/
theorem moveResults : Obligations.MoveResults := by
  refine ⟨?mov, ?movk, ?s2v, ?perm, ?shfl, ?qswap, ?qbcast, ?lut16, ?p2v, ?v2p,
    fun f s hquiet => ⟨fun hready => ?movi, fun hready => ?movx⟩⟩
  case mov | movk | s2v | perm | shfl | qswap | qbcast | lut16 | p2v | v2p =>
    exact computes_alu (fun _ _ => rfl) rfl fun _ _ _ _ _ => rfl
  case movi =>
    split
    case h_1 hbad => exact exec_indirect_of_bad exec_movi hready hquiet hbad
    case h_2 hgood => exact exec_indirect_of_good exec_movi hready hquiet rfl (fun _ _ _ _ => rfl) hgood
  case movx =>
    split
    case h_1 hbad => exact exec_indirect_of_bad exec_movx hready hquiet hbad
    case h_2 hgood =>
      exact exec_indirect_of_good exec_movx hready hquiet rfl (fun _ _ _ _ => rfl) hgood
        (indirectErr_eq_none_of_ne (by decide) _ _)

end Sys2Proof.Machine
end
